-- ==== Sys2Proof/Word.lean ====
section
/-! DEFINITION. The word types of the block and their plainest names. -/

namespace Sys2Proof

/-- One byte of a structure the device reads or writes (R3). -/
abbrev Byte := BitVec 8

/-- A 32-bit word: an accumulator word, a lane, a register. -/
abbrev W32 := BitVec 32

/-- A 64-bit word: a set-up register, a bus address. -/
abbrev W64 := BitVec 64

/-- A 128-bit step word or packet header (R42, R272). -/
abbrev W128 := BitVec 128

end Sys2Proof
end

