-- ==== Sys2Proof/Syntax.lean ====
section
/-! DEFINITION. The commands of the block: one constructor of `Instr` for each row of spec/opcode_table.json, in its
order, and the types of their operands. The table gives no row any bits and no operands; the operands are what the
rule of the row names (a unit, an address, a length) and what the world outside the block answers at that moment
(a checksum outcome, a sensor reading). Notes: notes/assumptions/1.md, notes/assumptions/2.md. -/

namespace Sys2Proof

/-- Who sent a host command: its channel (0–4,095; 4,096 + q is the admin ring of physical function q) and the
descriptor header (R428). -/
structure Issuer where
  chan  : Nat
  tag   : W32
  fence : Bool
  quiet : Bool
  irq   : Bool
deriving DecidableEq, Repr

/-- The sources that operate on a sync object (R200). A unit is `unit number + 1024 × shard bank` (R463); `mode` marks
the arrival of a MODE step, which the home recognises (R198). -/
inductive Agent where
  | unit (ub : Nat) (mode : Bool)
  | caller (e : Nat)
  | stream (se ctx : Nat)
  | host (h : Issuer)
  | link (dev : BitVec 14) (die : Nat)
deriving DecidableEq, Repr

/-- Who issues a SYNC (R194): a unit whose fired step it is, or a host channel with its operand bits. -/
inductive SyncIssuer where
  | step (ub : Nat)
  | host (h : Issuer) (ops : BitVec 80)
deriving DecidableEq, Repr

/-- What the check of a memory-side operation found (R226). -/
inductive Check where
  | passed | corrected | failed
deriving DecidableEq, Repr

/-- What the checks of a vector step's parts found (R153): how many of them re-executed with success, and the one whose re-execution
failed; neither is how they pass. -/
structure VuCheck where
  corrected : Nat := 0
  failed    : Option Nat := none
deriving DecidableEq, Repr

/-- What a memory read's error code found (R132, R248). -/
inductive Ecc where
  | clean
  | corrected
  | uncorrectable (syndrome : W64)
deriving DecidableEq, Repr

/-- Kinds of memory request (R233). -/
inductive ReqKind where
  | read | write | add | scrub
deriving DecidableEq, Repr

/-- The memory-side transform a request carries, with the MODE_BITS its stream held (R221, R224). -/
inductive XForm where
  | none
  | convert (fmt mfmt : BitVec 5) (mode : Byte)
  | scatterAdd (fmt : BitVec 5) (mode : Byte)
deriving DecidableEq, Repr

/-- A request to an HBM controller: one 256-byte block of a stack and the 64-byte pieces concerned (R233, R272). -/
structure Req where
  stack    : Nat
  block    : Nat          -- stack offset of the block, a multiple of 256
  kind     : ReqKind
  mask     : BitVec 4
  cls      : BitVec 2
  vcrit    : Bool
  init     : BitVec 12
  sub      : BitVec 4
  seq      : W32
  epoch    : Byte
  poisoned : Bool         -- VSTATE POISONED of write data
  first    : Nat          -- byte range of a partial write; 0 and 255 otherwise
  last     : Nat
  data     : List Byte
  xform    : XForm
deriving DecidableEq, Repr

/-- Read data on its way to its initiator (R172, R266). -/
structure Resp where
  init     : BitVec 12
  sub      : BitVec 4
  seq      : W32
  stack    : Nat
  block    : Nat
  mask     : BitVec 4
  epoch    : Byte
  vstate   : BitVec 2     -- 0 RELEASED, 1 PENDING, 2 POISONED
  data     : List Byte
  bads     : BitVec 4 := 15   -- of POISONED data, the pieces that are: every flit has its own header
deriving DecidableEq, Repr

/-- The pieces of a response that are poisoned (R172, R272, R273). -/
def Resp.badLines (r : Resp) : BitVec 4 := if r.vstate = 2 then r.bads else 0

/-- What an ACK packet says (R266, R451). -/
inductive AckStatus where
  | ok | retry | pcFrozen | permission | hostErr | refused | poisoned | absent
deriving DecidableEq, Repr

/-- An acknowledgement on its way to its initiator (R176, R266). -/
structure Ack where
  init   : BitVec 12
  sub    : BitVec 4
  seq    : W32
  stack  : Nat
  block  : Nat
  status : AckStatus
  epoch  : Byte := 0
deriving DecidableEq, Repr

/-- The body of a trailing VERDICT (R285) and the context it is addressed to. -/
structure VerdictBody where
  se      : Nat
  ctx     : Nat
  first   : W32
  last    : W32
  outcome : BitVec 2      -- 0 PASS, 1 FAIL, 2 CANCELLED
deriving DecidableEq, Repr

/-- A Zegus frame (R446). Whether it passed FCRC is for UNCORRECTABLE_CODEWORD to say. `arith` says that its data are arithmetic,
which R64 and R273 go by and no field of the header tells (DESIGN CHOICE: the frame carries it beside the header). -/
structure Frame where
  dst    : BitVec 14
  src    : BitVec 14
  vc     : BitVec 2
  type   : BitVec 4
  ttl    : BitVec 4
  len    : BitVec 4
  vstate : BitVec 2
  epoch  : Byte
  lseq   : BitVec 16
  lack   : BitVec 16
  cred   : BitVec 32
  sid    : BitVec 16
  tseq   : W32
  addr   : BitVec 48
  data   : List Byte
  arith  : Bool := false
deriving DecidableEq, Repr

/-- How a trailing VERDICT reaches its context: as a packet of the floor, or as a frame at a link die (R285). -/
inductive VerdictSource where
  | packet (v : VerdictBody)
  | frame (die : Nat) (f : Frame)
deriving DecidableEq, Repr

/-- The saved position of a halted stream (R184), with what is needed to resume it elsewhere (R469). -/
structure SavedPos where
  se     : Nat
  ctx    : Nat
  desc   : List Byte
  use    : Nat
  tH     : Nat
  bytes  : Nat
  done   : List Nat
  cause  : Nat
  addr   : Int
deriving DecidableEq, Repr

/-- One member's part of a CHECKPOINT record (R469). -/
structure CkptUnit where
  unit  : Nat
  tk    : List (Nat × Nat)
  cp    : List (Nat × Nat)
  epoch : Byte
  mode  : Byte
deriving DecidableEq, Repr

/-- A CHECKPOINT record (R469). The choreography's place, `base` in address space `asid`, and the offset `next` of the bar
after the MARK bar are part of the dynamic position; the rest of the prologue is read where the record is restored. -/
structure Ckpt where
  ens     : Nat
  number  : Nat
  base    : Nat
  asid    : Nat
  dyn     : Nat
  next    : Nat
  epoch   : Byte
  figs    : List (Nat × Nat)
  units   : List CkptUnit
  syncs   : List (Nat × BitVec 128)
  remote  : List (Nat × W64)
  halted  : List SavedPos
  chans   : List (Nat × BitVec 16)
deriving DecidableEq, Repr

/-- What travels in the MIRROR sequence (R465, R468, R469). -/
inductive MirrorItem where
  | lines (addr : Nat) (data : List Byte) (poisoned : Bool)
  | checkpoint (c : Ckpt)
deriving DecidableEq, Repr

/-- A mirror entry as the pair names it: its number, the range at the device that declares it, and the place of its copy in
the other's memory (R468). -/
structure MirrorRange where
  entry   : Nat
  addr    : Nat
  len     : Nat
  partner : Nat
deriving DecidableEq, Repr

/-- What a partner MEMORY frame carries (R465, R180). -/
inductive PartnerMemory where
  | request (addr : Nat) (write : Bool) (mask : BitVec 4) (seq : W32) (sid : BitVec 16) (data : List Byte) (poisoned : Bool)
  | response (addr : Nat) (seq : W32) (sid : BitVec 16) (status : AckStatus) (data : List Byte)
deriving DecidableEq, Repr

/-- CONTROL messages: release, handback and admission, and their answers (R465, R477, R478). -/
inductive Control where
  | release
  | released
  | handback (c : Ckpt)
  | confirm (e : Nat)
  | phaseOneDone
  | phaseTwoDone
deriving DecidableEq, Repr

/-- The two paths of a heartbeat (R466). -/
inductive HbPath where
  | frames | sideband
deriving DecidableEq, Repr

/-- The two management ports (R503). -/
inductive MPort where
  | i3c | csp
deriving DecidableEq, Repr

/-- The units that take walk-throughs (R295). -/
inductive WalkUnit where
  | tile (n : Nat)
  | vectorUnit (n : Nat)
  | streamEngine (n : Nat)
  | cluster (n : Nat)
deriving DecidableEq, Repr

/-- The blocks RESET_BLOCK names (R391, R435). -/
structure BlockId where
  cls   : Nat
  index : Nat
deriving DecidableEq, Repr

/-- What the fabric presents to a DSP block in one cycle (R328, R331): its A and B ports, its controls, and what its COEF
port loads, if anything. -/
structure DspIn where
  a       : BitVec 24
  b       : BitVec 18
  run     : Bool
  inValid : Bool
  coef    : Option (BitVec 5 × BitVec 18)
deriving DecidableEq, Repr

/-- What the IEEE 1687 network is asked for (R520). -/
inductive Instrument where
  | sensor (n : Nat)
  | stepTrace (unit : Nat)
  | callerTrace
  | tileStore (tile line : Nat)
  | accumulator (tile array block row : Nat)
  | hbm (stack offset : Nat)
  | linkResends (link : Nat)
  | occupancy (router : Nat)
  | rail (n : Nat)
  | pll (n : Nat)
  | eye (stack pc : Nat)
  | rearmTrace
  | bistTileStore (tile : Nat)
  | bistBlockRam (block : Nat)
  | keeperHalt (halt : Bool)
deriving DecidableEq, Repr

/-- What one poll of the doorbell summary of a function found and read (R432): the words the swaps returned. -/
structure PollWords where
  top    : W64
  admin  : W64
  groups : List (Nat × W64)
deriving DecidableEq, Repr

/-- The commands. -/
inductive Instr where
  -- the choreography and the Caller
  | loadChoreography (h : Issuer) (base : W64) (asid : BitVec 10)
  | start (h : Issuer) (e : BitVec 3)
  | routeSectionRead (e : BitVec 3)
  | cancel (h : Issuer) (e : BitVec 3) (group : Byte) (action : Bool)
  | stop (h : Issuer) (e : BitVec 3)
  | stopComplete (e : BitVec 3)
  | barFetch (e : BitVec 3)
  | fetchResume (e : BitVec 3)
  | barDeal (e : BitVec 3)
  | branch (e : BitVec 3)
  | ensembleDone (e : BitVec 3)
  | mark (e : BitVec 3)
  | stepFire (ub : Nat)
  | stepComplete (ub : Nat)
  | nop (ub : Nat)
  | mode (ub : Nat)
  | modeAdopt (ub : Nat)
  | cancelStep (ub : Nat)
  | cancelBroadcast (ub : Nat) (e : BitVec 3) (group : Byte) (action : Bool)
  | sync (i : SyncIssuer)
  | route (ub : Nat)
  | token (ub : Nat) (tk : BitVec 4)
  | credit (ub : Nat) (pool : BitVec 3) (n : BitVec 16)
  | absent (ub : Nat)
  -- the matrix path of a tile
  | mxp (ub : Nat)
  | tcfg (ub : Nat)
  | drain (ub : Nat)
  | verdict (ub : Nat) (disagree : BitVec 4)
  | locateReRun (ub : Nat) (found : List (Nat × List Nat))
  | blockReplay (ub : Nat) (disagree : BitVec 4)
  | walkThrough (u : WalkUnit) (failed : Bool) (arrays : BitVec 4)
  -- the vector unit
  | vmov (ub : Nat) (chk : VuCheck)
  | vadd (ub : Nat) (chk : VuCheck)
  | vsub (ub : Nat) (chk : VuCheck)
  | vmul (ub : Nat) (chk : VuCheck)
  | vfma (ub : Nat) (chk : VuCheck)
  | vmax (ub : Nat) (chk : VuCheck)
  | vmin (ub : Nat) (chk : VuCheck)
  | vcmp (ub : Nat) (chk : VuCheck)
  | vsel (ub : Nat) (chk : VuCheck)
  | vexp2 (ub : Nat) (chk : VuCheck)
  | vlog2 (ub : Nat) (chk : VuCheck)
  | vrcp (ub : Nat) (chk : VuCheck)
  | vrsq (ub : Nat) (chk : VuCheck)
  | vred (ub : Nat) (chk : VuCheck)
  | vsmx (ub : Nat) (chk : VuCheck)
  | vcmb (ub : Nat) (chk : VuCheck)
  | vperm (ub : Nat) (chk : VuCheck)
  | vrand (ub : Nat) (chk : VuCheck)
  | vseed (ub : Nat) (chk : VuCheck)
  | vscl (ub : Nat) (chk : VuCheck)
  | tsScrub (tile : Nat) (line : Nat) (found : Ecc)
  -- stream engines and translation
  | dload (ub : Nat)
  | dloadComplete (ub : Nat) (slot : BitVec 6)
  | dloadResume (ub : Nat)
  | stream (ub : Nat)
  | rfree (ub : Nat)
  | transactionIssue (se : Nat) (ctx : BitVec 3)
  | tableWalk (requester : Nat) (asid : BitVec 10) (va : BitVec 48)
  | rdResp (r : Resp)
  | ack (a : Ack)
  | hostFlush (se : Nat) (ctx : BitVec 3) (ok : Bool)
  | resumeStream (h : Issuer) (unit : BitVec 10) (ctx : BitVec 3)
  | streamStalled (se : Nat) (ctx : BitVec 3)
  | retry (init : BitVec 12) (sub : BitVec 4) (seq : W32)
  -- sync objects
  | arrive (a : Agent) (obj : BitVec 15) (n : W32)
  | wait (a : Agent) (obj : BitVec 15)
  | set (a : Agent) (obj : BitVec 15) (v : W32)
  | reset (a : Agent) (obj : BitVec 15) (target : W32) (auto : Bool)
  | read (a : Agent) (obj : BitVec 15)
  | syncResp (a : Agent) (obj : BitVec 15)
  | waitRetry (a : Agent) (obj : BitVec 15)
  | syncConfig (h : Issuer) (obj : BitVec 15) (owner : BitVec 4) (tree : Bool) (wtk : BitVec 5)
  | remoteMap (h : Issuer) (index : BitVec 12) (entry : W64)
  | arriveFrame (die : Nat) (f : Frame)
  -- memory-side engines
  | mload (ub : Nat)
  | mrun (ub : Nat)
  | gather (stack : Nat) (job : BitVec 2)
  | scatterAdd (stack : Nat) (job : BitVec 2)
  | reduce (stack : Nat) (job : BitVec 2)
  | convert (stack : Nat) (job : BitVec 2)
  | workCopy (stack : Nat) (job : BitVec 2)
  | fill (stack : Nat) (job : BitVec 2)
  | topk (stack : Nat) (job : BitVec 2)
  | scrub (stack : Nat) (job : BitVec 2) (found : List (Nat × Ecc))
  | gemv (stack : Nat) (job : BitVec 2)
  | adec (stack : Nat) (job : BitVec 2)
  | jobPiece (stack : Nat) (job : BitVec 2) (cluster : BitVec 3) (chk : Check)
  | jobComplete (stack : Nat) (job : BitVec 2)
  | memRegionWrite (v : W32)
  | astBaseWrite (v : W64)
  -- HBM controllers
  | rdReq (r : Req)
  | wrReq (r : Req)
  | addReq (r : Req)
  | requestIssue (stack pc : Nat) (ready : BitVec 64) (found : Ecc) (chk : Check)
  | agePromotion (stack pc : Nat) (init : BitVec 12) (seq : W32)
  | rowClose (stack pc bank : Nat)
  | refresh (stack pc bank : Nat) (postpone : Bool)
  | refreshWindowEnd (stack pc bank : Nat)
  | throttleCooldown (stack pc : Nat) (init : BitVec 12)
  | dramTempRead (stack : Nat) (dies : List Int)
  | hbmScrub (stack : Nat) (line : Nat) (found : Ecc)
  | parityAlert (stack pc : Nat) (offset : Nat)
  | unfreeze (h : Issuer) (stack : BitVec 4) (pc : BitVec 6)
  | retirePc (h : Issuer) (stack : BitVec 4) (pc : BitVec 6)
  | evacuation (stack : Nat) (unreadable : List Nat)
  | initialTraining (stack : Nat) (failed : List Nat) (temp : Int)
  | retrainingPiece (stack pc : Nat)
  | linkResend (link : Nat)
  -- the floor network
  | statWindow (flits : List (Nat × Nat))
  | restart (v : W32)
  -- result integrity
  | verdictPacket (v : VerdictSource)
  | verdictTimeout (se : Nat) (ctx : BitVec 3) (slot : Nat)
  | tileMigration (tile : Nat)
  | seMigration (se : Nat)
  | record (code cls sev unit detail : Nat)
  | countPeriod (cls unit code : Nat)
  | eventDelivery (chan : Nat)
  -- logic fabric
  | fabClkWrite (k : BitVec 5) (v : W32)
  | gwRead (gw : Nat) (cmd : W128)
  | gwWrite (gw : Nat) (cmd : W128) (data : List Byte)
  | gwAdd (gw : Nat) (cmd : W128) (data : List Byte)
  | tsRead (gw : Nat) (cmd : W128)
  | tsWrite (gw : Nat) (cmd : W128) (data : List Byte)
  | gwToken (gw : Nat) (cmd : W128)
  | gwResponse (gw : Nat) (tag : Byte)
  | dspNop (b : Nat) (ops : BitVec 20) (i : DspIn)
  | clr (b : Nat) (ops : BitVec 20) (i : DspIn)
  | mul (b : Nat) (ops : BitVec 20) (i : DspIn)
  | mac (b : Nat) (ops : BitVec 20) (i : DspIn)
  | msu (b : Nat) (ops : BitVec 20) (i : DspIn)
  | adda (b : Nat) (ops : BitVec 20) (i : DspIn)
  | mov (b : Nat) (ops : BitVec 20) (i : DspIn)
  | setp (b : Nat) (ops : BitVec 20) (i : DspIn)
  | repeatN (b : Nat) (ops : BitVec 20) (i : DspIn)
  | waitv (b : Nat) (ops : BitVec 20) (i : DspIn)
  | jmp (b : Nat) (ops : BitVec 20) (i : DspIn)
  | halt (b : Nat) (ops : BitVec 20) (i : DspIn)
  | dspRestart (b : Nat)
  -- personalities
  | loadPersonality (h : Issuer) (image : W64) (length : W64) (asid : BitVec 10) (dest : BitVec 48)
  | partialLoad
  | regionRelease (region : Nat)
  | tablesLoad
  | tableCommit
  | modelLoad
  | staticLoad
  | bootLoad
  | globalRelease (doneHigh : Bool)
  | imageStart (dest : W64)
  | imageData (bytes : List Byte)
  | cfgStatus
  | cspStatus
  | mgmtReq (frame : List Byte) (fuseOk : Bool)
  | mgmtResp
  -- reset and bring-up
  | powerOnReset
  | systemReset (byPin : Bool)
  | coreReset (byHost : Bool)
  | sysWdog
  | optionLoad (bbkIntact : Bool) (repairCopies : BitVec 2)
  | pllUnlock
  | resetBlock (h : Issuer) (b : BlockId)
  | blockReset (p : MPort) (seq : Byte) (b : BlockId)
  | blockIdle (b : BlockId)
  | blockIdleTimeout (b : BlockId)
  | perst (port : Nat)
  | pcieTraining (port : Nat) (half : Nat)
  | flr (port fn : Nat)
  -- clocks, power, thermal
  | controlInterval (watts tierWatts : Nat)
  | sensorRead (sensor : Nat) (temp : Int)
  | iFast
  | thermTrip (sensor : Nat) (temp : Int)
  | railFault (rail : Nat) (tier : Option Nat)
  -- host interface
  | poll (fn : Nat) (w : PollWords)
  | doorbellReread (chan : Nat)
  | completionWrite (chan : Nat)
  | interrupt (chan : Nat) (timeExpired : Bool)
  | completionTimeout (init : BitVec 12) (sub : BitVec 4) (seq : W32)
  | hostNop (h : Issuer)
  | copy (h : Issuer) (src dst len : W64) (srcSpace dstSpace : BitVec 2) (asid : BitVec 10)
  | mapPages (h : Issuer) (asid : BitVec 10) (all : Bool) (va len list : W64) (n : W32)
  | setLimits (h : Issuer) (pairs : List (BitVec 16 × W32))
  | query (h : Issuer) (item : Byte) (index : BitVec 16) (clear : Bool) (buf len : W64)
  | correlateTime (h : Issuer) (ptm : Option (W64 × W32))
  | writeInstallationMap (h : Issuer) (addr : W64)
  | enable (h : Issuer) (chan : BitVec 12)
  | disable (h : Issuer) (chan : BitVec 12)
  | registerWrite (fn : Nat) (off : Nat) (wide : Bool) (v : W64)
  -- Zegus links
  | put (die : Nat) (f : Frame)
  | ring (die : Nat) (f : Frame)
  | getReq (die : Nat) (f : Frame)
  | getResp (die : Nat) (f : Frame)
  | ackFrame (die : Nat) (f : Frame)
  | grant (die : Nat) (f : Frame)
  | fence (die : Nat) (f : Frame)
  | adopt (die : Nat) (f : Frame)
  | unadopt (die : Nat) (f : Frame)
  | forward (die : Nat) (f : Frame)
  | nack (die : Nat) (lseq : BitVec 16)
  | recovery (die : Nat) (lanes : List Nat)
  | ident (die : Nat) (peer : BitVec 14) (peerDie : BitVec 4) (version : Byte) (credits : List Nat) (digests : Bool) (mirrors : List MirrorRange)
  | trainingTimeout (die : Nat)
  | zlStalled (die : Nat) (vc : BitVec 2)
  | laneSparing (die : Nat) (lane spare : Nat)
  -- partnership
  | heartbeat (p : HbPath)
  | heartbeatSend
  | silence (link sideband : Bool)
  | quorumWait
  | mirror (m : MirrorItem)
  | memory (m : PartnerMemory)
  | control (c : Control)
  | resilver (r : MirrorRange) (own : Bool) (off : Nat) (data : List Byte) (last : Bool)
  | ptnMirror (h : Issuer) (entry : BitVec 6) (valid : Bool) (addr len partner : W64)
  | ptnTakeover (h : Issuer)
  | ptnStandDown (h : Issuer)
  | ptnRelease (h : Issuer)
  | ptnAdmit (h : Issuer)
  -- management
  | regRead (p : MPort) (seq : Byte) (off : W32)
  | regWrite (p : MPort) (seq : Byte) (off : W32) (wide : Bool) (v : W64)
  | telemetry (p : MPort) (seq : Byte) (item : Byte) (index : BitVec 16) (clear : Bool)
  | logRead (p : MPort) (seq : Byte) (device : Bool) (first : W64)
  | mgmtSetLimits (p : MPort) (seq : Byte) (pairs : List (BitVec 16 × W32))
  | slotWrite (p : MPort) (seq : Byte) (slotB last : Bool) (off : BitVec 26) (bytes : List Byte)
  | slotOwnershipTimeout (slot : Nat)
  | configSet (p : MPort) (seq : Byte) (port : BitVec 2) (split : Byte)
  | ownerProvision (p : MPort) (seq : Byte) (slot : Byte) (hash : BitVec 256) (fuseOk : Bool)
  | ownerRevoke (p : MPort) (seq : Byte) (slot : Byte) (fuseOk : Bool)
  | policySet (p : MPort) (seq : Byte) (fusedOff bbkOff fuseOk : Bool)
  | keyWrite (p : MPort) (seq : Byte) (cipher : List Byte)
  | keyErase (p : MPort) (seq : Byte)
  | rollbackAdvance (p : MPort) (seq : Byte) (cls : Byte) (value : Byte) (fuseOk : Bool)
  | fwStage (p : MPort) (seq : Byte) (steward last : Bool) (off : BitVec 26) (bytes : List Byte)
  | fwActivate (p : MPort) (seq : Byte) (steward : Bool)
  | fwCommit (steward : Bool)
  | fwReverted (steward : Bool)
  | attest (p : MPort) (seq : Byte) (nonce : List Byte) (mask : Byte)
  | keeperRestart
  | tamper (vbatLoss : Bool) (asserted : Bool)
  | getVersion (port : Nat) (req : List Byte)
  | getCapabilities (port : Nat) (req : List Byte)
  | negotiateAlgorithms (port : Nat) (req : List Byte)
  | getDigests (port : Nat) (req : List Byte)
  | getCertificate (port : Nat) (slot : BitVec 4) (off len : BitVec 16)
  | challenge (port : Nat) (slot : BitVec 4) (nonce : List Byte)
  | getMeasurements (port : Nat) (index : Byte) (nonce : List Byte)
  | keyExchange (port : Nat) (slot : BitVec 4) (req : List Byte)
  | finish (port : Nat) (req : List Byte)
  | endSession (port : Nat)
  | entdaa (addr : BitVec 7)
  | rstdaa
  | enec (events : Byte)
  | disec (events : Byte)
  | getpid
  | getbcr
  | getdcr
  | getstatus
  | getmwl
  | getmrl
  | setmwl (n : BitVec 16)
  | setmrl (n : BitVec 16)
  -- the TAP
  | idcode
  | samplePreload (pads shift : BitVec 1152)
  | extest (pads shift : BitVec 1152)
  | clamp
  | highz
  | ijtag (i : Instrument)
  | bypass
  | testLogicReset
  -- rows the table adds at its end
  | phyTrained (die : Nat) (ok : Bool)
  | uncorrectableCodeword (die : Nat) (lanes : List Nat)
  | lackCred (die : Nat) (lack : BitVec 16) (cred : BitVec 32)
  | voltageSettled (domain : Nat)
  | vioSupplyReturned (bank : Nat)
  | retrainingPieceEnds (stack pc : Nat) (done marginOk : Bool)
deriving DecidableEq, Repr

end Sys2Proof
end

