-- ==== Sys2Proof/Config.lean ====
section
/-! DEFINITION. What the spec leaves open, as constants with no body: nothing can be proved about a value of one.
Each is named in a row of notes/assumptions. The algorithms that the spec names by an outside standard only
(SM2, SM3, SM4-GCM) are constants of this file too. -/

namespace Sys2Proof.Config

/-- Free 32-bit values, drawn one after another by `State.free` (R107 fast mode, R146, R215, R218, R219, R220). -/
opaque freeWord : Nat → BitVec 32

/-- Free bytes, drawn one after another by `State.free` (R215: overlapping COPY). -/
opaque freeByte : Nat → BitVec 8

/-- Which of the OP codes 4 to 7, reserved for a step, the host's READ of a sync object carries (R194, R201). -/
opaque hostReadOp : BitVec 2

/-- How many units in the last place, of at most two, a VEXP2 misses the rounded power by (R148). -/
opaque vexp2Error : BitVec 32 → Int

/-- By how much, in units of 2⁻⁶⁴ and within its bound, a VLOG2 misses the logarithm (R148). -/
opaque vlog2Error : BitVec 32 → Int

/-- How many units in the last place, of at most one, a VRCP misses the rounded reciprocal by (R148). -/
opaque vrcpError : BitVec 32 → Int

/-- How many units in the last place, of at most two, a VRSQ misses the rounded inverse root by (R148). -/
opaque vrsqError : BitVec 32 → Int

/-- The result of the transcendental opcode `op` under tables other than the standard ones, for which the device promises
no bound (R148). -/
opaque unboundedResult : (op : Nat) → BitVec 32 → BitVec 32

/-- The order of the sum that draw `draw` numbers: which terms its step `step` adds (R146, R147, R215). -/
opaque sumPick : (draw step : Nat) → Nat

/-- Whether the sum that draw `draw` numbers rounds its products before it adds them (R147). -/
opaque sumSplits : (draw : Nat) → Bool

/-- Whether a tile set-up table set holds the standard transcendental tables, under which the bounds of R148 hold; the
spec gives no contents of those tables (R148, R356). -/
opaque standardTables : List (BitVec 8) → Bool

/-- Whether a fast-mode VFMA rounds the product before the sum (R145: it may). -/
opaque vfmaSplits : BitVec 32 → BitVec 32 → BitVec 32 → Bool

/-- The keeper's entropy: the state lane `lane` of generator bank `bank` is seeded with at seeding number `era` (R150, R228). -/
opaque laneSeed : (era bank lane : Nat) → BitVec 64

/-- SM3 of a byte string (GB/T 32905; R352). -/
opaque sm3 : List (BitVec 8) → List (BitVec 8)

/-- Whether an SM2 signature over a digest verifies under a public key (GB/T 32918.2; R352). -/
opaque sm2Verify : (key digest sig : List (BitVec 8)) → Bool

/-- The SM2 signature of a digest under the device's private key (R498). -/
opaque sm2Sign : (priv : BitVec 256) → (digest : List (BitVec 8)) → List (BitVec 8)

/-- SM2 public-key decryption of a KEY_WRITE payload (GB/T 32918.4; R491). -/
opaque sm2Decrypt : (priv : BitVec 256) → (cipher : List (BitVec 8)) → BitVec 128

/-- The check value the keeper stores beside a battery-backed key (R488). -/
opaque keyCheck : BitVec 128 → BitVec 32

/-- SM4-GCM decryption: plain text, and whether the tag verified (R352, R368). -/
opaque sm4Gcm : (key : BitVec 128) → (nonce tag cipher : List (BitVec 8)) → List (BitVec 8) × Bool

/-- SM4 decryption of one block: the next segment's key (R368). -/
opaque sm4Block : (key : BitVec 128) → List (BitVec 8) → BitVec 128

/-- The body of an SPDM response, which the DMTF standard lays out and the spec does not (R497). -/
opaque spdmBody : (code : Nat) → (request : List (BitVec 8)) → List (BitVec 8)

/-- Bytes 2 and 3 of an I3C GETSTATUS or the fixed characteristics GETBCR and GETDCR return (R507 names them, gives no value). -/
opaque i3cCharacteristic : (ccc : Nat) → BitVec 16

/-- Abakiod's MIPI manufacturer ID (R507 names it, gives no number). -/
opaque mipiManufacturer : BitVec 15

/-- The format of a walk-through's known-answer pass of a family, and the weight block that the unit's generator makes of the operand
seeds of that format in the table set in force (R296, R355). -/
opaque walkFormat : (family : Nat) → BitVec 5
opaque walkWeights : (seeds : List (BitVec 8)) → List (BitVec 8)

/-- What training number `run` set a helper of a pseudo-channel to, or left in it (R259, R260): the firmware's business. -/
opaque trainingSetting : (run helper : Nat) → BitVec 32

/-- Whether a symbol of HBM loses its contents in a CK_MGT cycle: the line over all stacks, the symbol 0–35 and its error (R248). -/
opaque hbmUpset : (cycle : Nat) → Option (Nat × Nat × BitVec 16)

/-- Whether cells of a tile store lose their contents in a CK_MGT cycle: the line over all tiles, the codeword 0–7 and the bits
that flip (R132). -/
opaque storeUpset : (cycle : Nat) → Option (Nat × Nat × BitVec 72)

/-- The CRC-16 of a header's bits [111:0] and of a narrow flit's body: the spec names no polynomial (R265, R272). -/
opaque headerCrc : BitVec 112 → BitVec 16
opaque bodyCrc : List (BitVec 8) → BitVec 16

/-- The four symbol syndromes of a line with these erroneous symbols: the spec gives the code, no generator (R248). -/
opaque syndromes : List (Nat × BitVec 16) → BitVec 64

/-! ## The user's logic (R318–R323, R337)

The frames configure the cells, the block RAMs and the pads, and the spec gives no meaning of their bits; what the design then
does in a CK_MGT cycle is the user's. -/

/-- What the design asks of a port of a block RAM at an edge of the port's net: a read, or a write of `data`. -/
structure BramAsk where
  addr  : Nat
  write : Bool
  data  : BitVec 72
deriving DecidableEq, Repr

/-- What happens in the user's logic: an edge of `net` at one flip-flop, with the cell's inputs and its control inputs; operands
on a carry chain of `n` cells; an edge at a block RAM, with what each port is asked; cells of a block RAM that lose their
contents; an edge of a word clock at a serialising pair, with the word the design gives, or the word that has come in; a
bypassed pin sampled by a flip-flop, or driven by one; a border signal as a region drives it, or as a flip-flop of the static region
samples it; and a region's REGION_ABSENT, sampled in the same way. -/
inductive FabAct where
  | flop (cell ff : Nat) (net : BitVec 5) (inputs : BitVec 6) (direct enable clear : Bool)
  | chain (first n : Nat) (a b : BitVec 512) (carryIn : Bool)
  | bram (block : Nat) (a b : Option BramAsk)
  | upset (block word : Nat) (flips : BitVec 72)
  | serialise (bank pair : Nat) (word : BitVec 16)
  | deserialise (bank pair : Nat) (word : BitVec 16)
  | bypassIn (bank pin cell ff : Nat) (level : Bool)
  | bypassOut (bank pin cell ff : Nat)
  | border (region signal : Nat) (level : Bool)
  | borderIn (region signal cell ff : Nat)
  | absentIn (region cell ff : Nat)
deriving DecidableEq, Repr

/-- What the user's logic does in a CK_MGT cycle, in order. -/
opaque fabric : (cycle : Nat) → List FabAct

/-- What the frames of a region set in it: the four nets of a cluster, five bits each (R319); a cell's table, its flip-flops' inputs
and initial values (R318); a block RAM and its initial contents, by 512 × block + word (R321); the program and the net of a DSP block
(R328); and in the static region a bank's divisor m and supply level, 0 to 2 for 1.0, 1.2 and 1.8 V, and a pair's standard, direction
and termination (R335–R337). -/
opaque clusterNets : (frames : List (Nat × BitVec 8)) → (cluster : Nat) → BitVec 20
opaque cellTable : (frames : List (Nat × BitVec 8)) → (cell : Nat) → BitVec 64
opaque flopSource : (frames : List (Nat × BitVec 8)) → (cell ff : Nat) → BitVec 2
opaque flopInit : (frames : List (Nat × BitVec 8)) → (cell ff : Nat) → Bool
opaque bramAspect : (frames : List (Nat × BitVec 8)) → (block : Nat) → BitVec 3
opaque bramPorts : (frames : List (Nat × BitVec 8)) → (block : Nat) → BitVec 15
opaque bramInit : (frames : List (Nat × BitVec 8)) → (word : Nat) → BitVec 72
opaque dspProgram : (frames : List (Nat × BitVec 8)) → (block : Nat) → List (BitVec 24)
opaque dspNet : (frames : List (Nat × BitVec 8)) → (block : Nat) → BitVec 5
opaque bankDivisor : (frames : List (Nat × BitVec 8)) → (bank : Nat) → Nat
opaque bankLevel : (frames : List (Nat × BitVec 8)) → (bank : Nat) → BitVec 2
opaque pairSetup : (frames : List (Nat × BitVec 8)) → (bank pair : Nat) → BitVec 5

/-- The cluster directly above a cluster in its column, where there is one: the spec gives the count of clusters, no geometry
(R317, R319). -/
opaque clusterAbove : (cluster : Nat) → Option Nat

/-- The eight check bits of a block RAM's SEC-DED code: the spec names no code (R323). -/
opaque bramCheck : BitVec 64 → BitVec 8

/-- What a SEC-DED read makes of three or more flipped bits of a word, which the spec does not say: bits [1:0] 0 returned as read, 1 "corrected"
in the bit that [8:2] names, else uncorrectable (R323). -/
opaque bramBeyond : BitVec 72 → BitVec 9

end Sys2Proof.Config
end

