-- ==== Sys2Proof/Machine/State.lean ====
section
/-! DEFINITION. The state of the Bluyr as plain data, everything the spec gives it, and its value right after reset.

An indexed group of things (tiles, sync objects, lines of memory) is a `Map`: a list of (index, value) pairs with
indices strictly rising and no value equal to the group's reset value, so that equal groups are equal data. The reset
value is the argument of `Map.get` and `Map.set`; a structure's reset value is its default value here. INVENTORY.md
lists every field with its rule and its reset value. -/

namespace Sys2Proof.Machine

/-- An indexed group in canonical form. -/
abbrev Map (α : Type) := List (Nat × α)

/-! ## Records and packets -/

/-- A fault or event record (R312). `ens` 8 is "none". -/
structure Rec where
  code     : Nat := 0
  cls      : Nat := 0
  sev      : Nat := 0
  unit     : Nat := 0
  ltc      : Nat := 0
  bar      : Nat := 0xFFFFFFFF
  slot     : Nat := 0xFFFF
  opcode   : Nat := 0xFF
  ens      : Nat := 8
  pseq     : Nat := 0
  device   : Nat := 0x3FFF
  before   : Nat := 0
  after    : Nat := 0
  changed  : Bool := false
  epoch    : Nat := 0
  temp     : Int := 0
  volt     : Nat := 0
  sensor   : Nat := 0
  window   : Bool := false
  truncated : Bool := false
  winFirst : Nat := 0
  winLast  : Nat := 0
  winLtc   : Nat := 0
  detail   : Nat := 0
deriving DecidableEq, Repr

/-- The step a packet or record comes from (R66, R312): static bar index, slot and opcode, or "none". -/
structure StepRef where
  bar    : Nat := 0xFFFFFFFF
  slot   : Nat := 0xFFFF
  opcode : Nat := 0xFF
  ens    : Nat := 8
deriving DecidableEq, Repr

/-- Packets in flight on the floor (R266) and on the ways out of the part. `src` is the unit and bank that sent a token
or credit, which an ABSENT answer goes back to (R33); 0xFFFF is a sender that is no unit. -/
inductive Packet where
  | token (src ub tk : Nat)
  | arrive (a : Agent) (obj n : Nat) (step : StepRef)
  | syncOp (a : Agent) (obj op value : Nat) (auto : Bool)
  | syncResp (a : Agent) (obj : Nat)
  | image (a : Agent) (obj : Nat) (v : BitVec 128)
  | credit (src ub pool n : Nat)
  | absent (ub : Nat)
  | req (r : Req)
  | resp (r : Resp)
  | ack (a : Ack)
  | cancelled (ub e group : Nat) (action : Bool)
deriving DecidableEq, Repr

/-! ## The choreography -/

/-- Ensemble states (R35). -/
inductive EnsState where
  | idle | loaded | running | faulted | done
deriving DecidableEq, Repr

/-- A bar as fetched (R38, R39). -/
structure Bar where
  off       : Nat
  kind      : Nat
  flags     : Nat
  units64   : Nat
  epoch     : Nat
  figDepth  : Nat
  index     : Nat
  figCount  : Nat
  brSync    : Nat
  brCond    : Nat
  brValue   : Nat
  brTarget  : Nat
  steps     : List (Nat × W128)
deriving DecidableEq, Repr

/-- A dealt dynamic bar that still has steps to fire or to complete (R51, R58). -/
structure LiveBar where
  dyn        : Nat
  index      : Nat
  unfired    : Nat
  incomplete : Nat
  slip       : Nat
deriving DecidableEq, Repr

/-- Why a Caller context stopped fetching, and where; `released` once a command covering the address has completed (R60). -/
structure FetchHalt where
  cause    : Nat
  addr     : Nat
  released : Bool := false
deriving DecidableEq, Repr

/-- An ensemble and its Caller context (R33, R35, R52, R57, R441); `beats` counts the beats delivered to its members since
START, in 64ths (R50). -/
structure Ens where
  st         : EnsState := .idle
  bank       : Nat := 0
  base       : Nat := 0
  asid       : Nat := 0
  entry      : Nat := 0
  routes     : Nat := 0
  length     : Nat := 0
  members    : BitVec 1024 := 0
  initEpoch  : Byte := 0
  initMode   : Byte := 0
  routesRead : Bool := false
  next       : Nat := 0
  fetched    : Option Bar := none
  halt       : Option FetchHalt := none
  dyn        : Nat := 0
  figs       : List (Nat × Nat) := []
  epoch      : Byte := 0
  lastIndex  : Nat := 0
  lastEpoch  : Byte := 0
  live       : List LiveBar := []
  atEnd      : Bool := false
  markAt     : Option Nat := none
  brRelease  : Bool := false
  brWaiting  : Bool := false
  brDepth    : Option Nat := none
  figBuf     : List Bar := []
  cancelled  : BitVec 256 := 0
  fault      : Nat := 0
  absentSeen : Bool := false
  stopping   : Bool := false
  slip       : Nat := 0
  maxSlip    : Nat := 0
  beats      : Nat := 0
  starter    : Option Issuer := none
  stoppers   : List Issuer := []
  ckpts      : Nat := 0
  restored   : Bool := false
deriving DecidableEq, Repr

/-- A step word in a unit's queue, with where it came from (R42, R58). -/
structure QStep where
  word       : W128
  ens        : Nat
  dyn        : Nat
  bar        : Nat
  slot       : Nat
  replayable : Bool
deriving DecidableEq, Repr

/-- A mask-table entry (R82): the row masks of arrays 0 to 3 from the low end, and the column mask. -/
structure MaskEntry where
  rows : BitVec 256 := 0
  cols : BitVec 64 := 0
deriving DecidableEq, Repr

/-- A fired step that has not completed (R46), with what it captured as it fired (R84, R143, R160, R209, R212): `tables` is the
tile's table set in force, `data` the descriptor of a STREAM or MRUN. `disagree` marks the arrays in which some row or column
of a pass did not agree (R91). `acted` says its opcode's command has run; `waiting` says a DLOAD or MLOAD met a page it waits for, at `failVa`, and `released` that a
command covering the address has completed (R161). -/
structure Fired where
  q        : QStep
  acted    : Bool := false
  waiting  : Bool := false
  released : Bool := false
  failVa   : Nat := 0
  failCause : Nat := 0
  mode     : Byte := 0
  mask     : MaskEntry := {}
  scale    : W32 := 0
  pseq     : Nat := 0
  tables   : List Byte := []
  use      : Nat := 0
  nonfin   : Nat := 0
  disagree : BitVec 4 := 0
  replay   : Bool := false
  poisoned : Bool := false
  data     : List Byte := []
deriving DecidableEq, Repr

/-- One shard bank of a unit (R463): queue, counters, pools, routes, epoch and mode, and the cancel groups as the unit
has seen them. -/
structure Bank where
  queue     : List QStep := []
  tk        : Map Nat := []
  cp        : Map Nat := []
  ceil      : Map Nat := []
  routes    : Map W32 := []
  epoch     : Byte := 0
  mode      : Byte := 0
  fired     : List Fired := []
  window    : List Fired := []
  cancelled : BitVec 256 := 0
deriving DecidableEq, Repr

/-! ## Tiles -/

/-- A weight block in a register set of the arrays, with the format, scales and column mask it was loaded with (R79, R81). -/
structure Weights where
  valid  : Bool := false
  fmt    : BitVec 5 := 0
  data   : List Byte := []
  scales : List Byte := []
  cols   : BitVec 64 := 0
deriving DecidableEq, Repr

/-- The state of an accumulator block index (R85, R301); `reading` counts the reads of it that are in progress. -/
structure AccBlock where
  empty   : Bool := true
  epoch   : Byte := 0
  isInt   : Bool := false
  pending : Nat := 0
  failed  : Bool := false
  pool    : Nat := 0
  count   : Nat := 0
  reading : Nat := 0
  suspect : Bool := false
  last    : Nat := 0
deriving DecidableEq, Repr

/-- What an array's spare column does (R93, R94, R441). -/
structure Spare where
  column   : Option Nat := none
  unusable : Bool := false
deriving DecidableEq, Repr

/-- What follows a failed verdict (R93, R96, R292): a locate re-run of the arrays named, then a replay or a fault. -/
inductive Repair where
  | none
  | locate (arrays : BitVec 4) (block : Option Nat) (poisoned : Bool)
  | replay (block : Nat)
deriving DecidableEq, Repr

/-- A tile's walk-through interval (R295): the beats its domain had delivered at its last walk-through (in 64ths, R400), and since
then the passes fired, the beats they occupied the feed, and the journal entries written. -/
structure Interval where
  since   : Nat := 0
  passes  : Nat := 0
  beats   : Nat := 0
  entries : Nat := 0
deriving DecidableEq, Repr

/-- A tile: arrays, accumulators, tables, vector unit, journal and counters (R69, R137, R299, R300, R125). `journal` is what
stands in the tile store and `jbuf` the entries of the line that is not yet full (R135); `lpoison`, `spoison` and `gpoison`
say which lane masks, scalar registers and generators hold a poisoned result (R133, R153). -/
structure Tile where
  active     : Weights := {}
  shadow     : Weights := {}
  acc        : Map W32 := []
  blocks     : Map AccBlock := []
  masks      : Map MaskEntry := []
  scales     : Map W32 := []
  spares     : Map Spare := []
  repair     : Repair := .none
  vregs      : Map W32 := []
  vpoison    : List Nat := []
  lmasks     : Map (BitVec 128) := []
  lpoison    : List Nat := []
  sregs      : Map W32 := []
  spoison    : List Nat := []
  gens       : Map W64 := []
  gpoison    : Bool := false
  tables     : Map (List Byte) := []
  pseq       : W32 := 0
  journal    : Map W64 := []
  jbuf       : List W64 := []
  jnext      : Nat := 0
  jsince     : Nat := 0
  walked     : Interval := {}
  crush      : Nat := 0
  sat        : Nat := 0
  nanDrop    : Nat := 0
  nonfinite  : Nat := 0
  failures   : Nat := 0
  replays    : Nat := 0
  locates    : Nat := 0
  passes     : Nat := 0
  family     : Nat := 0
  cleanPseq  : Nat := 0
  cleanLtc   : Nat := 0
  cleanIndex : Option Nat := none
  genEra     : Nat := 0
  corrected  : Map (List Nat) := []
deriving DecidableEq, Repr

/-- How a position (tile or stream engine) is served (R12, R15, R308, R311); `next` is the spare that its retirement found, which
it goes to at its sparing point (R310). -/
structure Service where
  unserved : Bool := false
  awaiting : Bool := false
  settling : Bool := false
  dropped  : Bool := false
  spare    : Option Nat := none
  next     : Option Nat := none
deriving DecidableEq, Repr

/-! ## Stream engines -/

/-- A descriptor slot (R160, R163). -/
structure DSlot where
  loaded : Bool := false
  desc   : List Byte := []
  uses   : Nat := 0
deriving DecidableEq, Repr

/-- States of a stream context (R156). -/
inductive CtxState where
  | idle | active | halted | draining
deriving DecidableEq, Repr

/-- States of a landing-ring slot (R286); an unlisted slot is FREE. -/
inductive SlotState where
  | free | reserved | pending | landed | poisoned
deriving DecidableEq, Repr

/-- A memory request that an outstanding transaction still waits for: the block, its pieces and where each piece lies
in the transaction's 256 bytes. -/
structure Part where
  stack  : Nat
  block  : Nat
  pieces : List (Nat × Nat)
  va     : Int := 0
  retry  : Bool := false
deriving DecidableEq, Repr

/-- An outstanding transaction of a context (R157, R158): the memory requests it still waits for. `failed` says one of
them met a halt cause, and `lost` where the parts that did lie in the transaction. -/
structure Out where
  t        : Nat
  parts    : List Part
  reissued : Bool := false
  failed   : Bool := false
  lost     : List Nat := []
deriving DecidableEq, Repr

/-- A block that an early-send stream has sent and that is not settled (R284): where it is, how it was read and is released, the
descriptor that says where it went, and how many transactions it has. `asked` is the PSEQ at which its STREAM fired, `live` says
that stream is the one its context runs; `failed` says its VERDICT was FAIL and the rebuilt block is still to be sent again, and
`owed` the transactions sent again whose acknowledgement is still to come (R288). -/
structure Unsettled where
  tile   : Nat
  ub     : Nat
  acc    : Nat
  amask  : BitVec 4
  free   : Bool
  asked  : Nat
  desc   : List Byte
  count  : Nat
  live   : Bool := true
  failed : Bool := false
  owed   : List Nat := []
deriving DecidableEq, Repr

/-- A stream context (R156, R163, R169, R173, R184, R284, R287); `asked` is the PSEQ at which its accumulator read was requested
(R87). `grants` is held for each peer context that a SEND goes to, `flushTs` the transactions with writes to host memory since
the last flush and where those lie (R176), `unfinished` what a failed transaction still has to do (R185), and `ahead` the
data of the next epoch with their VSTATE (R64). `unsettled` are the blocks not settled, the earliest first (R284), `held` the data
of a transaction with the marks of its four lines that are poisoned (R172), and `spoiled` says the step has read poison (R133). -/
structure Ctx where
  st        : CtxState := .idle
  ub        : Nat := 0
  slot      : Nat := 0
  desc      : List Byte := []
  use       : Nat := 0
  tsel      : Bool := false
  acc       : Nat := 0
  amask     : BitVec 4 := 0
  accFree   : Bool := false
  early     : Bool := false
  mode      : Byte := 0
  ringBase  : Nat := 0
  ringSlots : Nat := 0
  tail      : Nat := 0
  wr        : Nat := 0
  rd        : Nat := 0
  first     : Nat := 0
  slots     : Map SlotState := []
  next      : Nat := 0
  low       : Nat := 0
  redo      : List Nat := []
  outs      : List Out := []
  done      : List Nat := []
  bytes     : Nat := 0
  progress  : Nat := 0
  cause     : Nat := 0
  failAddr  : Int := 0
  failT     : Nat := 0
  halting   : Bool := false
  resuming  : Bool := false
  parked    : Bool := false
  grants    : Map Nat := []
  asked     : Nat := 0
  flushTs   : Map (List Nat) := []
  unfinished : Map (List Nat) := []
  ahead     : Map (BitVec 2) := []
  began     : Bool := false
  verdicts  : List VerdictBody := []
  unsettled : List Unsettled := []
  pendMode  : Bool := false
  held      : Map (BitVec 4 × List Byte) := []
  spoiled   : Bool := false
  critical  : Nat := 0
  stalled   : Bool := false
deriving DecidableEq, Repr

/-- A stream engine (R156, R160); `hostHalt` is the LTC of its last halt with cause HOST_ERR
(R304), `turn` the context that competes for issue first (R171), and `late` counts the answers that reached it after a reset (R392). -/
structure Se where
  slots    : Map DSlot := []
  ctxs     : Map Ctx := []
  hostHalt : Option Nat := none
  turn     : Nat := 0
  late     : Nat := 0
deriving DecidableEq, Repr

/-- A translation-cache entry: one 64 KiB or 2 MiB page of one address space (R181). -/
structure TlbEntry where
  asid : Nat
  big  : Bool
  page : Nat
  pte  : W64
deriving DecidableEq, Repr

/-- A walker-cache entry: one non-leaf entry of one address space (R181). -/
structure WalkEntry where
  asid   : Nat
  level  : Nat
  index  : Nat
  table  : Nat
deriving DecidableEq, Repr

/-! ## Sync objects -/

/-- A sync object (R190) and who waits on it (R196). -/
structure SyncObj where
  count    : W32 := 0
  target   : W32 := 0xFFFFFFFF
  gen      : Byte := 0
  complete : Bool := false
  auto     : Bool := false
  tree     : Bool := false
  ovf      : Bool := false
  owner    : BitVec 4 := 0xF
  wtk      : BitVec 5 := 0x10
  waiters  : List Agent := []
deriving DecidableEq, Repr

/-! ## Memory-side engines -/

/-- A piece of a job still to be written (R212, R226): where, what, whether it is added, and as BF16 or FP32. `arith`
says its arithmetic carries a residue, and `bads` which lines of its block are computed from poison (R227). -/
structure Piece where
  va    : Nat
  data  : List Byte
  add   : Bool := false
  bf16  : Bool := false
  arith : Bool := true
  bads  : BitVec 4 := 0
  num   : Nat := 0
deriving DecidableEq, Repr

/-- A job slot (R209, R212, R229). `state` 0 idle, 1 running, 2 halted; `pieces` have not retired, `index` numbers the first of
them, and `retired` the later pieces that have; `spoiled` says it has read poison (R227). -/
structure Job where
  state   : Nat := 0
  ub      : Nat := 0
  slot    : Nat := 0
  desc    : List Byte := []
  mode    : Byte := 0
  read    : Bool := false
  pieces  : List Piece := []
  index   : Nat := 0
  retired : List Nat := []
  bytes   : Nat := 0
  cause   : Nat := 0
  addr    : Nat := 0
  spoiled : Bool := false
deriving DecidableEq, Repr

/-- A memory-side engine: work slots and job slots (R208, R209). -/
structure Mse where
  work : Map (List Byte) := []
  jobs : Map Job := []
deriving DecidableEq, Repr

/-- The counters of a memory-side cluster (R228, R512). -/
structure Cluster where
  crush     : Nat := 0
  sat       : Nat := 0
  nanDrop   : Nat := 0
  residues  : Nat := 0
  gens      : Map W64 := []
deriving DecidableEq, Repr

/-! ## HBM controllers -/

/-- Pseudo-channel states (R251), in the order of their codes (R441). -/
inductive PcState where
  | training | serving | retraining | frozen | evacuating | retired
deriving DecidableEq, Repr

/-- A queued request (R235, R236): acceptance number, and whether age made it class 0. -/
structure Queued where
  req      : Req
  order    : Nat
  promoted : Bool
deriving DecidableEq, Repr

/-- A hot-row entry (R244). -/
structure HotRow where
  row   : Option Nat := none
  count : Nat := 512
  init  : Option (BitVec 12) := none
  votes : Nat := 0
deriving DecidableEq, Repr

/-- A DRAM bank as its controller sees it (R239, R244); `rfms` counts the RFMs issued to it (R245). -/
structure DBank where
  openRow : Option Nat := none
  hits    : List Bool := []
  hot     : Map HotRow := []
  rfms    : Nat := 0
deriving DecidableEq, Repr

/-- A record of a snapshot (R252, R441). -/
structure SnapRec where
  offset : Nat
  init   : BitVec 12
  sub    : BitVec 4
  kind   : ReqKind
  seq    : W32
deriving DecidableEq, Repr

/-- A pseudo-channel (R235–R260, R441). `trained` numbers its last training, which set the helpers; `rowErrs` counts the corrected
errors of a row, at 16384 × bank + row, `repaired` lists the rows under soft repair, `mapped` those that the repair map holds and
`repairing` the one that a piece is repairing (R259, R260). `receivers` are the pseudo-channels that its evacuation deals rows to from
its beginning, in turn, and `cuts` the later retirements that ended one's part, each with the draw that says how far it had come (R256). -/
structure Pc where
  st         : PcState := .training
  reads      : List Queued := []
  writes     : List Queued := []
  accepted   : Nat := 0
  drain      : Bool := false
  banks      : Map DBank := []
  owed       : Nat := 0
  firstWindow : Bool := true
  throttled  : List (BitVec 12) := []
  window     : List Nat := []
  corrected  : Nat := 0
  throttles  : Nat := 0
  cause      : Nat := 0
  failOffset : Nat := 0
  failCmd    : Option SnapRec := none
  syndrome   : W64 := 0
  snapQueue  : List SnapRec := []
  snapWindow : List SnapRec := []
  snapTemps  : List Int := []
  recent     : List (Nat × SnapRec) := []
  listed     : List Nat := []
  poisoned   : Nat := 0
  temp       : Int := 0
  curTemp    : Int := 0
  retrains   : Nat := 0
  retiring   : Option Issuer := none
  retireNo   : Option Nat := none
  receivers  : List Nat := []
  cuts       : List (Nat × Nat) := []
  trained    : Nat := 0
  rowErrs    : Map Nat := []
  repaired   : List Nat := []
  mapped     : List Nat := []
  repairing  : Option Nat := none
deriving DecidableEq, Repr

/-- A stack: the retirements accepted, in order, its steward's view of the DRAM dies (R231, R242, R254), and the bytes read and
written in this window and in the last (R512). -/
structure Stack where
  retires  : List Nat := []
  accepted : Nat := 0
  dies     : List Int := []
  doubled  : Bool := false
  rdNow    : Nat := 0
  wrNow    : Nat := 0
  rdBytes  : Nat := 0
  wrBytes  : Nat := 0
deriving DecidableEq, Repr

/-! ## Network statistics -/

/-- The statistics counters of an initiator (R277). -/
structure NetCount where
  reqs   : Nat := 0
  bytes  : Nat := 0
  hist   : Map Nat := []
  maxLat : Nat := 0
deriving DecidableEq, Repr

/-! ## Health -/

/-- Health states in the order of their codes (R302, R312). -/
inductive HealthState where
  | probation | healthy | observed | retired
deriving DecidableEq, Repr

/-- A unit's health with the counts of R302: walk-throughs and passes, beats in service without a health event for the
units that count time (R296), the LTC of the last clean walk-through, and the beats its domain had delivered at the last one
(in 64ths, R295, R400). -/
structure Health where
  st     : HealthState := .probation
  walks  : Nat := 0
  passes : Nat := 0
  events : Nat := 0
  beats  : Nat := 0
  since  : Nat := 0
  walked : Nat := 0
deriving DecidableEq, Repr

/-! ## Logic fabric -/

/-- A gateway command outstanding, its answer once it is known, and the number of its memory request (R340–R342). -/
structure GwCmd where
  tag    : Byte
  op     : Nat
  word   : W128
  data   : List Byte := []
  status : Option Nat := none
  seq    : Nat := 0
  ctl    : W32 := 0
  sent   : Bool := false
deriving DecidableEq, Repr

/-- A network gateway (R348). `ctl` is GW_CTLn; `shown` is the last response presented to the fabric (R342); `sink` holds the commands
outstanding when its region became absent, which retire without an answer (R347). A command is `sent` once its TOKEN is on its way. -/
structure Gateway where
  ctl     : W32 := 0
  err     : Bool := false
  refused : Bool := false
  region  : Nat := 0
  cmds    : List GwCmd := []
  sink    : List GwCmd := []
  seq     : Nat := 0
  shown   : Option (Byte × Nat × List Byte) := none
deriving DecidableEq, Repr

/-- A product on its way to an accumulator, A1 where `acc1` is set: it arrives when `wait` cycles have passed, and is put there, added
or subtracted (`how` 0, 1, 2; R332). -/
structure Product where
  wait  : Nat
  acc1  : Bool
  how   : Nat
  value : Int
deriving DecidableEq, Repr

/-- A DSP block (R328). `left` is the repetitions a REPEAT still owes, `pipe` the products that have not arrived. -/
structure Dsp where
  a0     : BitVec 56 := 0
  a1     : BitVec 56 := 0
  coef   : Map (BitVec 18) := []
  p      : BitVec 5 := 0
  out0   : BitVec 24 := 0
  out1   : BitVec 24 := 0
  exp    : BitVec 6 := 0
  pc     : BitVec 6 := 0
  left   : Option Nat := none
  pipe   : List Product := []
  err    : Bool := false
  sat    : Bool := false
  done   : Bool := false
  valid  : Bool := false
deriving DecidableEq, Repr

/-- What a block RAM shows the fabric: the output of each port, and whether the word of the last SEC-DED read was corrected or
could not be (R321, R323). -/
structure BramOut where
  a : BitVec 72 := 0
  b : BitVec 72 := 0
  corrected     : Bool := false
  uncorrectable : Bool := false
deriving DecidableEq, Repr

/-- What else the user's logic and pads hold: the carry into a cell (R319), the outputs of the block RAMs, by 16 × bank + pair the
last word given to a serialiser and the last a deserialiser gave, and by 32 × bank + pin the level a bypassed pin is driven to
(R337); by 4,096 × region + signal what a region drives on its border (R364); the bits of a block RAM's words that have flipped
since they were written, by 512 × block + word (R323); and by block the program and the net that the frames set in a DSP block
(R328). -/
structure Logic where
  carries : Map Bool := []
  outs    : Map BramOut := []
  given   : Map (BitVec 16) := []
  taken   : Map (BitVec 16) := []
  driven  : Map Bool := []
  borders : Map Bool := []
  flips   : Map (BitVec 72) := []
  programs : Map (List (BitVec 24)) := []
  dspNets : Map (BitVec 5) := []
deriving DecidableEq, Repr

/-- Region states in the order of their codes (R351, R376). -/
inductive RegionState where
  | empty | loading | active | incomplete
deriving DecidableEq, Repr

/-- A fabric region (R351, R376). `release` says its load passed and the release stages are to come (R363). -/
structure Region where
  st       : RegionState := .empty
  cause    : Nat := 0
  isolated : Bool := true
  held     : Bool := true
  svn      : Nat := 0
  release  : Bool := false
deriving DecidableEq, Repr

/-! ## Personalities -/

/-- Where an image is (R357). -/
inductive ImageSource where
  | host (port : Nat) (addr len : Nat)
  | csp
deriving DecidableEq, Repr

/-- A load in the loader's queue (R353, R358). `begun` says its region is LOADING, `ended` that its payload has passed its
checks and its release or commit is to come (R363, R367). -/
structure Load where
  source : ImageSource
  header : List Byte
  issuer : Option Issuer
  asid   : Nat
  dest   : Nat
  key    : BitVec 128
  begun  : Bool := false
  ended  : Bool := false
deriving DecidableEq, Repr

/-- A 64 MiB boot slot or a firmware slot of the non-volatile cells (R357, R500, R511). -/
structure NvSlot where
  valid : Bool := false
  owner : Option MPort := none
  data  : Map Byte := []
  len   : Nat := 0
deriving DecidableEq, Repr

/-- The personality loader, the configuration slave port's image buffer and the boot (R354, R358, R359, R370, R376).
`frames` holds frame bytes by 1,024 × frame + byte; `cspBytes` is the port's 4 KiB buffer and `cspImage` what the loader has
taken from it; `relStage` counts the stages of global release that are done (R372). -/
structure Loader where
  queue     : List Load := []
  frames    : Map Byte := []
  fclks     : Map W32 := []
  isolation : Map Bool := []
  relDelay  : Nat := 64
  staged    : Map (List Byte) := []
  committed : Map (List Byte) := []
  commit    : Bool := false
  slots     : Map NvSlot := []
  phase     : Nat := 0
  bootSlot  : Nat := 0
  slotAFail : Bool := false
  slotBFail : Bool := false
  bootCause : Nat := 0
  doneHigh  : Nat := 0
  relStage  : Nat := 0
  bootRegions : List Nat := []
  cspOn     : Bool := false
  cspDest   : W64 := 0
  cspBytes  : List Byte := []
  cspImage  : List Byte := []
  cspCause  : Nat := 0
  cspOut    : List Byte := []
deriving DecidableEq, Repr

/-! ## Reset, clocks, power -/

/-- Which reset is in force (R377, R378). -/
inductive ResetLevel where
  | none | power | system
deriving DecidableEq, Repr

/-- A block reset waiting for its block to go idle (R391). -/
structure BlockWait where
  block  : BlockId
  issuer : Option Issuer
  port   : Option (MPort × Byte)
deriving DecidableEq, Repr

/-- The reset controller (R377–R387, R391). -/
structure ResetCtl where
  level     : ResetLevel := .none
  cause     : BitVec 8 := 1
  last      : BitVec 3 := 0
  restarts  : Nat := 0
  recent    : List Nat := []
  storm     : Bool := false
  loading   : Bool := false
  tripped   : Option (Nat × Int) := none
  tripWas   : Option (Nat × Int) := none
  pllLost   : Bool := false
  waits     : List BlockWait := []
deriving DecidableEq, Repr

/-- A power domain (R405–R407): operating point, rate in force and voltage set point. -/
structure Domain where
  op     : Nat := 0
  rate   : Nat := 64
  mv     : Nat := 750
  powerOp : Nat := 0
  thermOp : Nat := 0
  rising : Bool := false
deriving DecidableEq, Repr

/-- The governors (R409–R418). Temperatures are in 1/16 °C, those of the DRAM dies from index 1,024 on; `current` counts the
intervals for which R414 still holds. -/
structure Gov where
  domains  : Map Domain := []
  temps    : Map Int := []
  excursed : List Nat := []
  hot      : Bool := false
  current  : Nat := 0
  capUnmet : Bool := false
  power    : Nat := 0
deriving DecidableEq, Repr

/-- Board pins that the part drives or whose level it keeps (R384, R371, R513): true is high. `outputs` says user I/O
drivers are on, `inputs` that their input receivers and pulls are, and `term` that the receivers of the PCIe, link and partner
lanes are terminated (R384); `vioBad` lists used banks whose supply is wrong (R532). -/
structure Pins where
  done       : Bool := false
  doneIn     : Bool := false
  cfgErrN    : Bool := false
  alertN     : Bool := true
  hotN       : Bool := true
  thermTripN : Bool := true
  hbOut      : Bool := false
  tamperN    : Bool := true
  outputs    : Bool := false
  inputs     : Bool := false
  term       : Bool := false
  vioBad     : List Nat := []
deriving DecidableEq, Repr

/-! ## Host interface -/

/-- A completion waiting to be written (R429). -/
structure Compl where
  tag    : W32
  opcode : Nat
  status : Nat
  result : BitVec 128
  detail : W32
  irq    : Bool
deriving DecidableEq, Repr

/-- A channel (R424–R434). Channels 4,096 + q are the admin rings. `entry` is its table entry and `cached` says the device
holds it; `sqHead` is past the last descriptor fetched and `sqSaid` what the last completion reported; `phase` is that of
the next completion; `disabler` is a DISABLE that waits for the channel to be done. -/
structure Chan where
  enabled   : Bool := false
  cached    : Bool := false
  entry     : List Byte := []
  sqHead    : BitVec 16 := 0
  sqSaid    : BitVec 16 := 0
  sqTail    : BitVec 16 := 0
  cqHead    : BitVec 16 := 0
  cqTail    : BitVec 16 := 0
  eqHead    : BitVec 16 := 0
  eqTail    : BitVec 16 := 0
  fetched   : List (List Byte) := []
  inflight  : List W32 := []
  compls    : List Compl := []
  events    : List Rec := []
  dropped   : Nat := 0
  unsignalled : Nat := 0
  signalNow : Bool := false
  phase     : Bool := true
  disabler  : Option Issuer := none
  stopped   : Bool := false
deriving DecidableEq, Repr

/-- An MSI-X vector (R434, R542). -/
structure Vector where
  addr    : W64 := 0
  data    : W32 := 0
  masked  : Bool := true
  pending : Bool := false
deriving DecidableEq, Repr

/-- The function block of a PCIe function (R423, R433, R542). -/
structure Fn where
  cht      : W64 := 0
  summary  : W64 := 0
  poll     : W32 := 0xFA0000FA
  adminSq  : W64 := 0
  adminCq  : W64 := 0
  adminEq  : W64 := 0
  adminDb  : W64 := 0
  vectors  : Map Vector := []
  interval : Nat := 250
  empty    : Nat := 0
deriving DecidableEq, Repr

/-- A PCIe port or half (R394, R420). -/
structure Port where
  up : Bool := false
deriving DecidableEq, Repr

/-- A MAP_PAGES whose range still has transactions outstanding (R182). -/
structure MapWait where
  issuer : Issuer
  asid   : Nat
  all    : Bool
  va     : Nat
  len    : Nat
deriving DecidableEq, Repr

/-! ## Zegus links -/

/-- Link states in the order of their codes (R456). -/
inductive LinkState where
  | down | training | ident | up | recovery | refused
deriving DecidableEq, Repr

/-- A link die (R444–R460): `nackSeq` and `nacks` are the LSEQ the peer last sent a NACK for and how often in a row, `failed`
the failed retrains in succession, `retries` its ZL_RETRY events, `dropping` that it waits for a frame to come again. -/
structure Link where
  st       : LinkState := .down
  active   : List Nat := []
  spares   : List Nat := [16, 17]
  peer     : BitVec 14 := 0x3FFF
  mismatch : Bool := false
  mapDev   : BitVec 14 := 0x3FFF
  mapDie   : BitVec 4 := 0
  txSeq    : BitVec 16 := 0
  rxSeq    : BitVec 16 := 0
  buffer   : List Frame := []
  waiting  : List Frame := []
  credits  : Map Nat := []
  owedCred : Map Nat := []
  nackSeq  : Option (BitVec 16) := none
  nacks    : Nat := 0
  failed   : Nat := 0
  dropping : Bool := false
  retries  : Nat := 0
deriving DecidableEq, Repr

/-- The Zegus side of the part (R443, R450, R457). -/
structure Zegus where
  links     : Map Link := []
  ctl       : W32 := 0
  rtBase    : W64 := 0
  routes    : Map W64 := []
  redirects : Map (BitVec 14) := []
  adopted   : List Nat := []
  discarded : Nat := 0
deriving DecidableEq, Repr

/-! ## Partnership -/

/-- Pair states in the order of their codes (R472). -/
inductive PairState where
  | bench | linking | paired | partitioned | severed | takenOver | fenced
deriving DecidableEq, Repr

/-- A mirror entry (R468). -/
structure MirrorEntry where
  valid   : Bool := false
  addr    : Nat := 0
  len     : Nat := 0
  partner : Nat := 0
deriving DecidableEq, Repr

/-- A bulk copy that is being sent (R468, R478): the range of an entry, whether it goes back to the addresses of the device
that declared it, and how far it has come. -/
structure BulkCopy where
  range : MirrorRange
  own   : Bool
  off   : Nat := 0
deriving DecidableEq, Repr

/-- What an admission has still to do (R478). -/
inductive Admission where
  | none | phaseOne | handingBack | phaseTwo
deriving DecidableEq, Repr

/-- The partnership (R461–R480). `link` is the partner link in the states of R456, `ckpts` the checkpoints of the partner's
ensembles, the latest last; `out` and `inn` the outgoing and incoming mirror entries; `queue`, `memory`, `controls` and
`copies` what waits to be sent, in the classes of R465, and `beat` the last HEARTBEAT frame (LTC, state, checkpoint). `asked`
are the peers of a quorum that is sought, `oks` and `refusals` their answers. `adopted` are the ensembles taken over, `handed`
those handed back and not confirmed, `taken` what the record of the takeover lists: ensemble, checkpoint, channels; `lost` the
ensembles it could not take over. -/
structure Partner where
  st       : PairState := .bench
  id       : BitVec 14 := 0x3FFF
  roleB    : Bool := false
  ctl      : W32 := 0x000101F4
  shadowOk : Bool := false
  lanes    : List Nat := []
  sideband : Bool := false
  link     : LinkState := .down
  failed   : Nat := 0
  ckptNo   : Nat := 0
  ckpts    : Map (List Ckpt) := []
  out      : Map MirrorEntry := []
  inn      : Map MirrorEntry := []
  queue    : List MirrorItem := []
  memory   : List PartnerMemory := []
  controls : List Control := []
  copies   : List BulkCopy := []
  copySent : Nat := 0
  beat     : Option (W64 × PairState × Nat) := none
  held     : List Ack := []
  asked    : List Nat := []
  oks      : List Nat := []
  refusals : List Nat := []
  adopted  : List Nat := []
  handed   : List Ckpt := []
  taken    : List (Nat × Nat × List (Nat × BitVec 16)) := []
  lost     : List Nat := []
  admission : Admission := .none
  releasing : Bool := false
  waitAdmit : Option Issuer := none
  waitRelease : Option Issuer := none
  waitStand : Option Issuer := none
deriving DecidableEq, Repr

/-- Whether the partner link is up. -/
def Partner.linkUp (p : Partner) : Bool := p.link == .up

/-! ## Security -/

/-- The manufacturing repair (R386): the spare, plus 1, that serves a tile's or a stream engine's position, and the column maps of the
tiles' arrays. -/
structure MadeRepair where
  tiles   : Map Nat := []
  ses     : Map Nat := []
  columns : Map (Map Spare) := []
deriving DecidableEq, Repr

/-- The fuse array (R481, R386). -/
structure Fuses where
  idPriv    : BitVec 256 := 0
  idPub     : BitVec 512 := 0
  fusedKek  : BitVec 128 := 0
  owners    : Map (BitVec 256) := []
  revoked   : BitVec 4 := 0
  fusedOff  : Bool := false
  bbkOff    : Bool := false
  arb       : Map W64 := []
  debugLock : BitVec 2 := 0
  repair    : MadeRepair := {}
deriving DecidableEq, Repr

/-- A measurement-log entry (R495). -/
structure MeasEntry where
  mr     : Nat
  event  : Nat
  cls    : Nat
  svn    : Nat
  ltc    : Nat
  digest : List Byte
deriving DecidableEq, Repr

/-- Identity, keys, measurement and firmware (R481–R502). Firmware slots: 0 FA, 1 FB, 2 SA, 3 SB; `fwSlot` and `stSlot` run.
`owedTamper` is an erase found without power, still to be logged (R489). `sessions` holds 1 for a function whose SPDM session is
being set up and 2 for one that is open; `chain` is the certificate chain of the non-volatile cells (R496). -/
structure Sec where
  fuses     : Fuses := {}
  bbk       : BitVec 128 := 0
  bbkCheck  : W32 := 0
  present   : Bool := false
  tampered  : Bool := false
  mrs       : Map (List Byte) := []
  log       : List MeasEntry := []
  logOvf    : Bool := false
  fw        : Map NvSlot := []
  fwSlot    : Nat := 0
  stSlot    : Nat := 2
  fwTrial   : Bool := false
  stTrial   : Bool := false
  owedTamper : Bool := false
  sessions  : Map Nat := []
  spdmOut   : Map (List Byte) := []
  chain     : List Byte := []
deriving DecidableEq, Repr

/-! ## Management, log, debug -/

/-- A folding period of a COUNTED code for one unit (R549): the count and the last event. -/
structure Fold where
  count : Nat := 0
  last  : Rec := {}
deriving DecidableEq, Repr

/-- A management port (R505, R506). -/
structure MPortState where
  busy : Bool := false
  resp : Option (List Byte) := none
deriving DecidableEq, Repr

/-- The I3C target (R507): its dynamic address, the event kinds the controller has disabled, the lengths set, in-band
interrupts and a Hot-Join waiting to be sent, and what the last CCC returned. -/
structure I3c where
  addr   : Option (BitVec 7) := none
  disabled : Byte := 0
  mwl    : BitVec 16 := 4108
  mrl    : BitVec 16 := 4108
  ibi    : List Byte := []
  hotJoin : Bool := false
  out    : List Byte := []
deriving DecidableEq, Repr

/-- The keeper: fault log, event holding, limits, management ports (R430, R439, R504, R513, R514, R549). -/
structure Keeper where
  general  : Map Rec := []
  device   : Map Rec := []
  nextGen  : Nat := 0
  nextDev  : Nat := 0
  folds    : List (Nat × Nat × Nat × Fold) := []
  limits   : Map Nat := []
  limitQ   : List (Option Issuer × Option (MPort × Byte) × List (Nat × Nat)) := []
  alert    : BitVec 7 := 0
  mask     : BitVec 6 := 0b001000
  cfg      : BitVec 3 := 0b111
  i3cPort  : MPortState := {}
  cspPort  : MPortState := {}
  held     : List (MPort × Instr) := []
  i3c      : I3c := {}
  splits   : BitVec 2 := 0
  splitNow : BitVec 2 := 0
  stopped  : Bool := false
  lockstep : Option Nat := none
deriving DecidableEq, Repr

/-- TAP instructions in effect (R517). -/
inductive TapInstr where
  | idcode | sample | extest | clamp | highz | ijtag | bypass
deriving DecidableEq, Repr

/-- An entry of a step trace, or of the Caller's: bar, slot and opcode of a fired step, or ensemble and bar dealt (R520). -/
structure Trace where
  ens    : Nat := 8
  bar    : Nat
  slot   : Nat := 0xFFFF
  opcode : Nat := 0xFF
  ltc    : Nat
deriving DecidableEq, Repr

/-- The debug logic (R517–R521). -/
structure Debug where
  ir       : TapInstr := .idcode
  boundary : BitVec 1152 := 0
  captured : BitVec 1152 := 0
  dr       : List Byte := []
  traces   : Map (List Trace) := []
  bars     : List Trace := []
  frozen   : Bool := false
  halted   : Bool := false
deriving DecidableEq, Repr

/-- Assembly variants (R1). -/
inductive Variant where
  | m12l16 | m12l8 | m8l16
deriving DecidableEq, Repr

/-! ## The state -/

/-- The block. `fresh` holds, by `freshKey`, the LTC plus 1 at which the device last set a bit that a write clears (R5); `beats` the
beats that each power domain has delivered, in 64ths, and at 44 those of the stream engines' clock (R295, R400). -/
structure State where
  pending   : List Instr
  variant   : Variant
  free      : Nat
  ltc       : W64
  fresh     : Map Nat
  beats     : Map Nat
  -- control plane
  ens       : Map Ens
  banks     : Map Bank
  lastBank  : Map Nat
  -- data plane
  tiles     : Map Tile
  tstore    : Map Byte
  tpoison   : List Nat
  tfixed    : List Nat
  tserv     : Map Service
  sserv     : Map Service
  tspares   : Map Nat
  sspares   : Map Nat
  ses       : Map Se
  sync      : Map SyncObj
  remote    : Map W64
  mses      : Map Mse
  clusters  : Map Cluster
  hbm       : List Host.Cell
  hpoison   : List Nat
  hfixed    : List Nat
  herr      : Map (List (Nat × BitVec 16))
  terr      : Map (List (Nat × BitVec 72))
  pcs       : Map Pc
  hstack    : Map Stack
  tlbs      : Map (List TlbEntry)
  walkers   : Map (List WalkEntry)
  net       : List Packet
  era       : Nat
  -- registers of the floor
  memRegion : Nat
  memRej    : Bool
  astBase   : Nat
  astRej    : Bool
  sample    : W32
  windows   : W32
  counts    : Map NetCount
  snapshot  : Map NetCount
  snapWin   : W32
  waits     : List (Nat × Nat × Nat × Nat)
  slotWaits : List (Agent × Nat)
  resends   : Map Nat
  winResends : Map Nat
  -- fabric and personalities
  gws       : Map Gateway
  dsps      : Map Dsp
  fclkRej   : BitVec 32
  regions   : Map Region
  bram      : Map (BitVec 72)
  flops     : Map Bool
  logic     : Logic
  loader    : Loader
  -- management plane
  health    : Map Health
  rst       : ResetCtl
  gov       : Gov
  pins      : Pins
  keeper    : Keeper
  sec       : Sec
  dbg       : Debug
  -- outside
  fns       : Map Fn
  ports     : Map Port
  chans     : Map Chan
  cacheLru  : List Nat
  mapWaits  : List MapWait
  hostMem   : Map Byte
  hostLost  : List Nat
  msix      : List (Nat × Nat)
  devId     : BitVec 14
  zegus     : Zegus
  partner   : Partner
deriving DecidableEq, Repr

/-- The block right after reset: what POWER_ON_RESET leaves of a fresh part, before any command. Values the spec does
not state are named in notes/assumptions. -/
def State.reset : State where
  pending := []
  variant := .m12l16
  free := 0
  ltc := 0
  fresh := []
  beats := []
  ens := []
  banks := []
  lastBank := []
  tiles := []
  tstore := []
  tpoison := []
  tfixed := []
  tserv := []
  sserv := []
  tspares := []
  sspares := []
  ses := []
  sync := []
  remote := []
  mses := []
  clusters := []
  hbm := []
  hpoison := []
  hfixed := []
  herr := []
  terr := []
  pcs := []
  hstack := []
  tlbs := []
  walkers := []
  net := []
  era := 0
  memRegion := 0
  memRej := false
  astBase := 0
  astRej := false
  sample := 0x15
  windows := 0
  counts := []
  snapshot := []
  snapWin := 0
  waits := []
  slotWaits := []
  resends := []
  winResends := []
  gws := []
  dsps := []
  fclkRej := 0
  regions := []
  bram := []
  flops := []
  logic := {}
  loader := {}
  health := []
  rst := { level := .power }
  gov := {}
  pins := {}
  keeper := {}
  sec := {}
  dbg := {}
  fns := []
  ports := []
  chans := []
  cacheLru := []
  mapWaits := []
  hostMem := []
  hostLost := []
  msix := []
  devId := 0x3FFF
  zegus := {}
  partner := {}

/-- Why a run stops. No command of the table stops one: every row of the table has an effect, and where the spec
leaves a value open the value is free. The constructor exists because the interface asks for a type. -/
inductive Fault where
  /-- Raised by no command of this model. Safe. -/
  | none
deriving DecidableEq, Repr

/-- Why a command is not executed. -/
inductive Refusal where
  /-- The command has no meaning yet; raised by a refused arm of `exec` only. Safe. -/
  | notModelled (mnemonic : String)
deriving DecidableEq, Repr

end Sys2Proof.Machine
end

