-- ==== Sys2Proof/Machine/Store.lean ====
section
/-! DEFINITION. Indexed groups, bytes and words, bit fields, sets of indices, and CRC-32C: the plain operations every
other file of the machine uses. -/

namespace Sys2Proof.Machine

/-! ## Indexed groups -/

/-- The value at index `k`, and the group's reset value `d` where the group lists none. -/
def Map.get {α : Type} (m : Map α) (d : α) (k : Nat) : α :=
  match m with
  | [] => d
  | (j, v) :: r => if j = k then v else Map.get r d k

/-- The group without index `k`. -/
def Map.erase {α : Type} (m : Map α) (k : Nat) : Map α := m.filter (fun p => p.1 != k)

/-- The group with `(k, v)` put in the place its index gives. -/
def Map.ins {α : Type} (m : Map α) (k : Nat) (v : α) : Map α :=
  match m with
  | [] => [(k, v)]
  | (j, w) :: r => if k < j then (k, v) :: (j, w) :: r else (j, w) :: Map.ins r k v

/-- The group with value `v` at index `k`; the reset value `d` is not listed. -/
def Map.set {α : Type} [DecidableEq α] (m : Map α) (d : α) (k : Nat) (v : α) : Map α :=
  if v = d then Map.erase m k else Map.ins (Map.erase m k) k v

/-- The canonical form: indices strictly rising, the reset value never listed. -/
def Map.wf {α : Type} [DecidableEq α] (m : Map α) (d : α) : Bool :=
  match m with
  | [] => true
  | (j, v) :: r => (v != d) && r.all (fun p => j < p.1) && Map.wf r d

/-- The group with the values of `vs` at indices `k`, `k + 1`, …: what lies below, the new values, what lies above. -/
def Map.setAll {α : Type} [DecidableEq α] (m : Map α) (d : α) (k : Nat) (vs : List α) : Map α :=
  m.filter (fun p => p.1 < k)
    ++ ((vs.zipIdx k).filter (fun p => p.1 != d)).map (fun p => (p.2, p.1))
    ++ m.filter (fun p => k + vs.length ≤ p.1)

/-- `n` values from index `k` on. -/
def Map.getAll {α : Type} (m : Map α) (d : α) (k n : Nat) : List α :=
  let near := m.filter (fun p => k ≤ p.1 && p.1 < k + n)
  (List.range n).map (fun i => Map.get near d (k + i))

/-- The group without the indices that satisfy `p`. -/
def Map.drop {α : Type} (m : Map α) (p : Nat → Bool) : Map α := m.filter (fun e => !p e.1)

/-! ## Sets of indices, kept in rising order -/

/-- The set with `k` in it. -/
def addIdx (l : List Nat) (k : Nat) : List Nat :=
  match l with
  | [] => [k]
  | j :: r => if k < j then k :: j :: r else if k = j then j :: r else j :: addIdx r k

/-- The set without `k`. -/
def remIdx (l : List Nat) (k : Nat) : List Nat := l.filter (· != k)

/-- The set with `k` in it, or without, as `b` says. -/
def putIdx (l : List Nat) (k : Nat) (b : Bool) : List Nat := if b then addIdx l k else remIdx l k

/-! ## Bits -/

/-- Bits `[lo + n - 1 : lo]` of `x`. -/
def bits (x lo n : Nat) : Nat := (x >>> lo) % 2 ^ n

/-- Bit `i` of `x`. -/
def bit (x i : Nat) : Bool := x.testBit i

/-- One, or zero, for a truth value. -/
def flag (b : Bool) : Nat := if b then 1 else 0

/-- Bits `[lo + n - 1 : lo]` of a word. -/
def fld {w : Nat} (x : BitVec w) (lo n : Nat) : Nat := bits x.toNat lo n

/-- Bit `i` of a word. -/
def bitOf {w : Nat} (x : BitVec w) (i : Nat) : Bool := x.getLsbD i

/-- The word with bit `i` made `b`. -/
def putBit {w : Nat} (x : BitVec w) (i : Nat) (b : Bool) : BitVec w :=
  if b then x ||| (1#w <<< i) else x &&& ~~~(1#w <<< i)

/-- The set bits of a mask of `n` bits, lowest first. -/
def onesOf (x n : Nat) : List Nat := (List.range n).filter (fun i => x.testBit i)

/-- Adding `n` to a counter of `w` bits that holds at its largest value. -/
def satAdd (w x n : Nat) : Nat := min (x + n) (2 ^ w - 1)

/-- A signed number in `w` bits as its two's-complement pattern. -/
def patt (w : Nat) (x : Int) : Nat := (x % (2 ^ w : Nat)).toNat

/-- The signed number a pattern of `w` bits stands for. -/
def signed (w x : Nat) : Int :=
  let y := x % 2 ^ w
  if y < 2 ^ (w - 1) then (y : Int) else (y : Int) - (2 ^ w : Nat)

/-! ## Bytes (R3: little-endian) -/

/-- `n` bytes of a number, lowest first. -/
def leBytes (n x : Nat) : List Byte :=
  match n with
  | 0 => []
  | k + 1 => BitVec.ofNat 8 (x % 256) :: leBytes k (x / 256)

/-- The number little-endian bytes spell. -/
def ofLe (l : List Byte) : Nat :=
  match l with
  | [] => 0
  | b :: r => b.toNat + 256 * ofLe r

/-- The `n`-byte field at offset `off` of a structure. -/
def field (l : List Byte) (off n : Nat) : Nat := ofLe ((l.drop off).take n)

/-- Whether `n` bytes at offset `off` are all zero. -/
def zeroAt (l : List Byte) (off n : Nat) : Bool := ((l.drop off).take n).all (· == 0)

/-- `n` bytes of zero. -/
def zeros (n : Nat) : List Byte := List.replicate n 0

/-- The list brought to length `n`: cut, or filled with `d`. -/
def fit {α : Type} (d : α) (n : Nat) (l : List α) : List α := (l ++ List.replicate (n - l.length) d).take n

/-- The bytes `v` laid over `l` at offset `off`. -/
def overlay (l : List Byte) (off : Nat) (v : List Byte) : List Byte :=
  fit 0 off l ++ v ++ l.drop (off + v.length)

/-- The list cut into chunks of `n` (`fuel` chunks at most). -/
def chunks {α : Type} (n fuel : Nat) (l : List α) : List (List α) :=
  match fuel with
  | 0 => []
  | k + 1 => match l with
    | [] => []
    | _ => l.take n :: chunks n k (l.drop n)

/-- Element `i`, with a value for where there is none. -/
def nth {α : Type} (l : List α) (i : Nat) (d : α) : α := (l[i]?).getD d

/-- The list with element `i` replaced. -/
def setNth {α : Type} (l : List α) (i : Nat) (v : α) : List α := l.set i v

/-- Removes the first element equal to `x`. -/
def dropFirst {α : Type} [DecidableEq α] (l : List α) (x : α) : List α := l.erase x

/-- Changes the first element that satisfies `p`. -/
def modFirst {α : Type} (p : α → Bool) (f : α → α) (l : List α) : List α :=
  match l with
  | [] => []
  | x :: r => if p x then f x :: r else x :: modFirst p f r

/-- Removes the first element that satisfies `p`. -/
def remFirst {α : Type} (p : α → Bool) (l : List α) : List α :=
  match l with
  | [] => []
  | x :: r => if p x then r else x :: remFirst p r

/-! ## CRC-32C (Castagnoli), reflected: polynomial 0x82F6_3B78, start and final complement of all ones -/

/-- One bit of the division. -/
def crcBit (c : Nat) : Nat := if c % 2 = 1 then (c / 2) ^^^ 0x82F63B78 else c / 2

/-- One byte of the division. -/
def crcByte (c b : Nat) : Nat :=
  crcBit (crcBit (crcBit (crcBit (crcBit (crcBit (crcBit (crcBit (c ^^^ b))))))))

/-- CRC-32C of a byte string. -/
def crc32c (l : List Byte) : Nat := (l.foldl (fun c b => crcByte c b.toNat) 0xFFFFFFFF) ^^^ 0xFFFFFFFF

/-- Whether a structure's CHECK field, four bytes at `off`, is the CRC-32C of the structure with that field zero. -/
def checkOk (l : List Byte) (off : Nat) : Bool := field l off 4 == crc32c (overlay l off (zeros 4))

end Sys2Proof.Machine
end

