-- ==== Sys2Proof/Machine/Numeric.lean ====
section
/-! DEFINITION. Numbers and formats (R72, R99–R124): exact values, decoding of every element format, rounding to a
format's grid, conversion with its counters, and the forming of block scales. -/

namespace Sys2Proof.Machine

/-! ## Exact values -/

/-- A value: m · 2^e exactly, an infinity, or a NaN. -/
inductive Num where
  | fin (m e : Int)
  | inf (neg : Bool)
  | nan
deriving DecidableEq, Repr

/-- 2^k as a natural number, for k not negative. -/
def pow2 (k : Int) : Nat := 2 ^ k.toNat

/-- The sum of two exact values; opposite infinities give NaN (R109). -/
def Num.add (x y : Num) : Num :=
  match x, y with
  | .nan, _ => .nan
  | _, .nan => .nan
  | .inf a, .inf b => if a = b then .inf a else .nan
  | .inf a, .fin _ _ => .inf a
  | .fin _ _, .inf b => .inf b
  | .fin m e, .fin n f =>
    let g := min e f
    .fin (m * pow2 (e - g) + n * pow2 (f - g)) g

/-- The negation of a value. -/
def Num.neg (x : Num) : Num :=
  match x with
  | .nan => .nan
  | .inf a => .inf (!a)
  | .fin m e => .fin (-m) e

/-- The product of two exact values; infinity times zero gives NaN (R109). -/
def Num.mul (x y : Num) : Num :=
  match x, y with
  | .nan, _ => .nan
  | _, .nan => .nan
  | .inf a, .inf b => .inf (a != b)
  | .inf a, .fin m _ => if m = 0 then .nan else .inf (a != decide (m < 0))
  | .fin m _, .inf b => if m = 0 then .nan else .inf (b != decide (m < 0))
  | .fin m e, .fin n f => .fin (m * n) (e + f)

def Num.isZero (x : Num) : Bool := match x with | .fin m _ => m == 0 | _ => false
def Num.isFin (x : Num) : Bool := match x with | .fin _ _ => true | _ => false
def Num.isNan (x : Num) : Bool := match x with | .nan => true | _ => false
def Num.isInf (x : Num) : Bool := match x with | .inf _ => true | _ => false
def Num.isNeg (x : Num) : Bool := match x with | .fin m _ => decide (m < 0) | .inf b => b | .nan => false

/-- The absolute value. -/
def Num.abs (x : Num) : Num := match x with | .fin m e => .fin m.natAbs e | .inf _ => .inf false | .nan => .nan

/-- Order of two values that are not NaN. -/
def Num.lt (x y : Num) : Bool :=
  match x, y with
  | .inf true, .inf true => false
  | .inf true, _ => true
  | .inf false, _ => false
  | _, .inf b => !b
  | .fin m e, .fin n f =>
    let g := min e f
    decide (m * (pow2 (e - g) : Int) < n * (pow2 (f - g) : Int))
  | _, _ => false

/-- Equality of values that are not NaN. -/
def Num.same (x y : Num) : Bool := !x.isNan && !y.isNan && !x.lt y && !y.lt x

def Num.zero : Num := .fin 0 0
def Num.one : Num := .fin 1 0

/-! ## Element formats (R72, R100, R102, R117) -/

/-- How an element format encodes infinities and NaNs (R100). -/
inductive Special where
  | ieee | onlyNan | none
deriving DecidableEq, Repr

/-- An element format: a floating-point one by its exponent and mantissa widths, bias and largest finite code, or a
two's-complement integer with `frac` bits below the point. -/
inductive Elem where
  | flt (eb mb bias : Nat) (sp : Special) (long : Bool) (maxCode nan : Nat)
  | int (w frac : Nat)
deriving DecidableEq, Repr

def e4m3 : Elem := .flt 4 3 7 .onlyNan false 0x7E 0x7F
def e5m2 : Elem := .flt 5 2 15 .ieee false 0x7B 0x7E
def e2m3 : Elem := .flt 2 3 1 .none false 0x1F 0
def e3m2 : Elem := .flt 3 2 3 .none false 0x1F 0
def e2m1 : Elem := .flt 2 1 1 .none false 0x7 0
def fp16 : Elem := .flt 5 10 15 .ieee true 0x7BFF 0x7E00
def bf16 : Elem := .flt 8 7 127 .ieee true 0x7F7F 0x7FC0
def fp32 : Elem := .flt 8 23 127 .ieee true 0x7F7FFFFF 0x7FC00000
def int8 : Elem := .int 8 0
def int4 : Elem := .int 4 0
def mxint8 : Elem := .int 8 6

/-- The element format of a format code; none for a reserved code (R72). -/
def elemOf (code : Nat) : Option Elem :=
  match code with
  | 0x00 | 0x05 => some e4m3
  | 0x01 | 0x06 => some e5m2
  | 0x02 | 0x07 => some e2m3
  | 0x03 | 0x08 => some e3m2
  | 0x04 => some int8
  | 0x09 => some mxint8
  | 0x10 | 0x12 | 0x13 => some e2m1
  | 0x11 => some int4
  | 0x18 => some bf16
  | 0x19 => some fp16
  | 0x1C => some fp32
  | _ => none

/-- The element format, FP32 standing for a reserved code (which no step carries: R99). -/
def elem (code : Nat) : Elem := (elemOf code).getD fp32

/-- The families of R72. -/
inductive Family where
  | f8 | f4 | f16 | f32
deriving DecidableEq, Repr

/-- The family of a format code, by its range (R72). -/
def family (code : Nat) : Family :=
  if code < 0x10 then .f8 else if code < 0x18 then .f4 else if code < 0x1C then .f16 else .f32

/-- Bits an element takes in memory: FP6 a byte, the 4-bit formats a nibble (R101, R163). -/
def elemBits (code : Nat) : Nat :=
  match family code with
  | .f8 => 8
  | .f4 => 4
  | .f16 => 16
  | .f32 => 32

/-- Elements that share one block scale; 0 for formats without element scales (R103). -/
def blockLen (code : Nat) : Nat :=
  if 0x05 ≤ code && code ≤ 0x09 || code = 0x12 then 32 else if code = 0x13 then 16 else 0

/-- Whether a format is an integer format without element scales (R108). -/
def isIntFmt (code : Nat) : Bool := code == 0x04 || code == 0x11

/-- Whether a format counts as integer in R73: INT8, MXINT8, INT4. -/
def isIntSide (code : Nat) : Bool := code == 0x04 || code == 0x09 || code == 0x11

/-- Whether a format is floating-point or block-scaled floating-point (R73). -/
def isFltSide (code : Nat) : Bool := !isIntSide code

/-- Whether a format is long (R99). -/
def Elem.isLong (f : Elem) : Bool := match f with | .flt _ _ _ _ l _ _ => l | .int _ _ => false

/-- Decodes an element's bits (R100–R102). -/
def decodeElem (f : Elem) (code : Nat) : Num :=
  match f with
  | .int w frac => .fin (signed w code) (-(frac : Int))
  | .flt eb mb bias sp _ _ _ =>
    let s := bit code (eb + mb)
    let e := bits code mb eb
    let m := bits code 0 mb
    let top := 2 ^ eb - 1
    let sign (x : Nat) : Int := if s then -(x : Int) else x
    if sp = .ieee && e = top then if m = 0 then .inf s else .nan
    else if sp = .onlyNan && e = top && m = 2 ^ mb - 1 then .nan
    else if e = 0 then .fin (sign m) (1 - (bias : Int) - mb)
    else .fin (sign (2 ^ mb + m)) ((e : Int) - bias - mb)

/-- Whether an element's bits are a subnormal of a long format (R106). -/
def isSubnormal (f : Elem) (code : Nat) : Bool :=
  match f with
  | .flt eb mb _ _ long _ _ => long && bits code mb eb == 0 && bits code 0 mb != 0
  | .int _ _ => false

/-- STRICT, ROUND, OVF and TABLE_SET of MODE_BITS (R62). -/
def strict (mode : Byte) : Bool := mode.getLsbD 0
def stochastic (mode : Byte) : Bool := mode.getLsbD 1
def propagate (mode : Byte) : Bool := mode.getLsbD 2

/-- Reads an element under a mode: fast mode reads a subnormal of a long format as zero (R106). -/
def readElem (mode : Byte) (f : Elem) (code : Nat) : Num :=
  if !strict mode && isSubnormal f code then .zero else decodeElem f code

/-- Reads an FP32 word under a mode. -/
def readF32 (mode : Byte) (w : W32) : Num := readElem mode fp32 w.toNat

/-! ## Rounding (R110–R113) -/

/-- ⌊log₂ (n ÷ d)⌋ for positive n and d. -/
def log2Ratio (n d : Nat) : Int :=
  let k : Int := (Nat.log2 n : Int) - Nat.log2 d
  if n * pow2 (-k) < d * pow2 k then k - 1 else k

/-- The exponent of the grid's spacing at a magnitude: the top bit's place less the mantissa, not below the subnormal
spacing unless `noSub` (fast mode, long formats: R110). -/
def gridExp (f : Elem) (noSub : Bool) (n d : Nat) : Int :=
  match f with
  | .int _ frac => -(frac : Int)
  | .flt _ mb bias _ _ _ _ =>
    let k := log2Ratio n d - mb
    if noSub then k else max k (1 - (bias : Int) - mb)

/-- A magnitude n ÷ d as a multiple of 2^u: the multiple below, and the part above it as a fraction r ÷ q. -/
def cut (n d : Nat) (u : Int) : Nat × Nat × Nat :=
  let n' := n * pow2 (-u)
  let q := d * pow2 u
  (n' / q, n' % q, q)

/-- Rounds to nearest, ties to even (R111). -/
def nearest (n d : Nat) (u : Int) : Nat :=
  let (k, r, q) := cut n d u
  if 2 * r < q then k else if q < 2 * r then k + 1 else if k % 2 = 0 then k else k + 1

/-- Rounds stochastically with the draw `x` (R112). -/
def byDraw (n d : Nat) (u : Int) (x : Nat) : Nat :=
  let (k, r, q) := cut n d u
  if r = 0 then k else if 65536 ≤ 65536 * r / q + x then k + 1 else k

/-- Whether a magnitude lies on the grid: no draw is taken for it (R112). -/
def onGrid (n d : Nat) (u : Int) : Bool := (cut n d u).2.1 == 0

/-- The magnitude code, with an exponent that may run past the format's, of k · 2^u (k at most 2^(mb + 1)). -/
def magCode (f : Elem) (k : Nat) (u : Int) : Nat :=
  match f with
  | .int _ _ => k
  | .flt _ mb bias _ _ _ _ =>
    let (k, u) := if 2 ^ (mb + 1) ≤ k then (k / 2, u + 1) else (k, u)
    if k < 2 ^ mb then k
    else (u + mb + bias).toNat * 2 ^ mb + (k - 2 ^ mb)

/-- What a conversion gives: the code, whether it took a draw, and the events it counts. -/
structure Conv where
  code : Nat
  drew : Bool := false
  sat  : Nat := 0
  nan  : Nat := 0
deriving DecidableEq, Repr

/-- The bits of an element format, with the sign bit's place. -/
def signBit (f : Elem) : Nat := match f with | .flt eb mb _ _ _ _ _ => 2 ^ (eb + mb) | .int w _ => 2 ^ (w - 1)

/-- The code of a signed limit of a format: ± largest finite, or the range limit of the sign. -/
def limitCode (f : Elem) (neg : Bool) : Nat :=
  match f with
  | .flt _ _ _ _ _ mx _ => mx + (if neg then signBit f else 0)
  | .int w _ => if neg then 2 ^ (w - 1) else 2 ^ (w - 1) - 1

/-- The code of an infinity of a format that has one. -/
def infCode (f : Elem) (neg : Bool) : Nat :=
  match f with
  | .flt eb mb _ _ _ _ _ => (2 ^ eb - 1) * 2 ^ mb + (if neg then signBit f else 0)
  | .int _ _ => 0

/-- An overflowing conversion (R114; R120 for elements under a block scale, `scaled`). -/
def overflow (f : Elem) (neg prop scaled : Bool) : Conv :=
  match f with
  | .flt _ _ _ sp _ _ nan =>
    if prop && !scaled && sp = .ieee then { code := infCode f neg }
    else if prop && !scaled && sp = .onlyNan then { code := nan }
    else { code := limitCode f neg, sat := 1 }
  | .int _ _ => { code := limitCode f neg, sat := 1 }

/-- The canonical NaN, or +0 and one NAN_DROP event where the format has no NaN (R115). -/
def nanConv (f : Elem) : Conv :=
  match f with
  | .flt _ _ _ sp _ _ nan => if sp = .none then { code := 0, nan := 1 } else { code := nan }
  | .int _ _ => { code := 0, nan := 1 }

/-- Whether stochastic rounding applies to a destination under a mode (R105, R112). -/
def drawsFor (mode : Byte) (f : Elem) : Bool := stochastic mode && !(strict mode && f.isLong)

/-- Rounds and encodes a finite magnitude n ÷ d of a sign (R110–R116), with the draw that is offered. An integer result at
the negative limit (-128, -8, -2) is in range, as R102's range says (DESIGN CHOICE: R110's `abs(r) > max_finite(f)` would
call it an overflow and count a SAT event). -/
def encodeMag (mode : Byte) (f : Elem) (neg : Bool) (n d : Nat) (draw : Nat) (scaled : Bool) : Conv :=
  if n = 0 then { code := 0 }
  else
    let u := gridExp f (!strict mode && f.isLong) n d
    let st := drawsFor mode f
    let k := if st then byDraw n d u draw else nearest n d u
    let drew := st && !onGrid n d u
    let c := magCode f k u
    let r : Conv := match f with
      | .flt _ mb _ _ long mx _ =>
        if mx < c then overflow f neg (propagate mode) scaled
        else if !strict mode && long && c < 2 ^ mb then { code := 0 }
        else if c = 0 then { code := 0 }
        else { code := c + (if neg then signBit f else 0) }
      | .int w _ =>
        if (if neg then 2 ^ (w - 1) < c else 2 ^ (w - 1) ≤ c) then overflow f neg (propagate mode) scaled
        else { code := if neg then (2 ^ w - c) % 2 ^ w else c }
    { r with drew := drew }

/-- Converts a value, divided by `den`, to a format (R110). -/
def convertBy (mode : Byte) (f : Elem) (x : Num) (den : Nat) (draw : Nat) (scaled : Bool) : Conv :=
  match x with
  | .nan => nanConv f
  | .inf neg =>
    match f with
    | .flt _ _ _ .ieee _ _ _ => if scaled then overflow f neg (propagate mode) scaled else { code := infCode f neg }
    | _ => overflow f neg (propagate mode) scaled
  | .fin m e => encodeMag mode f (decide (m < 0)) (m.natAbs * pow2 e) (den * pow2 (-e)) draw scaled

/-- Converts a value to a format (R110). -/
def convert (mode : Byte) (f : Elem) (x : Num) (draw : Nat) : Conv := convertBy mode f x 1 draw false

/-- An arithmetic result in FP32, rounded once to nearest even; an overflow of finite operands follows OVF, a subnormal
is flushed in fast mode, zero is +0 (R106, R107, R109, R116, R145). A result that saturates counts no SAT event (DESIGN CHOICE:
R114 counts conversions and R125 adds INT32 words; neither names arithmetic). -/
def toF32 (mode : Byte) (x : Num) : W32 :=
  match x with
  | .nan => 0x7FC00000
  | .inf neg => BitVec.ofNat 32 (infCode fp32 neg)
  | .fin m e => BitVec.ofNat 32 (encodeMag (mode &&& 0b11111101) fp32 (decide (m < 0)) (m.natAbs * pow2 e) (pow2 (-e)) 0 false).code

/-- A quotient p ÷ q of finite values (q not zero), as toF32 rounds it. -/
def ratioF32 (mode : Byte) (neg : Bool) (n d : Nat) : W32 :=
  BitVec.ofNat 32 (encodeMag (mode &&& 0b11111101) fp32 neg n d 0 false).code

/-- A value rounded once to 24 significant bits, to nearest even, with no limit to its exponent above and the subnormal
spacing below: an FP32 result before the OVF policy. -/
def Num.round24 (x : Num) : Num :=
  match x with
  | .fin m e =>
    if m = 0 then .zero
    else
      let n := m.natAbs * pow2 e
      let d := pow2 (-e)
      let u := gridExp fp32 false n d
      .fin (if m < 0 then -(nearest n d u : Int) else nearest n d u) u
  | x => x

/-- A finite result that the spec does not fix: the free word, kept to what is written in any case. A subnormal is
written as +0 in fast mode; a word past the largest finite value stands for an overflow (R107, R109). -/
def tame (mode : Byte) (w : W32) : W32 :=
  let e := fld w 23 8
  if e = 255 then
    if propagate mode then BitVec.ofNat 32 (infCode fp32 (bitOf w 31)) else BitVec.ofNat 32 (limitCode fp32 (bitOf w 31))
  else if e = 0 then if !strict mode || fld w 0 23 = 0 then 0 else w
  else w

/-! ## Integer words (R86, R108) -/

/-- A sum saturated to 32-bit two's complement, and whether it saturated (R86). -/
def satI32 (x : Int) : W32 × Bool :=
  if x < -(2 ^ 31) then (0x80000000, true) else if 2 ^ 31 ≤ x then (0x7FFFFFFF, true)
  else (BitVec.ofInt 32 x, false)

/-- An INT32 word as FP32, rounded to nearest even (R140). -/
def i32ToF32 (mode : Byte) (w : W32) : W32 := toF32 mode (.fin w.toInt 0)

/-! ## Maximum and minimum (R118) -/

/-- Maximum or minimum of two values under a mode. -/
def extremumN (mode : Byte) (wantMax : Bool) (x y : Num) : Num :=
  if x.isNan then if strict mode then .nan else y
  else if y.isNan then if strict mode then .nan else x
  else if (if wantMax then x.lt y else y.lt x) then y else x

/-- Maximum or minimum of two FP32 words under a mode. -/
def extremum (mode : Byte) (wantMax : Bool) (a b : W32) : W32 :=
  toF32 mode (extremumN mode wantMax (readF32 mode a) (readF32 mode b))

/-! ## Block scales (R103, R104, R119–R124) -/

/-- The value of a scale byte: E8M0 for MX formats, UE5M3 for AXF4 (R103). -/
def scaleValue (axf4 : Bool) (c : Nat) : Num :=
  if c = 0xFF then .nan
  else if axf4 then
    let e := c / 8
    let m := c % 8
    if e = 0 then .fin m (-17) else .fin (8 + m) ((e : Int) - 18)
  else .fin 1 ((c : Int) - 127)

/-- The value of an element under its block scale (R104): a NaN scale makes it NaN, a zero scale zero. -/
def scaledElem (mode : Byte) (code : Nat) (elemCode scale : Nat) : Num :=
  let axf4 := code == 0x13
  match scaleValue axf4 scale with
  | .nan => .nan
  | sc => if sc.isZero then .zero else (readElem mode (elem code) elemCode).mul sc

/-- emax of an MX element format (R119). -/
def emaxOf (code : Nat) : Int :=
  match code with
  | 0x05 => 8
  | 0x06 => 15
  | 0x07 => 2
  | 0x08 => 4
  | 0x12 => 2
  | _ => 0

/-- The largest magnitude of a block of finite values. -/
def amax (l : List Num) : Num := l.foldl (fun a x => if a.lt x.abs then x.abs else a) .zero

/-- The smallest UE5M3 code whose value is at least n ÷ d, 0xFE where none is; at least 0x01 (R121). -/
def ue5m3At (n d : Nat) : Nat :=
  ((List.range 254).find? (fun i =>
    match scaleValue true (i + 1) with
    | .fin m e => n * pow2 (-e) ≤ m.toNat * d * pow2 e
    | _ => false)).map (· + 1) |>.getD 0xFE

/-- The scale code of a block that is not all zero (R119, R121): an MX power of two clamped to E8M0, or the UE5M3 value
at or above amax ÷ (6T). `t` is the tensor scale of AXF4. -/
def scaleCode (code : Nat) (a : Num) (t : Num) : Nat :=
  match a with
  | .fin m e =>
    if code = 0x13 then
      match t with
      | .fin tm te =>
        -- amax ÷ (6T) = m 2^e ÷ (6 tm 2^te)
        ue5m3At (m.natAbs * pow2 (e - te)) (6 * tm.natAbs * pow2 (te - e))
      | _ => 0xFF
    else
      let k := log2Ratio (m.natAbs * pow2 e) (pow2 (-e)) - emaxOf code + 127
      if k < 0 then 0 else if 0xFE < k then 0xFE else k.toNat
  | _ => 0xFF

/-- Whether T is a positive, finite, normal FP32 value (R121). -/
def tensorScaleOk (t : W32) : Bool := !bitOf t 31 && 0 < fld t 23 8 && fld t 23 8 < 255

/-- What a block conversion gives: the scale code, the element codes, and the events. -/
structure BlockConv where
  scale : Nat
  codes : List Nat
  crush : Nat := 0
  sat   : Nat := 0
  nan   : Nat := 0
deriving DecidableEq, Repr

/-- Converts one block to a block-scaled format (R119–R124). `xs` pairs each value with the draw offered to it, after
any fast-mode flush; the second result says which elements took their draw. -/
def convertBlock (mode : Byte) (code : Nat) (t : W32) (xs : List (Num × Nat)) : BlockConv × List Bool :=
  let axf4 := code == 0x13
  let vals := xs.map Prod.fst
  let none' := xs.map (fun _ => false)
  let zeros := xs.map (fun _ => 0)
  let special := vals.any Num.isNan || (propagate mode && vals.any Num.isInf)
  if special || (axf4 && !tensorScaleOk t) then ({ scale := 0xFF, codes := zeros, nan := flag special }, none')
  else
    let big (neg : Bool) : Num := decodeElem fp32 (limitCode fp32 neg)
    let ys := xs.map (fun p => (match p.1 with | .inf neg => big neg | x => x, p.2))
    let a := amax (ys.map Prod.fst)
    if a.isZero then ({ scale := 0, codes := zeros }, none')
    else
      let tv := if axf4 then decodeElem fp32 t.toNat else Num.one
      let sc := scaleCode code a tv
      let divisor := (scaleValue axf4 sc).mul tv
      let cs := ys.map (fun p =>
        match p.1, divisor with
        | .fin m e, .fin dm de => convertBy mode (elem code) (.fin m (e - de)) dm.natAbs p.2 true
        | _, _ => { code := 0 })
      let zeroed := (ys.zip cs).any (fun p => !p.1.1.isZero && p.2.code == 0)
      ({ scale := sc, codes := cs.map Conv.code, crush := flag zeroed, sat := (cs.map Conv.sat).sum,
         nan := 0 }, cs.map Conv.drew)

/-! ## Packing (R75, R101) -/

/-- The elements of a byte string in a format, element 0 first; FP6 ignores bits [7:6] (R101). -/
def unpack (code : Nat) (l : List Byte) : List Nat :=
  match elemBits code with
  | 4 => l.flatMap (fun b => [b.toNat % 16, b.toNat / 16])
  | 8 => l.map (fun b => match elem code with
      | .flt 2 3 _ _ _ _ _ => b.toNat % 64
      | .flt 3 2 _ _ _ _ _ => b.toNat % 64
      | _ => b.toNat)
  | 16 => (chunks 2 l.length l).map ofLe
  | _ => (chunks 4 l.length l).map ofLe

/-- The byte string of element codes in a format. -/
def pack (code : Nat) (l : List Nat) : List Byte :=
  match elemBits code with
  | 4 => (chunks 2 l.length l).map (fun p => BitVec.ofNat 8 (nth p 0 0 % 16 + nth p 1 0 % 16 * 16))
  | 8 => l.map (BitVec.ofNat 8)
  | 16 => l.flatMap (leBytes 2)
  | _ => l.flatMap (leBytes 4)

/-! ## Square roots -/

/-- The integer square root, bit by bit. -/
def isqrtAux (n : Nat) (fuel r : Nat) : Nat :=
  match fuel with
  | 0 => r
  | k + 1 =>
    let c := r + 2 ^ k
    if c * c ≤ n then isqrtAux n k c else isqrtAux n k r

/-- ⌊√n⌋ for n below 2^512. -/
def isqrt (n : Nat) : Nat := isqrtAux n 256 0

/-- A quotient n ÷ d of positive numbers, as q · 2^e with more than 90 bits. -/
def quotient (n d : Nat) : Int × Int :=
  let k := 96 - log2Ratio n d
  (n * pow2 k / (d * pow2 (-k)), -k)

/-! ## Powers of two and logarithms -/

/-- The product of the roots 2^(1/2), 2^(1/4), … of the set bits of a 64-bit fraction `f`, from bit `k` - 1 down, over the
product `p` so far; `r` is the root before. All are in units of 2⁻⁶⁴. -/
def rootsProduct (f : Nat) (k r p : Nat) : Nat :=
  match k with
  | 0 => p
  | j + 1 =>
    let r := isqrtAux (2 ^ 64 * r) 66 0
    rootsProduct f j r (if f.testBit j then p * r / 2 ^ 64 else p)

/-- 2^(m · 2^e) as p · 2^k, to more than 50 bits; a power below 2⁻²⁰⁰ counts as zero. -/
def exp2Fixed (m e : Int) : Int × Int :=
  let x : Int := m * pow2 (e + 64) / pow2 (-(e + 64))
  let k := x / 2 ^ 64
  if k < -200 then (0, 0) else (rootsProduct (x % 2 ^ 64).toNat 64 (2 * 2 ^ 64) (2 ^ 64), k - 64)

/-- The first `k` bits of the logarithm of y · 2⁻⁶⁴, for y from 2⁶⁴ to below 2⁶⁵, after the bits `acc`. -/
def log2Bits (k y acc : Nat) : Nat :=
  match k with
  | 0 => acc
  | j + 1 =>
    let y := y * y / 2 ^ 64
    if 2 ^ 65 ≤ y then log2Bits j (y / 2) (2 * acc + 1) else log2Bits j y (2 * acc)

/-- log₂ (m · 2^e) for positive m, in units of 2⁻⁶⁴, to more than 50 bits below the point. -/
def log2Fixed (m : Nat) (e : Int) : Int :=
  let l := Nat.log2 m
  ((e + l) * 2 ^ 64 : Int) + log2Bits 64 (2 ^ 64 * m / 2 ^ l) 0

/-- An FP32 word moved by a number of units in the last place, within the finite values of its sign. -/
def moveUlp (w : W32) (k : Int) : W32 :=
  let m := fld w 0 31
  let m' := min (max ((m : Int) + k) 0).toNat 0x7F7FFFFF
  BitVec.ofNat 32 (m' + (if bitOf w 31 then 2 ^ 31 else 0))

end Sys2Proof.Machine
end

