-- ==== Sys2Proof/Machine/Ops.lean ====
section
/-! DEFINITION. The named operations every command is written over: access to the groups of the state, which positions
exist and are served, the address map of HBM, memory, fault records and their way to the log and the rings, health,
completions, and the stop of an ensemble. -/

namespace Sys2Proof.Machine

/-- What a command answers: every command of the table has an effect, so every meaning is a next state. -/
abbrev Result := Host.Outcome State Fault Refusal

/-! ## Access to the groups of the state -/

def State.en (s : State) (e : Nat) : Ens := s.ens.get {} e
def State.setEn (s : State) (e : Nat) (v : Ens) : State := { s with ens := s.ens.set {} e v }
def State.bk (s : State) (ub : Nat) : Bank := s.banks.get {} ub
def State.setBk (s : State) (ub : Nat) (v : Bank) : State := { s with banks := s.banks.set {} ub v }
def State.tile (s : State) (n : Nat) : Tile := s.tiles.get {} n
def State.setTile (s : State) (n : Nat) (v : Tile) : State := { s with tiles := s.tiles.set {} n v }
def State.se (s : State) (n : Nat) : Se := s.ses.get {} n
def State.setSe (s : State) (n : Nat) (v : Se) : State := { s with ses := s.ses.set {} n v }
/-- Context `c` of stream engine `n` (R156). -/
def State.ctx (s : State) (n c : Nat) : Ctx := (s.se n).ctxs.get {} c
def State.setCtx (s : State) (n c : Nat) (v : Ctx) : State :=
  s.setSe n { s.se n with ctxs := (s.se n).ctxs.set {} c v }
def State.obj (s : State) (n : Nat) : SyncObj := s.sync.get {} n
def State.setObj (s : State) (n : Nat) (v : SyncObj) : State := { s with sync := s.sync.set {} n v }
def State.mse (s : State) (n : Nat) : Mse := s.mses.get {} n
def State.setMse (s : State) (n : Nat) (v : Mse) : State := { s with mses := s.mses.set {} n v }
/-- Job slot `j` of the memory-side engine of stack `n` (R209). -/
def State.job (s : State) (n j : Nat) : Job := (s.mse n).jobs.get {} j
def State.setJob (s : State) (n j : Nat) (v : Job) : State :=
  s.setMse n { s.mse n with jobs := (s.mse n).jobs.set {} j v }
/-- Cluster `c` of stack `n` is number 8n + c (R313). -/
def State.cluster (s : State) (n : Nat) : Cluster := s.clusters.get {} n
def State.setCluster (s : State) (n : Nat) (v : Cluster) : State := { s with clusters := s.clusters.set {} n v }
/-- Pseudo-channel `p` of stack `n` is number 64n + p (R313). -/
def State.pc (s : State) (n p : Nat) : Pc := s.pcs.get {} (64 * n + p)
def State.setPc (s : State) (n p : Nat) (v : Pc) : State := { s with pcs := s.pcs.set {} (64 * n + p) v }
def State.stk (s : State) (n : Nat) : Stack := s.hstack.get {} n
def State.setStk (s : State) (n : Nat) (v : Stack) : State := { s with hstack := s.hstack.set {} n v }
def State.tlb (s : State) (r : Nat) : List TlbEntry := s.tlbs.get [] r
def State.setTlb (s : State) (r : Nat) (v : List TlbEntry) : State := { s with tlbs := s.tlbs.set [] r v }
def State.count (s : State) (i : Nat) : NetCount := s.counts.get {} i
def State.setCount (s : State) (i : Nat) (v : NetCount) : State := { s with counts := s.counts.set {} i v }
def State.gw (s : State) (n : Nat) : Gateway := s.gws.get {} n
def State.setGw (s : State) (n : Nat) (v : Gateway) : State := { s with gws := s.gws.set {} n v }
def State.dsp (s : State) (n : Nat) : Dsp := s.dsps.get {} n
def State.setDsp (s : State) (n : Nat) (v : Dsp) : State := { s with dsps := s.dsps.set {} n v }
def State.region (s : State) (n : Nat) : Region := s.regions.get {} n
def State.setRegion (s : State) (n : Nat) (v : Region) : State := { s with regions := s.regions.set {} n v }
def State.hl (s : State) (i : Nat) : Health := s.health.get {} i
def State.setHl (s : State) (i : Nat) (v : Health) : State := { s with health := s.health.set {} i v }
def State.fn (s : State) (n : Nat) : Fn := s.fns.get {} n
def State.setFn (s : State) (n : Nat) (v : Fn) : State := { s with fns := s.fns.set {} n v }
def State.port (s : State) (q : Nat) : Port := s.ports.get {} q
def State.setPort (s : State) (q : Nat) (v : Port) : State := { s with ports := s.ports.set {} q v }
def State.chan (s : State) (c : Nat) : Chan := s.chans.get {} c
def State.setChan (s : State) (c : Nat) (v : Chan) : State := { s with chans := s.chans.set {} c v }
def State.link (s : State) (l : Nat) : Link := s.zegus.links.get {} l
def State.setLink (s : State) (l : Nat) (v : Link) : State :=
  { s with zegus := { s.zegus with links := s.zegus.links.set {} l v } }
def State.dom (s : State) (d : Nat) : Domain := s.gov.domains.get {} d
def State.setDom (s : State) (d : Nat) (v : Domain) : State :=
  { s with gov := { s.gov with domains := s.gov.domains.set {} d v } }

/-- Draws one free value: the state after the draw, and the draw's number. -/
def State.draw (s : State) : State × Nat := ({ s with free := s.free + 1 }, s.free)

/-! ## Bits that the device sets and a write clears (R5) -/

/-- Such a bit: bit `b` of register `r`, numbered by the model. 0 MEM_REGION, 1 AST_BASE, 2 GOV_STATUS, 3 SEC_STATUS, 4 ALERT_STATUS,
5 RST_CAUSE, 32 + k FAB_CLKk, 64 + n GW_STATn, 96 + n ZL_STATn. -/
def freshKey (r b : Nat) : Nat := 64 * r + b

/-- The device sets a bit in this CK_MGT cycle. -/
def State.mark (s : State) (r b : Nat) : State :=
  { s with fresh := s.fresh.set 0 (freshKey r b) (s.ltc.toNat + 1) }

/-- Whether a write of 1 clears a bit now: not in the CK_MGT cycle in which the device has set it (R5). -/
def State.clears (s : State) (r b : Nat) : Bool := s.fresh.get 0 (freshKey r b) != s.ltc.toNat + 1

/-- Those bits of a write of `v` to an `n`-bit field from bit `lo` on that clear now. -/
def State.clearing (s : State) (r lo n v : Nat) : Nat :=
  (onesOf v n).foldl (fun m b => if s.clears r (lo + b) then m + 2 ^ b else m) 0

/-- A packet put on its way (R266). -/
def State.send (s : State) (p : Packet) : State := { s with net := s.net ++ [p] }

/-- Several packets put on their way, in order. -/
def State.sendAll (s : State) (ps : List Packet) : State := { s with net := s.net ++ ps }

/-- A packet taken off the network as it arrives; nothing where none such is on its way. -/
def State.take (s : State) (p : Packet) : State := { s with net := dropFirst s.net p }

/-- Whether a packet would arrive before one of the same flow that was sent earlier (R193, R240, R269): it does not, nor does any while
the clocks have stopped (R398). -/
def State.overtakes (s : State) (same : Packet → Bool) (p : Packet) : Bool :=
  s.rst.pllLost || (s.net.contains p && (s.net.takeWhile (· != p)).any same)

/-- The numbers by which packets name a sender that is no unit: a gateway, the Caller for an ensemble, the home of a sync object, and a
gateway that answers what is no answer to it, its region absent or not. -/
def gwSource (g : Nat) : Nat := 0x8000 + g
def callerSource (e : Nat) : Nat := 0x4000 + e
def homeSource (obj : Nat) : Nat := 0x10000 + obj / 64
def gwStray (g : Nat) (absent : Bool) : Nat := 0x20000 + 2 * g + flag absent

/-- The gateway that a source number names. -/
def gwOfSource (src : Nat) : Option Nat := if 0x8000 ≤ src && src < 0x801C then some (src - 0x8000) else none

/-- The way a packet of the TOKEN channel takes, an ARRIVE apart: its channel, where it comes from and where it
goes. Packets of one way arrive in the order sent (R269). -/
def floorWay (p : Packet) : Option (Nat × Nat × Nat) :=
  match p with
  | .token src ub _ => if src = 0xFFFF then none else some (0, src, ub)
  | .credit src ub _ _ => if src = 0xFFFF then none else some (0, src, ub)
  | .cancelled ub e _ _ => some (0, callerSource e, ub)
  | _ => none

/-- Whether an earlier packet of its way holds a packet up (R269). -/
def State.heldUp (s : State) (p : Packet) : Bool :=
  match floorWay p with
  | none => s.rst.pllLost
  | some w => s.overtakes (fun q => floorWay q == some w) p

/-! ## Positions of the variant (R1, R16, R28) -/

/-- The populated stacks, in ascending number (R16). -/
def Variant.stacks : Variant → List Nat
  | .m8l16 => [1, 2, 3, 4, 7, 8, 9, 10]
  | _ => [0, 1, 2, 3, 4, 5, 6, 7, 8, 9, 10, 11]

/-- The populated link dies, in ascending number (R16). -/
def Variant.linkDies : Variant → List Nat
  | .m12l8 => [0, 2, 4, 6, 8, 10, 12, 14]
  | _ => [0, 1, 2, 3, 4, 5, 6, 7, 8, 9, 10, 11, 12, 13, 14, 15]

/-- TDP in watts (R1). -/
def Variant.tdp : Variant → Nat
  | .m12l16 => 3400
  | .m12l8 => 3200
  | .m8l16 => 3250

/-- The number of the variant in QUERY item 1 (R441). -/
def Variant.code : Variant → Nat
  | .m12l16 => 0
  | .m12l8 => 1
  | .m8l16 => 2

def State.stackOn (s : State) (n : Nat) : Bool := s.variant.stacks.contains n

/-- Whether a stack is populated and its clocks run (R398). -/
def State.stackRuns (s : State) (n : Nat) : Bool := s.stackOn n && !s.rst.pllLost
def State.linkOn (s : State) (l : Nat) : Bool := s.variant.linkDies.contains l

/-- The kinds of unit (R28). -/
inductive UnitKind where
  | tile | stream | memory | none
deriving DecidableEq, Repr

/-- The kind of a unit number (R28). -/
def unitKind (u : Nat) : UnitKind :=
  if u < 512 then .tile else if u < 768 then .stream else if u < 780 then .memory else .none

/-- The unit number of a unit and shard bank. -/
def unitOf (ub : Nat) : Nat := ub % 1024

/-- The shard bank of a unit and shard bank (R463). -/
def bankOf (ub : Nat) : Nat := ub / 1024

/-- The bank of the device's own role (R463). -/
def State.ownBank (s : State) : Nat := flag s.partner.roleB

/-- Whether a unit number names a unit of the variant (R28). -/
def State.unitOn (s : State) (u : Nat) : Bool :=
  match unitKind u with
  | .tile => true
  | .stream => true
  | .memory => s.stackOn (u - 768)
  | .none => false

/-- Whether a unit's position is served (R15, R311). -/
def State.unitServed (s : State) (u : Nat) : Bool :=
  match unitKind u with
  | .tile => !(s.tserv.get {} u).unserved
  | .stream => !(s.sserv.get {} (u - 512)).unserved
  | .memory => s.stackOn (u - 768)
  | .none => false

/-- CLASS and UNIT of a unit in a record (R313). -/
def unitClass (u : Nat) : Nat × Nat :=
  match unitKind u with
  | .tile => (0, u)
  | .stream => (3, u - 512)
  | .memory => (4, u - 768)
  | .none => (8, u)

/-- The initiator ID of a stream engine, 0x200 + n (R276). -/
def seInit (n : Nat) : Nat := 0x200 + n

/-! ## Device addresses (R205, R207) and offsets (R232) -/

/-- LOCAL_GIB as R205 treats it. -/
def State.localGib (s : State) : Nat := min s.memRegion 64

/-- The number of populated stacks. -/
def State.nStacks (s : State) : Nat := s.variant.stacks.length

/-- Stack and offset of a device address (R207); none where there is no memory. -/
def State.place (s : State) (a : Nat) : Option (Nat × Nat) :=
  let n := s.nStacks
  let l := s.localGib
  let gib := 2 ^ 30
  if a < gib * (n * (64 - l)) then
    let g := a / 4096
    let r := g / n
    let c := g % n
    let h := (r ^^^ (r >>> 7) ^^^ (r >>> 14) ^^^ (r >>> 21)) % n
    some (nth s.variant.stacks ((c + h) % n) 0, 4096 * r + a % 4096)
  else if a < gib * (64 * n) then
    let b := a - gib * (n * (64 - l))
    some (nth s.variant.stacks (b / (gib * l)) 0, gib * (64 - l) + b % (gib * l))
  else none

/-- The device address of a stack offset: the inverse of `place` (R207). -/
def State.address (s : State) (stack off : Nat) : Nat :=
  let n := s.nStacks
  let l := s.localGib
  let gib := 2 ^ 30
  let j := (s.variant.stacks.findIdx? (· == stack)).getD 0
  if off < gib * (64 - l) then
    let r := off / 4096
    let h := (r ^^^ (r >>> 7) ^^^ (r >>> 14) ^^^ (r >>> 21)) % n
    4096 * (r * n + (j + n - h) % n) + off % 4096
  else gib * (n * (64 - l)) + j * (gib * l) + (off - gib * (64 - l))

/-- Pseudo-channel index of a stack offset (R232). -/
def pcOf (o : Nat) : Nat := (bits o 8 6) ^^^ (bits o 22 6)

/-- Bank within the pseudo-channel, 16 × stack ID + 4 × bank group + bank (R232). -/
def dbankOf (o : Nat) : Nat := 16 * bits o 20 2 + 4 * (bits o 16 2 ^^^ bits o 28 2) + bits o 18 2

/-- Row of a stack offset (R232). -/
def rowOf (o : Nat) : Nat := bits o 22 14

/-- Whether a stack offset lies in the refuge (R255). -/
def inRefuge (o : Nat) : Bool := 60 * 2 ^ 30 ≤ o

/-! ## Memories -/

/-- HBM's index of a byte: stacks of 2³⁶ bytes. -/
def hbmKey (stack off : Nat) : Nat := 2 ^ 36 * stack + off

/-- The line of 64 bytes a byte of HBM lies in, over all stacks. -/
def hbmLine (stack off : Nat) : Nat := hbmKey stack off / 64

def State.hbmRead (s : State) (stack off n : Nat) : List Byte := Map.getAll s.hbm 0 (hbmKey stack off) n

/-- Writes bytes of a stack; a line written has its check symbols anew, and a correction of it is no longer to be written
back (R249). -/
def State.hbmWrite (s : State) (stack off : Nat) (v : List Byte) : State :=
  let off' (l : Nat) : Bool := !(hbmKey stack off < 64 * l + 64 && 64 * l < hbmKey stack off + v.length)
  { s with hbm := Map.setAll s.hbm 0 (hbmKey stack off) v, hfixed := s.hfixed.filter off',
           herr := s.herr.filter (fun x => off' x.1) }

/-- Whether the line of a byte of HBM is poisoned (R250). -/
def State.hbmBad (s : State) (stack off : Nat) : Bool := s.hpoison.contains (hbmLine stack off)

def State.hbmPoison (s : State) (stack off : Nat) (b : Bool) : State :=
  { s with hpoison := putIdx s.hpoison (hbmLine stack off) b,
           herr := if b then s.herr.erase (hbmLine stack off) else s.herr }

/-- Bytes that accesses of a stack have read and written, counted for the telemetry (R512). -/
def State.moved (s : State) (stack rd wr : Nat) : State :=
  let v := s.stk stack
  s.setStk stack { v with rdNow := satAdd 64 v.rdNow rd, wrNow := satAdd 64 v.wrNow wr }

/-- A tile store's index of a byte: stores of 4 MiB (R126). -/
def tsKey (tile a : Nat) : Nat := 2 ^ 22 * tile + a

def State.tsRead (s : State) (tile a n : Nat) : List Byte := Map.getAll s.tstore 0 (tsKey tile a) n

/-- What the write of `n` bytes at byte `k` of the tile stores leaves of a line's errors: those of the codewords, of eight bytes each,
that it does not write whole (R132). -/
def errorsLeft (k n line : Nat) (l : List (Nat × BitVec 72)) : List (Nat × BitVec 72) :=
  l.filter (fun x => !(k ≤ 64 * line + 8 * x.1 && 64 * line + 8 * x.1 + 8 ≤ k + n))

/-- The place, among the corrections not yet written back, of codeword `k` of line `l` over all tile stores; a `k` of 8 is an error that
a read itself added (R132). -/
def fixKey (l k : Nat) : Nat := 9 * l + k

/-- Whether the write of `n` bytes at byte `k` of the tile stores leaves the codeword of a correction as it is: it writes none of its
bytes (R132). -/
def fixStays (k n key : Nat) : Bool :=
  let lo := 64 * (key / 9) + (if key % 9 = 8 then 0 else 8 * (key % 9))
  let hi := lo + (if key % 9 = 8 then 64 else 8)
  !(k < hi && lo < k + n)

/-- Writes bytes of a tile store; a correction of a codeword written is no longer to be written back, and the codewords written whole
have their check bits anew (R132). -/
def State.tsWrite (s : State) (tile a : Nat) (v : List Byte) : State :=
  { s with tstore := Map.setAll s.tstore 0 (tsKey tile a) v, tfixed := s.tfixed.filter (fixStays (tsKey tile a) v.length),
           terr := (s.terr.map (fun x => (x.1, errorsLeft (tsKey tile a) v.length x.1 x.2))).filter (fun x => x.2 != []) }

/-- Stores bytes in a tile store (R133): a line wholly written takes the data's poison, a line partly written stays
poisoned or becomes so. -/
def State.tsPut (s : State) (tile a : Nat) (v : List Byte) (poisoned : Bool) : State :=
  let s := s.tsWrite tile a v
  let k := tsKey tile a
  let s := { s with tpoison := s.tpoison.filter (fun l => !(k ≤ 64 * l && 64 * l + 64 ≤ k + v.length)) }
  if poisoned then
    { s with tpoison := (List.range ((k % 64 + v.length + 63) / 64)).foldl (fun p i => addIdx p (k / 64 + i)) s.tpoison }
  else s

/-- Lines of a tile store are 64 bytes (R132). -/
def State.tsBad (s : State) (tile a n : Nat) : Bool :=
  (List.range ((a % 64 + n + 63) / 64)).any (fun i => s.tpoison.contains (tsKey tile a / 64 + i))

def State.tsPoison (s : State) (tile a : Nat) (b : Bool) : State :=
  { s with tpoison := putIdx s.tpoison (tsKey tile a / 64) b,
           terr := if b then s.terr.erase (tsKey tile a / 64) else s.terr }

/-- The host memory behind port or half `q`, as an index. -/
def hostKey (q a : Nat) : Nat := 2 ^ 64 * q + a

def State.hostRead (s : State) (q a n : Nat) : List Byte := Map.getAll s.hostMem 0 (hostKey q a) n

def State.hostWrite (s : State) (q a : Nat) (v : List Byte) : State :=
  { s with hostMem := Map.setAll s.hostMem 0 (hostKey q a) v }

/-! ## Limits (R307, R416, R439) -/

/-- The default of a limit field. P_CAP's is the TDP of the variant. -/
def limitDefault (v : Variant) (id : Nat) : Nat :=
  match id with
  | 0x01 => v.tdp
  | 0x02 => 1650
  | 0x03 => 95
  | 0x04 => 110
  | 0x05 => 95
  | 0x06 => 1
  | 0x10 => 32
  | 0x11 => 10000
  | 0x12 => 32
  | 0x13 => 1
  | 0x14 => 65536
  | 0x15 => 256
  | 0x16 => 105
  | 0x17 => 50
  | 0x20 => 100
  | 0x21 => 2000
  | 0x22 => 1024
  | 0x23 => 64
  | 0x24 => 8
  | 0x25 => 1000
  | 0x26 => 8
  | 0x27 => 1000
  | 0x28 => 100
  | _ => 0

/-- The range of a limit field; none for an ID that names no field. -/
def limitRange (v : Variant) (id : Nat) : Option (Nat × Nat) :=
  match id with
  | 0x01 => some (2000, v.tdp)
  | 0x02 => some (800, 1650)
  | 0x03 => some (70, 115)
  | 0x04 => some (80, 120)
  | 0x05 => some (85, 100)
  | 0x06 => some (0, 1)
  | 0x10 => some (1, 1024)
  | 0x11 => some (256, 2 ^ 24)
  | 0x12 => some (1, 1024)
  | 0x13 => some (1, 15)
  | 0x14 => some (256, 2 ^ 24)
  | 0x15 => some (16, 65536)
  | 0x16 => some (85, 125)
  | 0x17 => some (1, 1000)
  | 0x20 => some (10, 1000000)
  | 0x21 => some (250, 100000)
  | 0x22 => some (256, 8192)
  | 0x23 => some (1, 10000)
  | 0x24 => some (1, 255)
  | 0x25 => some (10, 1000000)
  | 0x26 => some (1, 255)
  | 0x27 => some (10, 1000000)
  | 0x28 => some (10, 10000)
  | _ => none

/-- The value in force: `limits` lists the fields that are not at their defaults, as value plus one. -/
def State.limit (s : State) (id : Nat) : Nat :=
  match s.keeper.limits.get 0 id with
  | 0 => limitDefault s.variant id
  | v + 1 => v

/-! ## Fault codes and severities (R516) -/

abbrev cMalformedBar : Nat := 0x0100
abbrev cMalformedStep : Nat := 0x0101
abbrev cFetchHalted : Nat := 0x0102
abbrev cTokenSaturated : Nat := 0x0103
abbrev cCreditOverflow : Nat := 0x0104
abbrev cEpochMismatch : Nat := 0x0105
abbrev cUnitAbsent : Nat := 0x0106
abbrev cFormatMismatch : Nat := 0x0110
abbrev cNoWeights : Nat := 0x0111
abbrev cAccEmpty : Nat := 0x0112
abbrev cVerdictFailed : Nat := 0x0113
abbrev cColumnSpared : Nat := 0x0114
abbrev cVuCorrected : Nat := 0x0115
abbrev cVuCheck : Nat := 0x0116
abbrev cTsCorrected : Nat := 0x0117
abbrev cTsUncorrectable : Nat := 0x0118
abbrev cDescInvalid : Nat := 0x0120
abbrev cDescWait : Nat := 0x0121
abbrev cFloorExceeded : Nat := 0x0122
abbrev cStreamHalted : Nat := 0x0123
abbrev cStreamStalled : Nat := 0x0124
abbrev cRingUnderflow : Nat := 0x0125
abbrev cAccEmptyRead : Nat := 0x0126
abbrev cSyncOverflow : Nat := 0x0130
abbrev cSyncDenied : Nat := 0x0131
abbrev cSyncTreeIdle : Nat := 0x0132
abbrev cRemoteSyncDenied : Nat := 0x0133
abbrev cWorkInvalid : Nat := 0x0140
abbrev cWorkWait : Nat := 0x0141
abbrev cNotLocal : Nat := 0x0142
abbrev cMseHalted : Nat := 0x0143
abbrev cMseCorrected : Nat := 0x0144
abbrev cMseCheck : Nat := 0x0145
abbrev cMsePoison : Nat := 0x0146
abbrev cEccCorrected : Nat := 0x0150
abbrev cPcFrozenEvent : Nat := 0x0151
abbrev cPcRetireAdvised : Nat := 0x0152
abbrev cPcRetired : Nat := 0x0153
abbrev cThrottled : Nat := 0x0154
abbrev cRetrainDone : Nat := 0x0155
abbrev cRefreshDoubled : Nat := 0x0156
abbrev cNetCrc : Nat := 0x0160
abbrev cNetLinkDegraded : Nat := 0x0161
abbrev cVerdictPoisoned : Nat := 0x0170
abbrev cVerdictTimeout : Nat := 0x0171
abbrev cSuspectRelease : Nat := 0x0172
abbrev cHealthChanged : Nat := 0x0173
abbrev cTileSpared : Nat := 0x0174
abbrev cSeSpared : Nat := 0x0175
abbrev cWalkFailed : Nat := 0x0176
abbrev cGwError : Nat := 0x0180
abbrev cPersLoaded : Nat := 0x0190
abbrev cPersRefused : Nat := 0x0191
abbrev cPersAborted : Nat := 0x0192
abbrev cBootSlotFailed : Nat := 0x0193
abbrev cBootFailed : Nat := 0x0194
abbrev cRepairMapLost : Nat := 0x01A0
abbrev cResetStorm : Nat := 0x01A1
abbrev cCoreReset : Nat := 0x01A2
abbrev cBlockReset : Nat := 0x01A3
abbrev cPllUnlock : Nat := 0x01B0
abbrev cRailFault : Nat := 0x01B1
abbrev cPowerCapped : Nat := 0x01B2
abbrev cThermalThrottle : Nat := 0x01B3
abbrev cHotAsserted : Nat := 0x01B4
abbrev cCapUnmet : Nat := 0x01B5
abbrev cThermTrip : Nat := 0x01B6
abbrev cChannelError : Nat := 0x01C0
abbrev cEventsDropped : Nat := 0x01C1
abbrev cZlRetry : Nat := 0x01D0
abbrev cZlStalled : Nat := 0x01D1
abbrev cZlPeerMismatch : Nat := 0x01D2
abbrev cZlUnreachable : Nat := 0x01D3
abbrev cZlAdoptRefused : Nat := 0x01D4
abbrev cZlLaneSpared : Nat := 0x01D5
abbrev cZlLinkDown : Nat := 0x01D6
abbrev cPtnState : Nat := 0x01E0
abbrev cPtnSidebandLost : Nat := 0x01E1
abbrev cPtnPairMismatch : Nat := 0x01E2
abbrev cPtnSevered : Nat := 0x01E3
abbrev cPtnTakenOver : Nat := 0x01E4
abbrev cTamper : Nat := 0x01F0
abbrev cFwReverted : Nat := 0x01F1
abbrev cFuseFail : Nat := 0x01F2
abbrev cKeeperRestart : Nat := 0x01F3

/-- The severity R516 gives a code; the first one where it gives two. -/
def sevOf (code : Nat) : Nat :=
  match code with
  | 0x0102 | 0x0121 | 0x0123 | 0x0141 | 0x0143 | 0x0171 => 3
  | 0x0100 | 0x0101 | 0x0103 | 0x0104 | 0x0105 | 0x0106
  | 0x0110 | 0x0111 | 0x0112 | 0x0116 | 0x0118
  | 0x0120 | 0x0122 | 0x0125 | 0x0126
  | 0x0130 | 0x0131 | 0x0132 | 0x0140 | 0x0142 | 0x0145 | 0x0146 => 4
  | 0x0113 | 0x0115 | 0x0144 | 0x0151 | 0x0173 | 0x0176 | 0x01D6 => 2
  | 0x0117 | 0x0150 | 0x0180 | 0x01B2 | 0x01B3 | 0x01D0 => 0
  | 0x0194 | 0x01A0 | 0x01A1 | 0x01A2 | 0x01B0 | 0x01B1 | 0x01B6
  | 0x01E2 | 0x01E3 | 0x01E4 | 0x01F0 | 0x01F2 | 0x01F3 => 5
  | _ => 1

/-! ## Health indices, in the order of QUERY item 0x07 (R441) -/

/-- The place of a unit in the health sequence, by CLASS and UNIT; none for a class without a health state. -/
def healthIdx (cls unit : Nat) : Option Nat :=
  match cls with
  | 0 => some unit
  | 1 => some (512 + unit)
  | 2 => some (2560 + unit)
  | 3 => some (3072 + unit)
  | 5 => some (3328 + unit)
  | 6 => some (3424 + unit)
  | 7 => some (4192 + unit)
  | 13 => some (4480 + unit)
  | _ => none

def HealthState.code : HealthState → Nat
  | .probation => 0
  | .healthy => 1
  | .observed => 2
  | .retired => 3

/-! ## Sensors (R409) -/

/-- The tier die over a tile (R10). -/
def tierOf (tile : Nat) : Nat := tile / 128 * 8 + tile % 32 / 4

/-- A tile's place among the 16 positions of its tier die. -/
def tierPlace (tile : Nat) : Nat := tile / 32 % 4 * 4 + tile % 4

/-- The sensor of a tile: its physical tile's, position j served by physical tile j and the k-th spare by 16 + k. -/
def State.tileSensor (s : State) (tile : Nat) : Nat :=
  18 * tierOf tile + (match (s.tserv.get {} tile).spare with
    | none => tierPlace tile
    | some k => 16 + k)

/-- The stream engine whose pair holds a tile (R155). -/
def pairSe (tile : Nat) : Nat := tile / 64 * 32 + tile % 32

/-- The sensor nearest a unit of a record, by CLASS and UNIT (the numbers are the model's reading of R409's places). -/
def State.nearest (s : State) (cls unit : Nat) : Nat :=
  match cls with
  | 0 => s.tileSensor unit
  | 1 => s.tileSensor (unit / 4)
  | 2 => s.tileSensor unit
  | 3 => 576 + unit
  | 4 => 832 + 8 * unit
  | 5 => 832 + unit
  | 6 => 832 + unit / 8
  | 7 => 928 + 4 * (unit / 18) + unit % 18 / 5
  | 8 => 576 + 111
  | 10 => 992 + 8 * (unit % 2)
  | 12 => 1012 + unit % 12
  | 13 => 992 + 8 * (unit / 8 % 2)
  | 14 => 576 + pairSe unit
  | _ => 1008

/-- The supply, in mV, at a sensor: the tier's set point, or the nominal voltage of the place (R401, R405). -/
def State.supply (s : State) (sensor : Nat) : Nat :=
  if sensor < 576 then (s.dom (sensor / 18)).mv
  else if sensor < 832 then 750
  else if sensor < 928 then 950
  else if sensor < 1008 then 800
  else if sensor < 1012 then 850
  else 800

/-! ## Statistics (R277) -/

/-- CK_NET cycles in a number of CK_MGT cycles: 2.4 GHz over 300 MHz. -/
def netCycles (ticks : Nat) : Nat := 8 * ticks

/-- The histogram bin of a latency in CK_NET cycles (R277). -/
def latencyBin (n : Nat) : Nat := if n < 16 then 0 else min (Nat.log2 n - 3) 15

/-- An initiator injects a request, with the payload bytes it carries (R277). -/
def State.countReq (s : State) (init sub seq bytes : Nat) : State :=
  let c := s.count init
  let s := s.setCount init { c with reqs := satAdd 48 c.reqs 1, bytes := satAdd 48 c.bytes bytes }
  { s with waits := s.waits ++ [(init, sub, seq, s.ltc.toNat)] }

/-- The answer to a request arrives, with the payload bytes it brings: its latency is counted (R277). -/
def State.countResp (s : State) (init sub seq bytes : Nat) : State :=
  let mine (w : Nat × Nat × Nat × Nat) : Bool := w.1 == init && w.2.1 == sub && w.2.2.1 == seq
  match s.waits.find? mine with
  | none => s
  | some w =>
    let lat := netCycles (s.ltc.toNat - w.2.2.2)
    let c := s.count init
    let bin := latencyBin lat
    let s := s.setCount init { c with
      bytes := satAdd 48 c.bytes bytes, maxLat := max c.maxLat (min lat (2 ^ 32 - 1)),
      hist := c.hist.set 0 bin (satAdd 32 (c.hist.get 0 bin) 1) }
    { s with waits := remFirst mine s.waits }

/-- An initiator injects `n` REQ packets that bring no payload and no answer of their own (R266, R277). -/
def State.injected (s : State) (init n : Nat) : State :=
  let c := s.count init
  s.setCount init { c with reqs := satAdd 48 c.reqs n }

/-- The initiator that sends the RECORD packet of a unit of a class (R266, R276, R313). -/
def recInit (cls unit : Nat) : Option Nat :=
  match cls with
  | 0 => some (unit % 512)
  | 1 => some (unit / 4 % 512)
  | 2 => some (unit % 512)
  | 3 => some (0x200 + unit % 256)
  | 4 => some (0x330 + unit % 12)
  | 5 => some (0x330 + unit / 8 % 12)
  | 6 => some (0x3A0 + unit / 64 % 12)
  | 7 => some (0x360 + unit / 18 % 16)
  | 8 => some (0x340 + unit % 8)
  | 10 => some (0x370 + unit % 2)
  | 13 => some (0x372 + unit / 8 % 2)
  | _ => none

/-! ## Records: the log, the alert and the rings (R312–R316, R430, R513, R514, R549) -/

/-- ALERT_STATUS bits that the device sets in this CK_MGT cycle (R5). -/
def State.markAlert (s : State) (a : BitVec 7) : State := (onesOf a.toNat 7).foldl (fun s b => s.mark 4 b) s

/-- ALERT_N from ALERT_STATUS and ALERT_MASK; on its fall an in-band interrupt 0x02 where MGMT_CFG asks (R507, R513). From a
power-on or system reset until stage 1 of global release, when the output drivers turn on, the pin is released (R384). -/
def State.setAlert (s : State) (a : BitVec 7) : State :=
  let on := (a &&& (s.keeper.mask ++ 1#1)) != 0 && s.pins.outputs
  let k := { s.keeper with alert := a }
  let k := if on && s.pins.alertN && bitOf k.cfg 0 && !bitOf k.i3c.disabled 0
    then { k with i3c := { k.i3c with ibi := k.i3c.ibi ++ [0x02] } } else k
  { s with keeper := k, pins := { s.pins with alertN := !on } }

/-- The device sets ALERT_STATUS bits. -/
def State.alertOn (s : State) (a : BitVec 7) : State := (s.markAlert a).setAlert (s.keeper.alert ||| a)

/-- The ALERT_STATUS bits a logged record sets (R513). -/
def alertBits (r : Rec) : BitVec 7 :=
  (if r.sev = 5 then 1#7 else 0) ||| (if r.sev = 2 then 2#7 else 0) ||| (if r.sev = 4 then 4#7 else 0)
    ||| (if r.code = cFwReverted || r.code = cKeeperRestart then 64#7 else 0)
    ||| (if r.code = cCapUnmet then 32#7 else 0)

/-- A record into the fault log (R514). -/
def State.logRec (s : State) (r : Rec) : State :=
  let k := s.keeper
  let k := { k with general := k.general.set {} (k.nextGen % 520192) r, nextGen := (k.nextGen + 1) % 2 ^ 40 }
  let k := if r.sev = 5 then
      { k with device := k.device.set {} (k.nextDev % 4096) r, nextDev := (k.nextDev + 1) % 2 ^ 24 }
    else k
  let s := { s with keeper := k }
  s.alertOn (alertBits r)

/-- EQ_LOG2 of a channel, from its channel-table entry; of the admin ring of function q, from ADMIN_EQ (R423, R424). -/
def State.eqLog2 (s : State) (c : Nat) : Nat :=
  if 4096 ≤ c then
    let n := fld (s.fn (64 * (c - 4096))).adminEq 0 5
    if 4 ≤ n && n ≤ 16 then n else 0
  else field (s.chan c).entry 0x2A 1

/-- Whether a channel is bound to ensemble `e` (R34, R424). -/
def State.boundTo (s : State) (e c : Nat) : Bool :=
  let v := s.chan c
  v.enabled && v.entry != [] && bit (field v.entry 0 4) 7 && bits (field v.entry 0 4) 8 3 == e

/-- The channels bound to an ensemble, in ascending order. -/
def State.boundChans (s : State) (e : Nat) : List Nat :=
  (s.chans.map Prod.fst).filter (fun c => c < 4096 && s.boundTo e c)

/-- The event rings a record is offered to (R316, R430): those of the channels bound to its ensemble, and the admin
event ring of every physical function that has one where there is no ensemble. -/
def State.ringsFor (s : State) (ens : Nat) : List Nat :=
  if ens < 8 then (s.boundChans ens).filter (fun c => s.eqLog2 c != 0)
  else [4096, 4097, 4098, 4099].filter (fun c => s.eqLog2 c != 0)

/-- How many undelivered records the keeper holds (R430). -/
def State.held (s : State) : Nat := (s.chans.map (fun p => p.2.events.length)).sum

/-- A record offered to one ring; COUNTED and LOGGED records are dropped, and counted, once 8,192 are held (R430). -/
def State.offer (s : State) (c : Nat) (r : Rec) : State :=
  let v := s.chan c
  if s.held < 8192 || 2 ≤ r.sev then s.setChan c { v with events := v.events ++ [r] }
  else s.setChan c { v with dropped := v.dropped + 1 }

/-- A record logged, then offered to every ring it goes to (R316). -/
def State.emit (s : State) (r : Rec) : State :=
  let s := s.logRec r
  (s.ringsFor r.ens).foldl (fun s c => s.offer c r) s

/-- An event of a COUNTED code: the first of a period makes a record, the others are counted (R549). -/
def State.fold (s : State) (r : Rec) : State :=
  let k := s.keeper
  if k.folds.any (fun f => f.1 == r.cls && f.2.1 == r.unit && f.2.2.1 == r.code) then
    let folds := modFirst (fun f => f.1 == r.cls && f.2.1 == r.unit && f.2.2.1 == r.code)
      (fun f => (f.1, f.2.1, f.2.2.1, { count := min (f.2.2.2.count + 1) (2 ^ 24 - 1), last := r })) k.folds
    { s with keeper := { k with folds := folds } }
  else
    let s := { s with keeper := { k with folds := k.folds ++ [(r.cls, r.unit, r.code, ({} : Fold))] } }
    s.emit { r with detail := r.detail % 256 + 256 }

/-- The ensemble a unit and bank belong to; 8 for none (R33, R463). -/
def State.ensOf (s : State) (ub : Nat) : Nat :=
  ((List.range 8).find? (fun e => let x := s.en e
    x.st != .idle && x.members.getLsbD (unitOf ub) && x.bank == bankOf ub)).getD 8

/-- The unit number of the unit that a record is about, where it has steps (R28, R313). -/
def recUnit (cls unit : Nat) : Option Nat :=
  match cls with
  | 0 => some unit
  | 1 => some (unit / 4)
  | 2 => some unit
  | 3 => some (512 + unit)
  | 4 => some (768 + unit)
  | _ => none

/-- The bank of a unit that a record of it speaks of: the one that fired last, unless only the other is in an ensemble. -/
def State.recBank (s : State) (u : Nat) : Nat :=
  let ub := u + 1024 * s.lastBank.get 0 u
  let other := u + 1024 * (1 - s.lastBank.get 0 u)
  if s.ensOf ub = 8 && s.ensOf other < 8 then other else ub

/-- ENSEMBLE and EPOCH of a record about a unit that names no step: the ensemble it belongs to and its mode epoch (R312). -/
def State.place? (s : State) (r : Rec) : Rec :=
  match recUnit r.cls r.unit with
  | none => r
  | some u =>
    let ub := if r.ens < 8 then u + 1024 * (s.en r.ens).bank else s.recBank u
    if r.opcode = 0xFF then { r with ens := if r.ens < 8 then r.ens else s.ensOf ub, epoch := (s.bk ub).epoch.toNat } else r

/-- The fields every record takes from the part as it is detected: time, device, sensor, temperature, voltage, the health state of
its unit, and the ensemble and epoch of the unit where it names no step (R312, R315). -/
def State.dress (s : State) (r : Rec) : Rec :=
  let r := s.place? r
  let h := match healthIdx r.cls r.unit with
    | none => 0
    | some i => (s.hl i).st.code
  let n := s.nearest r.cls r.unit
  let r := if r.changed then r else { r with before := h, after := h }
  { r with ltc := s.ltc.toNat, device := s.devId.toNat, sensor := n, temp := s.gov.temps.get 0 n, volt := s.supply n }

/-- Raises a record, which the unit it is about sends to the keeper as a packet (R277): COUNTED codes are folded, all others logged
and offered at once. -/
def State.raise (s : State) (r : Rec) : State :=
  let s := match recInit r.cls r.unit with
    | some i => s.injected i 1
    | none => s
  let r := s.dress r
  if r.sev = 0 then s.fold r else s.emit r

/-- A record of a code about a unit, at the code's own severity. -/
def recOf (code cls unit : Nat) : Rec := { code := code, cls := cls, unit := unit, sev := sevOf code }

/-- A record about a step of a unit (R66, R312). -/
def recStep (code : Nat) (ub : Nat) (q : QStep) (epoch : Byte) : Rec :=
  { recOf code (unitClass (unitOf ub)).1 (unitClass (unitOf ub)).2 with
    bar := q.bar, slot := q.slot, opcode := fld q.word 120 8, ens := q.ens, epoch := epoch.toNat }

/-! ## Health (R302–R306) -/

/-- Sets a unit's health state and raises HEALTH_CHANGED with the states before and after. The counts restart. -/
def State.setHealth (s : State) (cls unit : Nat) (st : HealthState) (detail : Nat := 0) : State :=
  match healthIdx cls unit with
  | none => s
  | some i =>
    let h := s.hl i
    if h.st = st then s
    else
      let s := s.setHl i { st := st, since := h.since, walked := h.walked }
      s.raise { recOf cHealthChanged cls unit with before := h.st.code, after := st.code, changed := true, detail := detail }

/-- A retired tile's position awaits its sparing point, with the next unused spare of its tier die promised to it; spares go in the
order of retirement, and a position that finds none goes unserved (R308, R310). -/
def State.awaitTile (s : State) (t : Nat) : State :=
  let v := s.tserv.get {} t
  let used := s.tspares.get 0 (tierOf t)
  if v.awaiting || v.unserved then s
  else if 2 ≤ used then { s with tserv := s.tserv.set {} t { v with awaiting := true, next := none } }
  else { s with tserv := s.tserv.set {} t { v with awaiting := true, next := some used },
                tspares := s.tspares.set 0 (tierOf t) (used + 1) }

/-- A retired stream engine's position likewise, with the spares of its row pair (R311). -/
def State.awaitSe (s : State) (n : Nat) : State :=
  let v := s.sserv.get {} n
  let used := s.sspares.get 0 (n / 32)
  if v.awaiting || v.unserved then s
  else if 2 ≤ used then { s with sserv := s.sserv.set {} n { v with awaiting := true, next := none } }
  else { s with sserv := s.sserv.set {} n { v with awaiting := true, next := some used },
                sspares := s.sspares.set 0 (n / 32) (used + 1) }

/-- What follows a unit's retirement (R306): an array or vector unit retires its tile, a tile or stream engine awaits
its sparing point. HEALTH_CHANGED names in DETAIL[0] a column sparing that the tile's retirement abandons (R24). -/
def State.retired (s : State) (cls unit : Nat) : State :=
  let s := s.setHealth cls unit .retired
  match cls with
  | 0 => s.awaitTile unit
  | 1 | 2 =>
    let t := if cls = 1 then unit / 4 else unit
    let s := s.setHealth 0 t .retired (flag (s.tserv.get {} t).dropped)
    s.awaitTile t
  | 3 => s.awaitSe unit
  | _ => s

/-- A health event of a unit (R302): it restarts every count; PROBATION or HEALTHY become OBSERVED; the last event that
OBSERVED_EVENTS allows retires the unit, except a pseudo-channel, which raises PC_RETIRE_ADVISED instead (R258). -/
def State.healthEvent (s : State) (cls unit : Nat) : State :=
  match healthIdx cls unit with
  | none => s
  | some i =>
    let h := s.hl i
    match h.st with
    | .probation => s.setHealth cls unit .observed
    | .healthy => s.setHealth cls unit .observed
    | .observed =>
      let s := s.setHl i { h with walks := 0, passes := 0, beats := 0, events := h.events + 1 }
      if h.events + 1 < s.limit 0x13 then s
      else if cls = 6 then s.raise (recOf cPcRetireAdvised cls unit)
      else s.retired cls unit
    | .retired => s

/-- Clean walk-throughs of a unit: a pseudo-channel or link lane has one for each 16,384 beats in service (R296). -/
def Health.walksOf (h : Health) (cls : Nat) : Nat := if cls = 6 || cls = 7 || cls = 13 then h.beats / 16384 else h.walks

/-- Clean passes of a unit: tiles and arrays run passes, every other unit counts one for each 64 beats (R296). -/
def Health.passesOf (h : Health) (cls : Nat) : Nat := if cls ≤ 1 then h.passes else h.beats / 64

/-- A unit's count of clean walk-throughs or passes reaching its limit makes it HEALTHY (R302). -/
def State.settle (s : State) (cls unit : Nat) : State :=
  match healthIdx cls unit with
  | none => s
  | some i =>
    let h := s.hl i
    match h.st with
    | .probation => if s.limit 0x10 ≤ h.walksOf cls then s.setHealth cls unit .healthy else s
    | .observed =>
      if s.limit 0x11 ≤ h.passesOf cls && s.limit 0x12 ≤ h.walksOf cls then s.setHealth cls unit .healthy else s
    | _ => s

/-- Whether a tile runs under observation: any of itself, its arrays and its vector unit not HEALTHY (R303). -/
def State.observed (s : State) (tile : Nat) : Bool :=
  (s.hl tile).st != .healthy || (s.hl (2560 + tile)).st != .healthy
    || [0, 1, 2, 3].any (fun a => (s.hl (512 + 4 * tile + a)).st != .healthy)

/-! ## Completions (R428, R429, R436, R437) -/

abbrev stOk : Nat := 0
abbrev stMalformed : Nat := 1
abbrev stDenied : Nat := 2
abbrev stBusy : Nat := 3
abbrev stNotIdle : Nat := 4
abbrev stUnserved : Nat := 5
abbrev stConflict : Nat := 6
abbrev stNotHalted : Nat := 7
abbrev stNotFrozen : Nat := 8
abbrev stNoRefuge : Nat := 9
abbrev stNotInstalled : Nat := 10
abbrev stNotActive : Nat := 11
abbrev stSuperseded : Nat := 12
abbrev stLoadFailed : Nat := 13
abbrev stFaulted : Nat := 14
abbrev stCancelled : Nat := 15
abbrev stHostErr : Nat := 16
abbrev stPageFault : Nat := 17
abbrev stPcFrozen : Nat := 18
abbrev stRange : Nat := 19
abbrev stNotServing : Nat := 20

/-- Whether the host ports, the configuration slave port and I3C respond: outside resets and the option-load phase (R385,
R503). -/
def State.portsUp (s : State) : Bool := s.rst.level == .none && !s.rst.loading && !s.rst.pllLost

/-- Whether the keeper acts: outside resets and the option-load phase; on REFCLK too, while the root PLL is out of lock (R398, R410,
R503). -/
def State.watched (s : State) : Bool := s.rst.level == .none && !s.rst.loading

/-- Whether a block's reset waits for the block to go idle. -/
def State.resetting (s : State) (cls index : Nat) : Bool := s.rst.waits.any (fun w => w.block == { cls := cls, index := index })

/-- Whether a port or half answers: its link is up, and it is not being reset (R391). -/
def State.portHere (s : State) (q : Nat) : Bool := (s.port q).up && !s.resetting 4 q

/-- The function number of a channel: 64 × port or half, plus FUNC of its entry (R421, R424). -/
def State.chanFn (s : State) (c : Nat) : Nat :=
  if 4096 ≤ c then 64 * (c - 4096)
  else
    let port := c / 2048
    let half := if bitOf s.keeper.splitNow port then c / 1024 % 2 else 0
    64 * (2 * port + half) + bits (field (s.chan c).entry 0 4) 1 6

/-- The port or half of a channel. -/
def State.chanPort (s : State) (c : Nat) : Nat := s.chanFn c / 64

/-- Whether the device may begin a command now: descriptors of a channel begin in ring order, so one that was fetched is the
oldest not begun; a FENCE waits for every earlier descriptor to complete (R428). Nothing begins while the host ports do not
respond, or the channel's own is absent (R385, R391). -/
def State.mayBegin (s : State) (h : Issuer) : Bool :=
  let v := s.chan h.chan
  let mine (d : List Byte) : Bool := field d 4 4 == h.tag.toNat
  s.portsUp && s.portHere (s.chanPort h.chan) && (!v.fetched.any mine || (v.fetched.take 1).any mine) && (!h.fence || v.inflight == [])

/-- A command begun: its descriptor, where one was fetched, leaves the fetched ones, and its tag is in flight (R428). -/
def State.begin (s : State) (h : Issuer) : State :=
  let v := s.chan h.chan
  let fetched := remFirst (fun d => field d 4 4 == h.tag.toNat) v.fetched
  s.setChan h.chan { v with fetched := fetched, inflight := v.inflight ++ [h.tag] }

/-- Adds a completion to a channel. -/
def State.addCompl (s : State) (c : Nat) (x : Compl) : State :=
  let v := s.chan c
  s.setChan c { v with compls := v.compls ++ [x] }

/-- The completion of a command of a channel: none for OK with QUIET (R428), and none for a command the channel no longer
holds, a reset having discarded it (R394). -/
def State.post (s : State) (h : Issuer) (op st : Nat) (result : BitVec 128) (detail : W32) : State :=
  let v := s.chan h.chan
  if !v.inflight.contains h.tag then s
  else
    let s := s.setChan h.chan { v with inflight := dropFirst v.inflight h.tag }
    if h.quiet && st == stOk then s
    else s.addCompl h.chan { tag := h.tag, opcode := op, status := st, result := result, detail := detail, irq := h.irq }

/-- A channel being disabled is done once it has no descriptor fetched, none in flight and no completion to write: its
cached entry is dropped and its DISABLE completes (R425). -/
def State.endDisable (s : State) (c : Nat) : State :=
  let v := s.chan c
  match v.disabler with
  | none => s
  | some h =>
    if v.fetched.isEmpty && v.inflight.isEmpty && v.compls.isEmpty then
      (s.setChan c { v with disabler := none, entry := [], cached := false }).post h 0x12 stOk 0 0
    else s

/-- A command completes (R428, R429). -/
def State.complete (s : State) (h : Issuer) (op st : Nat) (result : BitVec 128 := 0) (detail : W32 := 0) : State :=
  (s.post h op st result detail).endDisable h.chan

/-! ## Management responses (R505, R506) -/

def State.mport (s : State) (p : MPort) : MPortState :=
  match p with
  | .i3c => s.keeper.i3cPort
  | .csp => s.keeper.cspPort

def State.setMport (s : State) (p : MPort) (v : MPortState) : State :=
  match p with
  | .i3c => { s with keeper := { s.keeper with i3cPort := v } }
  | .csp => { s with keeper := { s.keeper with cspPort := v } }

/-- Whether the keeper's cores run: not after a second lockstep mismatch, and not while a debugger halts them (R504, R520). -/
def State.keeperRuns (s : State) : Bool := !s.keeper.stopped && !s.dbg.halted

/-- An in-band interrupt of the I3C target, unless the controller has disabled interrupts (R507). -/
def State.inBand (s : State) (byte : Byte) : State :=
  if bitOf s.keeper.i3c.disabled 0 then s
  else { s with keeper := { s.keeper with i3c := { s.keeper.i3c with ibi := s.keeper.i3c.ibi ++ [byte] } } }

/-- A response frame (R505). -/
def responseFrame (op seq status : Nat) (payload : List Byte) : List Byte :=
  let l := leBytes 1 op ++ leBytes 1 seq ++ leBytes 2 status ++ leBytes 2 payload.length ++ leBytes 2 0 ++ payload
  l ++ leBytes 4 (crc32c l)

/-- A response becomes ready on a port; on I3C an in-band interrupt says so where MGMT_CFG asks (R507, R513). -/
def State.respond (s : State) (p : MPort) (op seq status : Nat) (payload : List Byte := []) (busy : Bool := false) : State :=
  let s := s.setMport p { busy := busy, resp := some (responseFrame op seq status payload) }
  if p = .i3c && bitOf s.keeper.cfg 1 then s.inBand 0x01 else s

/-! ## Traces (R520, R521) -/

/-- The last 256 entries of a trace with one more. -/
def traceWith (l : List Trace) (t : Trace) : List Trace := (l ++ [t]).drop (l.length + 1 - 256)

/-- A fired step in its unit's trace, unless the traces are frozen. -/
def State.traceStep (s : State) (unit : Nat) (q : QStep) : State :=
  if s.dbg.frozen then s
  else
    let t : Trace := { ens := q.ens, bar := q.bar, slot := q.slot, opcode := fld q.word 120 8, ltc := s.ltc.toNat }
    { s with dbg := { s.dbg with traces := s.dbg.traces.set [] unit (traceWith (s.dbg.traces.get [] unit) t) } }

/-- A dealt bar in the Caller's trace. -/
def State.traceBar (s : State) (e bar : Nat) : State :=
  if s.dbg.frozen then s
  else { s with dbg := { s.dbg with bars := traceWith s.dbg.bars { ens := e, bar := bar, ltc := s.ltc.toNat } } }

/-! ## Thermal trips (R378, R415) -/

/-- The trip point of a sensor in 1/16 °C: 125 °C of a logic sensor, 105 °C of a DRAM die (numbers from 1,024 on). -/
def tripPoint (n : Nat) : Int := if n < 1024 then 16 * 125 else 16 * 105

/-- A thermal trip ends once every sensor reads 15 °C below its trip point; what it latched is kept for its record. -/
def State.endTrip (s : State) : State :=
  if s.rst.tripped.isSome && s.gov.temps.all (fun (x : Nat × Int) => x.2 < tripPoint x.1 - 240) then
    { s with rst := { s.rst with tripped := none, tripWas := s.rst.tripped }, pins := { s.pins with thermTripN := true } }
  else s

/-! ## Block resets in progress (R391) -/

/-- Whether a unit answers: served, and not being reset (R33, R391). -/
def State.unitHere (s : State) (u : Nat) : Bool :=
  s.unitServed u && !(match unitKind u with
    | .tile => s.resetting 0 u
    | .stream => s.resetting 1 (u - 512)
    | _ => false)

/-- Answers the one who asked for a block reset. -/
def State.answerReset (s : State) (w : BlockWait) (st detail : Nat) : State :=
  let s := match w.issuer with
    | some h => s.complete h 0x10 st 0 (BitVec.ofNat 32 detail)
    | none => s
  match w.port with
  | some (p, seq) => s.respond p 0x05 seq.toNat st (if st = stOk then leBytes 4 detail else [])
  | none => s

/-- Abandons the reset of a block that waits: whoever asked is answered SUPERSEDED (R391). -/
def State.supersede (s : State) (cls index : Nat) : State :=
  let mine (w : BlockWait) : Bool := w.block == { cls := cls, index := index }
  match s.rst.waits.find? mine with
  | none => s
  | some w => { s with rst := { s.rst with waits := remFirst mine s.rst.waits } }.answerReset w stSuperseded 0

/-- Whether a channel belongs to a virtual function. -/
def State.isVf (s : State) (c : Nat) : Bool := s.chanFn c % 64 != 0

/-- Whether a virtual function has a channel bound to ensemble `e` (R426). -/
def State.vfOwns (s : State) (c e : Nat) : Bool :=
  (s.boundChans e).any (fun d => s.chanFn d == s.chanFn c)

/-! ## Ensembles -/

/-- Whether unit `u` belongs to an ensemble's members. -/
def Ens.has (x : Ens) (u : Nat) : Bool := x.members.getLsbD u

/-- The members of an ensemble, ascending. -/
def Ens.units (x : Ens) : List Nat := (List.range 780).filter x.has

/-- The members of an ensemble with its shard bank. -/
def Ens.ubs (x : Ens) : List Nat := x.units.map (fun u => u + 1024 * x.bank)

/-- The domain of a unit: its tier die, or its memory-side engine (R405). -/
def unitDomain (u : Nat) : Option Nat :=
  match unitKind u with
  | .tile => some (tierOf u)
  | .memory => some (32 + (u - 768))
  | _ => none

/-- The domains that hold a member of ensemble `e`. -/
def State.ensDomains (s : State) (e : Nat) : List Nat :=
  if (s.en e).st = .idle then [] else ((s.en e).units.filterMap unitDomain).dedup

/-- Whether the ensemble of a unit and bank is RUNNING. -/
def State.runs (s : State) (ub : Nat) : Bool :=
  let e := s.ensOf ub
  e < 8 && (s.en e).st == .running && !s.rst.pllLost

/-- The completions an ensemble posts as it leaves RUNNING (R437): the START that began it, and an unsolicited one on
every other channel bound to it. -/
def State.leaveRunning (s : State) (e st : Nat) (result : BitVec 128) (detail : W32) : State :=
  let x := s.en e
  let s := s.setEn e { x with starter := none }
  let s := match x.starter with
    | none => s
    | some h => s.complete h 0x04 st result detail
  let mine := match x.starter with | none => [] | some h => [h.chan]
  ((s.boundChans e).filter (fun c => !mine.contains c)).foldl (fun s c =>
    s.addCompl c { tag := 0xFFFFFFFF, opcode := 0x04, status := st, result := result, detail := detail, irq := false }) s

/-- An ensemble stops on a fault (R67): FAULTED, with the code; nothing where it is not RUNNING. -/
def State.stopOn (s : State) (e code : Nat) : State :=
  if e < 8 && (s.en e).st == .running then
    let s := s.setEn e { s.en e with st := .faulted, fault := code }
    s.leaveRunning e stFaulted 0 (BitVec.ofNat 32 code)
  else s

/-- A block reset of a member takes its ensemble from LOADED, RUNNING or DONE to FAULTED (R35, R391). -/
def State.faultMember (s : State) (e code : Nat) : State :=
  let x := s.en e
  match x.st with
  | .running => s.stopOn e code
  | .loaded => s.setEn e { x with st := .faulted, fault := code }
  | .done => s.setEn e { x with st := .faulted, fault := code }
  | _ => s

/-- Raises a record about a step and stops its ensemble (the STOP faults of R66, R99, R188). -/
def State.stepFault (s : State) (ub : Nat) (q : QStep) (code : Nat) (detail : Nat := 0) : State :=
  let s := s.raise { recStep code ub q (s.bk ub).epoch with detail := detail }
  s.stopOn q.ens code

/-- UNIT_ABSENT met by a unit (R15, R33): a record; the ensemble faults at its next barrier. -/
def State.unitAbsent (s : State) (ub : Nat) (q : Option QStep) : State :=
  let e := s.ensOf ub
  let r := match q with
    | some q => recStep cUnitAbsent ub q (s.bk ub).epoch
    | none => { recOf cUnitAbsent (unitClass (unitOf ub)).1 (unitClass (unitOf ub)).2 with
        ens := e, epoch := (s.bk ub).epoch.toNat }
  let s := s.raise r
  if e < 8 && (s.en e).st == .running then s.setEn e { s.en e with absentSeen := true } else s

/-- The ensemble's next barrier after a UNIT_ABSENT record: it enters FAULTED (R15). -/
def State.barrier (s : State) (e : Nat) : State :=
  if e < 8 && (s.en e).absentSeen then s.stopOn e cUnitAbsent else s

/-- The lanes of a link die that are not retired: it trains with the first 16, and the others are its unused spares (R27, R460). -/
def State.goodLanes (s : State) (die : Nat) : List Nat :=
  (List.range 18).filter (fun k => (s.hl (4192 + 18 * die + k)).st != .retired)

/-! ## Operations on sync objects, counted (R266, R277) -/

/-- The initiator and SUB of an agent that operates on sync objects (R272, R276). -/
def agentInit (a : Agent) : Nat × Nat :=
  match a with
  | .unit ub _ =>
    let u := ub % 1024
    (if u < 768 then u else 0x330 + (u - 768), 0)
  | .caller e => (0x340 + e, 0)
  | .stream se c => (seInit se, c)
  | .host h => (0x370 + (if 4096 ≤ h.chan then (h.chan - 4096) / 2 else h.chan / 2048), 0)
  | .link _ die => (0x360 + die, 0)

/-- An operation leaves for a sync object: a SYNC_OP packet, counted (R266, R277). -/
def State.sendOp (s : State) (a : Agent) (obj op value : Nat) (auto : Bool) : State :=
  let (i, c) := agentInit a
  (s.countReq i c obj 0).send (.syncOp a obj op value auto)

/-- Its answer arrives (R277). -/
def State.opAnswered (s : State) (a : Agent) (obj : Nat) : State :=
  let (i, c) := agentInit a
  s.countResp i c obj 0

/-! ## Requests served in place -/

/-- Counts requests that the model serves within one command (R277): `n` requests of no latency and their payload. -/
def State.tally (s : State) (init n bytes : Nat) : State :=
  let c := s.count init
  s.setCount init { c with reqs := satAdd 48 c.reqs n, bytes := satAdd 48 c.bytes bytes,
                           hist := c.hist.set 0 0 (satAdd 32 (c.hist.get 0 0) n) }

/-! ## Emission (R31, R32, R42, R46, R195) -/

/-- The four destination slots of route `j` of a unit and bank. -/
def State.routeSlots (s : State) (ub j : Nat) : List W32 := Map.getAll (s.bk ub).routes 0 (4 * j) 4

/-- The packet a destination slot sends (R32): a unit token in the sender's bank, or an ARRIVE of one. `src` is the sender. -/
def slotPacket (src : Nat) (step : StepRef) (d : W32) : Option Packet :=
  match fld d 30 2 with
  | 1 => some (.token src (fld d 20 10 + 1024 * bankOf src) (fld d 16 4))
  | 2 => some (.arrive (.unit src false) (fld d 0 15) 1 step)
  | _ => none

/-- The packets an EMIT mask sends: one to every non-empty slot of every route named. -/
def State.emission (s : State) (ub mask : Nat) (step : StepRef) : List Packet :=
  (onesOf mask 16).flatMap (fun j => (s.routeSlots ub j).filterMap (slotPacket ub step))

/-- The step a queue entry stands for. -/
def QStep.ref (q : QStep) : StepRef := { bar := q.bar, slot := q.slot, opcode := fld q.word 120 8, ens := q.ens }

/-- A step's tokens leave its unit (R46). -/
def State.emitRoutes (s : State) (ub mask : Nat) (step : StepRef) : State := s.sendAll (s.emission ub mask step)

/-- The first fired step of a unit that satisfies `p`, while the part's clocks run (R398). -/
def State.firedStep (s : State) (ub : Nat) (p : Fired → Bool) : Option Fired :=
  if s.rst.pllLost then none else (s.bk ub).fired.find? p

/-- Changes the first fired step that satisfies `p`. -/
def State.modFired (s : State) (ub : Nat) (p : Fired → Bool) (f : Fired → Fired) : State :=
  s.setBk ub { s.bk ub with fired := modFirst p f (s.bk ub).fired }

/-- One more step of dynamic bar `dyn` is done; a bar all of whose steps have fired and completed is forgotten (R51). -/
def barStep (live : List LiveBar) (dyn : Nat) (f : LiveBar → LiveBar) : List LiveBar :=
  (modFirst (fun b => b.dyn == dyn) f live).filter (fun b => 0 < b.unfired || 0 < b.incomplete)

/-- A step completes or is skipped: its bar has one step fewer to complete; a bar with none left is completed, and its
slip becomes the current one (R51). -/
def State.barDone (s : State) (e dyn : Nat) : State :=
  let x := s.en e
  let b := x.live.find? (fun b => b.dyn == dyn)
  let live := barStep x.live dyn (fun b => { b with incomplete := b.incomplete - 1 })
  match b with
  | none => s
  | some b =>
    if b.incomplete ≤ 1 then s.setEn e { x with live := live, slip := b.slip, maxSlip := max x.maxSlip b.slip }
    else s.setEn e { x with live := live }

/-- A fired step completes: it leaves the fired ones and its tokens leave the unit (R46). A step whose ensemble has left
RUNNING completes too, and its tokens are delivered (R67). -/
def State.finish (s : State) (ub : Nat) (f : Fired) : State :=
  let s := s.setBk ub { s.bk ub with fired := dropFirst (s.bk ub).fired f }
  let s := s.emitRoutes ub (fld f.q.word 88 16) f.q.ref
  s.barDone f.q.ens f.q.dyn

/-- A fired step ends without completing: no tokens (R183, R186). -/
def State.abandon (s : State) (ub : Nat) (f : Fired) : State :=
  let s := s.setBk ub { s.bk ub with fired := dropFirst (s.bk ub).fired f }
  s.barDone f.q.ens f.q.dyn

end Sys2Proof.Machine
end

