-- ==== Sys2Proof/Machine/Flags.lean ====
section
/-! DEFINITION. The counters and sticky bits that arithmetic leaves: the conversion counters (R125), NONFINITE (R282),
and the corrected-error counts of a bank (R134, R249). -/

namespace Sys2Proof.Machine

/-- Events of conversions, to be added to a unit's counters. -/
structure Events where
  crush : Nat := 0
  sat   : Nat := 0
  nan   : Nat := 0
deriving DecidableEq, Repr

def Events.add (a b : Events) : Events := { crush := a.crush + b.crush, sat := a.sat + b.sat, nan := a.nan + b.nan }

def Conv.events (c : Conv) : Events := { sat := c.sat, nan := c.nan }
def BlockConv.events (c : BlockConv) : Events := { crush := c.crush, sat := c.sat, nan := c.nan }

/-- A tile's counters hold at 2³² − 1 (R125). -/
def Tile.addEvents (t : Tile) (e : Events) : Tile :=
  { t with crush := satAdd 32 t.crush e.crush, sat := satAdd 32 t.sat e.sat, nanDrop := satAdd 32 t.nanDrop e.nan }

/-- A cluster's counters, under the same rules (R228). -/
def Cluster.addEvents (c : Cluster) (e : Events) : Cluster :=
  { c with crush := satAdd 32 c.crush e.crush, sat := satAdd 32 c.sat e.sat, nanDrop := satAdd 32 c.nanDrop e.nan }

/-- CLEAR of a QUERY or TELEMETRY (R125, R441, R512). -/
def Tile.clearCounts (t : Tile) : Tile := { t with crush := 0, sat := 0, nanDrop := 0, nonfinite := 0 }
def Cluster.clearCounts (c : Cluster) : Cluster := { c with crush := 0, sat := 0, nanDrop := 0 }

/-- CK_MGT cycles in a number of microseconds: the management clock runs at 300 MHz. -/
def ticksOf (us : Nat) : Nat := 300 * us

/-- A corrected error in a sliding window (R134, R249): the times still in the window with this one; when they reach the
burst count, the count starts again and a burst is reported. -/
def burst (times : List Nat) (now window count : Nat) : List Nat × Bool :=
  let l := times.filter (fun t => now < t + window) ++ [now]
  if count ≤ l.length then ([], true) else (l, false)

end Sys2Proof.Machine
end

