-- ==== Sys2Proof/Machine/Rows.lean ====
section
/-! DEFINITION. What every access of HBM meets, whoever makes it: the pseudo-channel and the row behind an offset
(R251–R256), the row buffers and hot-row tables of the banks (R239, R244–R247), the code over each line and the freeze of a
pseudo-channel (R248–R252). -/

namespace Sys2Proof.Machine

/-! ## Halt causes (R183, R441) -/

abbrev causeAbsent : Nat := 1
abbrev causePermission : Nat := 2
abbrev causePcFrozen : Nat := 3
abbrev causeHostErr : Nat := 4
abbrev causePeerRefused : Nat := 5
abbrev causeSeq : Nat := 6
abbrev causeVerdict : Nat := 7

/-! ## Pseudo-channels behind an offset -/

/-- The pseudo-channel whose retirement is the `k`-th of a stack. -/
def State.retiree (s : State) (stack k : Nat) : Option Nat :=
  (List.range 64).find? (fun p => (s.pc stack p).retireNo == some k)

/-- How many of `n` rows dealt in turn to the pseudo-channels of a list fall to `q`. -/
def inTurn (l : List Nat) (q n : Nat) : Nat :=
  match l.findIdx? (· == q) with
  | none => 0
  | some i => (n + l.length - 1 - i) / l.length

/-- How the rows of one bank are dealt (R256): so many rows in turn to the pseudo-channels of a list, then so many to those of the
next, and all that are left to those of the last. -/
abbrev Deal := List (Nat × List Nat)

/-- The pseudo-channel that the row of rank `r` goes to. -/
def dealTarget (d : Deal) (r : Nat) : Nat :=
  match d with
  | [] => 0
  | [(_, l)] => nth l (r % l.length) 0
  | (n, l) :: d => if r < n then nth l (r % l.length) 0 else dealTarget d (r - n)

/-- How many of the first `n` rows go to `q`. -/
def dealCount (d : Deal) (q n : Nat) : Nat :=
  match d with
  | [] => 0
  | [(_, l)] => inTurn l q n
  | (m, l) :: d => inTurn l q (min n m) + dealCount d q (n - m)

/-- A list from its place `n` on, around its end, without `q`. -/
def turnedWithout (l : List Nat) (n q : Nat) : List Nat :=
  ((l.drop (n % l.length)) ++ l.take (n % l.length)).filter (· != q)

/-- How far an evacuation had come in a bank, in rows, as a retirement that draw `i` numbers was accepted: free, for the spec gives the
rate only as at least half the pseudo-channel's bandwidth (R254, R256). -/
def cutAt (i bank : Nat) : Nat := (Config.freeWord (i + bank)).toNat % 2 ^ 15

/-- The dealing of a bank's rows by an evacuation that begins with the receivers `l` and loses one at each of `cuts`, `skip` rows being
dealt before these (R256). -/
def dealOf (bank skip : Nat) (l : List Nat) (at' : Nat) (cuts : List (Nat × Nat)) : Deal :=
  match cuts with
  | [] => [(0, l)]
  | (i, q) :: r =>
    let c := max at' (cutAt i bank - skip)
    (c - at', l) :: dealOf bank skip (turnedWithout l (c - at') q) c r

/-- The dealing, in a bank, of the refuge rows that an evacuation relocates. -/
def Pc.refugeDeal (v : Pc) (bank : Nat) : Deal := dealOf bank 0 v.receivers 0 v.cuts

/-- The dealing, in a bank, of the data rows of an evacuation, which follow the `skip` rows it relocates. -/
def Pc.dataDeal (v : Pc) (bank skip : Nat) : Deal := dealOf bank skip v.receivers 0 v.cuts

/-- How many refuge rows of one bank each of the first `k` retirements relocated into band 3 (R256): those that retirements before it
had dealt to its pseudo-channel. -/
def State.relocated (s : State) (stack bank k : Nat) : List Nat :=
  match k with
  | 0 => []
  | j + 1 =>
    let l := s.relocated stack bank j
    let dealt (p b : Nat) : Nat := match s.retiree stack b with
      | none => 0
      | some x => dealCount ((s.pc stack x).dataDeal bank (nth l b 0)) p 15360
          + dealCount ((s.pc stack x).refugeDeal bank) p (nth l b 0)
    l ++ [match s.retiree stack j with
      | none => 0
      | some p => ((List.range j).map (dealt p)).sum]

/-- Rows of band `b` that retirement `b` of a stack dealt to pseudo-channel `q`, in one bank (R256). -/
def State.bandRows (s : State) (stack bank q b : Nat) : Nat :=
  match s.retiree stack b with
  | none => 0
  | some p => dealCount ((s.pc stack p).dataDeal bank (nth (s.relocated stack bank (b + 1)) b 0)) q 15360

/-- Rows of band 3 of pseudo-channel `q` that retirements before the `k`-th filled, in one bank. -/
def State.bandThree (s : State) (stack bank q k : Nat) : Nat :=
  (((s.relocated stack bank k).zipIdx).map (fun x => match s.retiree stack x.2 with
    | none => 0
    | some p => dealCount ((s.pc stack p).refugeDeal bank) q x.1)).sum

/-- A refuge row's place among the refuge rows of its pseudo-channel that an evacuation relocates, in ascending order. -/
def State.dealRank (s : State) (stack bank p row : Nat) : Nat :=
  let b := (row - 15360) / 256
  (row - 15360) % 256 + ((List.range b).map (s.bandRows stack bank p)).sum

/-- The pseudo-channel and the row that serve row `row` of a bank of pseudo-channel `p` (R255, R256): a data row in the band of its
retirement, a refuge row in the lowest unused rows of band 3. -/
def State.servedAt (s : State) (stack bank : Nat) (fuel p row : Nat) : Nat × Nat :=
  match fuel with
  | 0 => (p, row)
  | f + 1 =>
    let v := s.pc stack p
    let k := v.retireNo.getD 0
    if v.st = .retired && 0 < v.receivers.length then
      if row < 15360 then
        let d := v.dataDeal bank (nth (s.relocated stack bank (k + 1)) k 0)
        let q := dealTarget d row
        s.servedAt stack bank f q (15360 + 256 * k + dealCount d q row)
      else
        let r := s.dealRank stack bank p row
        let q := dealTarget (v.refugeDeal bank) r
        s.servedAt stack bank f q (15360 + 768 + s.bandThree stack bank q k + dealCount (v.refugeDeal bank) q r)
    else (p, row)

/-- The pseudo-channel and row that serve a stack offset. -/
def State.homeOf (s : State) (stack off : Nat) : Nat × Nat := s.servedAt stack (dbankOf off) 4 (pcOf off) (rowOf off)

/-- The pseudo-channel that serves a stack offset. -/
def State.servingPc (s : State) (stack off : Nat) : Nat := (s.homeOf stack off).1

/-- What a controller answers an access now: served, refused with a halt cause, or not yet. -/
inductive Avail where
  | ok
  | bad (cause : Nat)
  | later
deriving DecidableEq, Repr

/-- Whether a stack offset can be accessed now (R251, R255, R398). -/
def State.avail (s : State) (stack off : Nat) : Avail :=
  if s.rst.pllLost then .later
  else if 0 < (s.stk stack).accepted && inRefuge off then .bad causePermission
  else match (s.pc stack (s.servingPc stack off)).st with
    | .training => .later
    | .retraining => .later
    | .frozen => .bad causePcFrozen
    | .evacuating => .bad causePcFrozen
    | .serving => if s.resetting 2 (64 * stack + s.servingPc stack off) then .later else .ok
    | .retired => .ok

/-! ## Records about a pseudo-channel -/

/-- A record about a pseudo-channel. -/
def recPc (code stack p : Nat) : Rec := recOf code 6 (64 * stack + p)

def isRead (k : ReqKind) : Bool := k == .read || k == .scrub

/-- The acknowledgement of a request. -/
def ackReq (r : Req) (st : AckStatus) : Packet :=
  .ack { init := r.init, sub := r.sub, seq := r.seq, stack := r.stack, block := r.block, status := st, epoch := r.epoch }

/-! ## Banks and row disturbance (R239, R244–R246) -/

/-- The entry of a bank's hot-row table that an activation of `row` counts in: the row's own, or the lowest. -/
def hotEntry (hot : Map HotRow) (row : Nat) : Nat :=
  match (List.range 32).find? (fun i => (hot.get {} i).row == some row) with
  | some i => i
  | none => (List.range 32).foldl (fun m i => if (hot.get {} i).count < (hot.get {} m).count then i else m) 0

/-- The vote after an activation by `init` (R244). -/
def HotRow.vote (h : HotRow) (init : BitVec 12) : HotRow :=
  if h.init = some init then { h with votes := h.votes + 1 }
  else if h.init = none || h.votes ≤ 1 then { h with init := some init, votes := 1 }
  else { h with votes := h.votes - 1 }

/-- A threshold event: a per-bank RFM closes the bank, the entry's dominant initiator is throttled, and the event is logged
(R245, R246). -/
def State.throttle (s : State) (stack p bank row : Nat) (init : BitVec 12) : State :=
  let v := s.pc stack p
  let s := s.setPc stack p { v with
    throttled := if v.throttled.contains init then v.throttled else v.throttled ++ [init],
    throttles := satAdd 32 v.throttles 1,
    banks := v.banks.set {} bank { v.banks.get {} bank with openRow := none, rfms := (v.banks.get {} bank).rfms + 1 } }
  s.raise { recPc cThrottled stack p with detail := init.toNat + 2 ^ 12 * bank + 2 ^ 18 * row }

/-- An activation of a row (R244, R245). -/
def State.activate (s : State) (stack p bank row : Nat) (init : BitVec 12) : State :=
  let v := s.pc stack p
  let b := v.banks.get {} bank
  let i := hotEntry b.hot row
  let h := b.hot.get {} i
  let h := { h with row := some row, count := h.count + 1 }.vote init
  let hot := s.limit 0x22 ≤ h.count
  let s := s.setPc stack p { v with banks := v.banks.set {} bank { b with hot := b.hot.set {} i (if hot then { h with count := 0 } else h) } }
  if hot then s.throttle stack p bank row (h.init.getD init) else s

/-- An access to a row of a bank: an activation unless the row is open; the page policy then keeps the row open or
closes it (R239). While the bank has had fewer than 64 accesses the hit rate is taken over those it has had (DESIGN CHOICE:
R239 speaks of the last 64 accesses only). -/
def State.access (s : State) (stack p bank row : Nat) (init : BitVec 12) : State :=
  let hit := ((s.pc stack p).banks.get {} bank).openRow == some row
  let s := if hit then s else s.activate stack p bank row init
  let v := s.pc stack p
  let b := v.banks.get {} bank
  let hits := b.hits ++ [hit]
  let hits := hits.drop (hits.length - 64)
  let keep := hits.length ≤ 2 * hits.count true
  s.setPc stack p { v with banks := v.banks.set {} bank { b with hits := hits, openRow := if keep then some row else none } }

/-! ## Freezing (R252) -/

/-- The lines of the snapshot's copy of a request (R441). -/
def snapOf (r : Req) : SnapRec := { offset := r.block, init := r.init, sub := r.sub, kind := r.kind, seq := r.seq }

/-- Freezes a pseudo-channel, abandoning a retraining piece, which DETAIL[8] names (R24): the snapshot, PC_FROZEN to
every queued request, the record, and the health event, which cause 4 (FORCED_RESET) does not make. `cmd` is the failing
command, where one was at work. -/
def State.freeze (s : State) (stack p cause off : Nat) (syndrome : W64) (cmd : Option SnapRec := none) : State :=
  let v := s.pc stack p
  let q := v.reads ++ v.writes
  let window := if cause = 2 then (v.recent.filter (fun x => s.ltc.toNat < x.1 + 16)).map (·.2) else []
  let s := s.setPc stack p { v with
    st := .frozen, reads := [], writes := [], drain := false, recent := [], cause := cause, failOffset := off,
    syndrome := if cause = 1 then syndrome else 0, failCmd := cmd, snapQueue := q.map (fun x => snapOf x.req), snapWindow := window,
    snapTemps := (s.stk stack).dies,
    listed := [], poisoned := 0, retrains := 0, repairing := none }
  let s := s.sendAll (q.map (fun x => ackReq x.req .pcFrozen))
  let r := { recPc cPcFrozenEvent stack p with detail := cause + 256 * flag (v.st == .retraining) }
  if cause = 4 then s.raise { r with sev := 1 }
  else ((s.raise r).healthEvent 6 (64 * stack + p)).supersede 2 (64 * stack + p)

/-! ## Error correction (R248, R249) -/

/-- A corrected error of a line: counted once until its write-back has landed; a burst is a health event (R249). -/
def State.hbmCorrected (s : State) (stack p off : Nat) : State :=
  let l := hbmLine stack off
  if s.hfixed.contains l then s
  else
    let s := { s with hfixed := addIdx s.hfixed l }
    let v := s.pc stack p
    let (times, hit) := burst v.window s.ltc.toNat (ticksOf (s.limit 0x27)) (s.limit 0x26)
    let row := 16384 * dbankOf off + (s.homeOf stack off).2
    let s := s.setPc stack p { v with
      window := times, corrected := satAdd 32 v.corrected 1, rowErrs := v.rowErrs.set 0 row (v.rowErrs.get 0 row + 1) }
    let s := s.raise (recPc cEccCorrected stack p)
    if hit then s.healthEvent 6 (64 * stack + p) else s

/-- What the code makes of a line's erroneous symbols (R248): one is corrected, two are detected; more are taken as detected
too (DESIGN CHOICE). -/
def symbolsFind (e : List (Nat × BitVec 16)) : Ecc :=
  match e with
  | [] => .clean
  | [_] => .corrected
  | _ => .uncorrectable (Config.syndromes e)

/-- What a read of a line finds: its own erroneous symbols, and what the interface adds (`found`: a further erroneous symbol, or an
error that cannot be corrected). One of each are two, which the code detects (R248). -/
def State.lineFinds (s : State) (stack off : Nat) (found : Ecc) : Ecc :=
  let e := s.herr.get [] (hbmLine stack off)
  match symbolsFind e, found with
  | .uncorrectable x, _ => .uncorrectable x
  | _, .uncorrectable x => .uncorrectable x
  | .corrected, .corrected => .uncorrectable (Config.syndromes e)
  | .corrected, .clean => .corrected
  | .clean, x => x

/-- A line is read for `cmd` (R248–R250, R252): a poisoned line is returned as it is, a single-symbol error is corrected, and
one that the code cannot correct freezes the pseudo-channel; false where it froze. -/
def State.readCheck (s : State) (stack p off : Nat) (found : Ecc) (cmd : Option SnapRec := none) : State × Bool :=
  if s.hbmBad stack off then (s, true)
  else match s.lineFinds stack off found with
    | .clean => (s, true)
    | .corrected => (s.hbmCorrected stack p off, true)
    | .uncorrectable syn => (s.freeze stack p 1 off syn cmd, false)

/-- Reads the lines at several offsets, as far as the first that freezes the pseudo-channel. -/
def State.readChecks (s : State) (stack p : Nat) (offs : List Nat) (found : Ecc) (cmd : Option SnapRec) : State × Bool :=
  match offs with
  | [] => (s, true)
  | o :: r => match s.readCheck stack p o found cmd with
    | (s, true) => s.readChecks stack p r .clean cmd
    | x => x

/-- A corrected line, by its place over all stacks, is written back. -/
def State.lineFixed (s : State) (l : Nat) : State := { s with hfixed := remIdx s.hfixed l, herr := s.herr.erase l }

/-! ## The tile store's code (R127, R132–R134) -/

/-- The bank of a tile-store line (R127). -/
def tsBank (line : Nat) : Nat := (line + line / 64) % 32

/-- A corrected error of a line: one TS_CORRECTED event, and a health event of the tile where it makes a burst (R134). -/
def State.tsCorrected (s : State) (tile line : Nat) : State :=
  let s := s.raise (recOf cTsCorrected 0 tile)
  let t := s.tile tile
  let (times, hit) := burst (t.corrected.get [] (tsBank line)) s.ltc.toNat (ticksOf (s.limit 0x25)) (s.limit 0x24)
  let s := s.setTile tile { t with corrected := t.corrected.set [] (tsBank line) times }
  if hit then s.healthEvent 0 tile else s

/-- A line with an uncorrectable error is poisoned; the error is an ECC burst, which starts its bank's count again (R133,
R134). -/
def State.tsPoisonLine (s : State) (tile line : Nat) : State :=
  let s := s.tsPoison tile (64 * line) true
  let t := s.tile tile
  s.setTile tile { t with corrected := t.corrected.set [] (tsBank line) [] }

/-- An uncorrectable line that a step reads: poisoned, a health event of the tile; the step makes the record (R133, R134). -/
def State.tsSpoiled (s : State) (tile line : Nat) : State := (s.tsPoisonLine tile line).healthEvent 0 tile

/-- An uncorrectable line that no step reads: poisoned, recorded, a health event of the tile; no step stops (R133, R134). -/
def State.tsUncorrectable (s : State) (tile line : Nat) : State :=
  ((s.tsPoisonLine tile line).raise { recOf cTsUncorrectable 0 tile with sev := 2 }).healthEvent 0 tile

/-- The number of bits of a codeword that are flipped. -/
def flipCount (e : BitVec 72) : Nat := (onesOf e.toNat 72).length

/-- What SEC-DED makes of the flipped bits of a line's codewords (R132): one in a codeword is corrected, two are detected;
more are taken as detected too (DESIGN CHOICE). -/
def flipsFind (e : List (Nat × BitVec 72)) : Ecc :=
  if e.any (fun x => 2 ≤ flipCount x.2) then .uncorrectable 0 else if e.any (fun x => flipCount x.2 == 1) then .corrected else .clean

/-- The worse of two findings. -/
def worseOf (a b : Ecc) : Ecc :=
  match a, b with
  | .uncorrectable x, _ => .uncorrectable x
  | _, .uncorrectable x => .uncorrectable x
  | .corrected, _ => .corrected
  | _, .corrected => .corrected
  | _, _ => .clean

/-- What a read of a tile-store line finds: the flipped bits of its cells, and what the read itself adds (`found`: a flipped bit in
a codeword that has no other, or an error that cannot be corrected). -/
def State.tsFinds (s : State) (tile line : Nat) (found : Ecc) : Ecc :=
  worseOf (flipsFind (s.terr.get [] (tsKey tile (64 * line) / 64))) found

/-- The codewords of line `l`, over all tile stores, whose error a read is the first to find (R132): their write-backs are not under
way. 8 stands for the error that the read itself adds. -/
def State.firstFound (s : State) (l : Nat) (found : Ecc) : List Nat :=
  (((s.terr.get [] l).filter (fun (x : Nat × BitVec 72) => flipCount x.2 == 1)).map Prod.fst ++ (if found = Ecc.corrected then [8] else [])).filter
    (fun k => !s.tfixed.contains (fixKey l k))

/-- The corrected errors of a line are counted, each once until its write-back has landed (R132). -/
def State.tsCount (s : State) (tile line : Nat) (found : Ecc) : State :=
  let l := tsKey tile (64 * line) / 64
  (s.firstFound l found).foldl (fun s k => { s with tfixed := addIdx s.tfixed (fixKey l k) }.tsCorrected tile line) s

/-- A line is read (R132, R133): its errors are corrected, and each is counted once; a line that the code cannot correct is poisoned,
and where no step reads it the finding is recorded at once. -/
def State.tsLoadLine (s : State) (tile : Nat) (step : Bool) (found : Ecc) (line : Nat) : State :=
  if s.tpoison.contains (tsKey tile (64 * line) / 64) then s
  else
    let u := s.tsCount tile line found
    match s.tsFinds tile line found with
    | .uncorrectable _ => if step then u.tsSpoiled tile line else u.tsUncorrectable tile line
    | _ => u

/-- The lines that `n` bytes at `a` touch are read. -/
def State.tsLoad (s : State) (tile a n : Nat) (step : Bool := false) : State :=
  (List.range ((a % 64 + n + 63) / 64)).foldl (fun s i => s.tsLoadLine tile step .clean (a / 64 + i)) s

/-- The write-backs of corrected codewords of the tile stores land (R132; DESIGN CHOICE: as a CK_MGT cycle passes). -/
def State.landFixes (s : State) : State :=
  { s with tfixed := [],
           terr := (s.terr.map (fun x => (x.1, x.2.filter (fun y => !s.tfixed.contains (fixKey x.1 y.1))))).filter (fun x => x.2 != []) }

/-! ## Errors of the cells (R132, R248)

The world, not a command, upsets the cells of a memory: as a CK_MGT cycle passes, the free constants of Config say which. -/

/-- The errors of a line or codeword with one more. -/
def withError {w : Nat} (l : List (Nat × BitVec w)) (k : Nat) (e : BitVec w) : List (Nat × BitVec w) :=
  Map.set l 0 k (Map.get l 0 k ^^^ e)

/-- The upsets of a cycle: a populated stack's line, and a tile store's line, that is not poisoned gets its errors. -/
def State.upset (s : State) : State :=
  let s := match Config.hbmUpset s.ltc.toNat with
    | none => s
    | some (l, k, e) =>
      if s.stackOn (l / 2 ^ 30) && k < 36 && !s.hpoison.contains l then
        { s with herr := s.herr.set [] l (withError (s.herr.get [] l) k e) } else s
  match Config.storeUpset s.ltc.toNat with
  | none => s
  | some (l, k, e) =>
    if l < 512 * 65536 && k < 8 && !s.tpoison.contains l then
      { s with terr := s.terr.set [] l (withError (s.terr.get [] l) k e) } else s

/-! ## The choice of a request (R236–R238, R240, R246) -/

/-- The class a request has now (R234, R236). -/
def Queued.cls (q : Queued) : Nat := if q.promoted || q.req.vcrit then 0 else q.req.cls.toNat

/-- Whether an earlier request of the same source to the same block is still queued (R240). -/
def heldBehind (l : List Queued) (q : Queued) : Bool :=
  l.any (fun x => x.order < q.order && x.req.init == q.req.init && x.req.sub == q.req.sub && x.req.block == q.req.block)

/-- Whether a throttled initiator has an earlier request waiting: one at a time is eligible (R246). -/
def heldByThrottle (v : Pc) (l : List Queued) (q : Queued) : Bool :=
  v.throttled.contains q.req.init && l.any (fun x => x.order < q.order && x.req.init == q.req.init)

/-- Whether a request would hit the open row of its bank. -/
def State.rowHit (s : State) (stack p : Nat) (q : Queued) : Bool :=
  ((s.pc stack p).banks.get {} (dbankOf q.req.block)).openRow == some (s.homeOf stack q.req.block).2

/-- Those of some waiting requests that neither an unready bank nor an earlier one holds back. -/
def Pc.free (v : Pc) (ready : BitVec 64) (l : List Queued) : List Queued :=
  l.filter (fun q => bitOf ready (dbankOf q.req.block) && !heldBehind l q && !heldByThrottle v l q)

/-- The order of `best()`: reads before writes where asked, then row hits, then oldest acceptance. -/
def State.rankOf (s : State) (stack p : Nat) (readsFirst : Bool) (q : Queued) : Nat :=
  2 ^ 65 * flag (readsFirst && !isRead q.req.kind) + 2 ^ 64 * flag (!s.rowHit stack p q) + q.order

/-- The least element of a list by a measure. -/
def least (f : Queued → Nat) (l : List Queued) : Option Queued :=
  match l with
  | [] => none
  | x :: r => match least f r with
    | none => some x
    | some y => if f y < f x then some y else some x

/-- The request that the controller issues of the eligible ones `e` (R237). -/
def State.pickFrom (s : State) (stack p : Nat) (e : List Queued) : Option Queued :=
  let zero := e.filter (fun q => q.cls == 0)
  if zero != [] then least (s.rankOf stack p true) zero
  else if (s.pc stack p).drain then least (s.rankOf stack p false) (e.filter (fun q => !isRead q.req.kind))
  else
    let c := e.foldl (fun m q => min m q.cls) 4
    least (s.rankOf stack p true) (e.filter (fun q => q.cls == c))

/-! ## Requests that the model serves within one command

A request of the Caller, a walker, a memory-side job, the host port, the keeper or the controller itself is served within the command
that makes it. It keeps the rules of a queued request: it is not accepted where its queue is full or its initiator is throttled, it
waits for owed refreshes and until the controller would issue it before every request that is queued, and it opens a row and is
counted as any access. -/

/-- The class of such a request (R234): the Caller's fetches are class 0, the controller's own scrubbing and write-backs class 3, other
reads 1 and other writes 2. Requests that R234's table does not list (a host's COPY, MAP_PAGES, the loader's, a peer's PUT and GET,
the partner's frames) are taken with these (DESIGN CHOICE). -/
def clsOf (init : Nat) (write : Bool) : Nat :=
  if 0x340 ≤ init && init < 0x348 then 0 else if 0x3A0 ≤ init && init < 0x3AC then 3 else if write then 2 else 1

/-- Whether a request finds no entry: its queue is full, or a throttled initiator has four in it (R235, R246). -/
def Pc.fullFor (v : Pc) (read : Bool) (init : BitVec 12) : Bool :=
  let q := if read then v.reads else v.writes
  64 ≤ q.length || (v.throttled.contains init && 4 ≤ (q.filter (fun x => x.req.init == init)).length)

/-- A request served within one command as it would stand in the queue: the latest accepted. -/
def Pc.inPlace (v : Pc) (init stack off cls : Nat) (write : Bool) : Queued :=
  { req := { stack := stack, block := off / 256 * 256, kind := if write then .write else .read, mask := 15, cls := BitVec.ofNat 2 cls,
             vcrit := false, init := BitVec.ofNat 12 init, sub := 0, seq := 0, epoch := 0, poisoned := false, first := 0, last := 255,
             data := [], xform := .none },
    order := v.accepted, promoted := false }

/-- Whether a request of a class must wait: owed refreshes go first (R242), it finds no entry (R235, R246), or the controller would
issue a queued request before it (R237, R238, R240, R246). -/
def State.keepsWaiting (s : State) (init stack off cls : Nat) (write : Bool) : Bool :=
  let p := s.servingPc stack off
  let v := s.pc stack p
  let x := v.inPlace init stack off cls write
  8 ≤ v.owed || v.fullFor (!write) (BitVec.ofNat 12 init)
    || s.pickFrom stack p (v.free (-1) (v.reads ++ v.writes ++ [x])) != some x

/-- Whether initiator `init` can access a stack offset now. -/
def State.availFor (s : State) (init stack off : Nat) (write : Bool) : Avail :=
  match s.avail stack off with
  | .ok => if s.keepsWaiting init stack off (clsOf init write) write then .later else .ok
  | x => x

/-- The stack offsets of the lines that `n` bytes at an offset touch. -/
def linesOf (off n : Nat) : List Nat := (List.range ((off % 64 + n + 63) / 64)).map (fun i => off / 64 * 64 + 64 * i)

/-- A request's row and its count (R239, R244, R277); the request lies in one 256-byte block. -/
def State.reach (s : State) (init stack off n : Nat) : State :=
  let (p, row) := s.homeOf stack off
  (s.access stack p (dbankOf off) row (BitVec.ofNat 12 init)).tally init 1 n

/-- The command of such a request, as a snapshot has it. -/
def snapAt (init off : Nat) (kind : ReqKind) : SnapRec :=
  { offset := off / 256 * 256, init := BitVec.ofNat 12 init, sub := 0, kind := kind, seq := 0 }

/-- Reads `n` bytes of one block: none where the read froze the pseudo-channel. -/
def State.hbmFetch (s : State) (init stack off n : Nat) : State × Option (List Byte × Bool) :=
  let s := (s.reach init stack off n).moved stack n 0
  match s.readChecks stack (s.servingPc stack off) (linesOf off n) .clean (some (snapAt init off .read)) with
  | (s, true) => (s, some (s.hbmRead stack off n, (linesOf off n).any (s.hbmBad stack)))
  | (s, false) => (s, none)

/-- A write whose commands have been issued stands in the window of a parity alert (R252). -/
def State.noteWrite (s : State) (stack p : Nat) (c : SnapRec) : State :=
  let v := s.pc stack p
  let recent := v.recent.filter (fun x => s.ltc.toNat < x.1 + 16) ++ [(s.ltc.toNat, c)]
  s.setPc stack p { v with recent := recent.drop (recent.length - 16) }

/-- The write-back of a corrected line: a write of the controller's own, which opens its row and stands in the window of a parity
alert as any other (R239, R244, R249, R252). -/
def State.fixLine (s : State) (stack off : Nat) : State :=
  let s := ((s.reach (0x3A0 + stack) stack off 64).moved stack 0 64).lineFixed (hbmLine stack off)
  s.noteWrite stack (s.servingPc stack off) (snapAt (0x3A0 + stack) off .write)

/-- The write-back of a corrected line lands once nothing else of the pseudo-channel is to be issued (class 3, R249); an
error that its read finds and the code cannot correct freezes the pseudo-channel, with the write-back as the failing command (R252). -/
def State.writeBack (s : State) (stack p : Nat) (found : Ecc) : State :=
  match s.hfixed.find? (fun l => l / 2 ^ 30 == stack && (s.homeOf stack (l * 64 % 2 ^ 36)).1 == p) with
  | none => s
  | some l => match s.lineFinds stack (l * 64 % 2 ^ 36) found with
    | .uncorrectable syn => s.freeze stack p 1 (l * 64 % 2 ^ 36) syn (some (snapAt (0x3A0 + stack) (l * 64 % 2 ^ 36) .write))
    | _ => s.fixLine stack (l * 64 % 2 ^ 36)

end Sys2Proof.Machine
end

