-- ==== Sys2Proof/Machine/Translate.lean ====
section
/-! DEFINITION. Address translation (R178–R181), what a page's state makes of an access (R180), the state of the
pseudo-channel behind an offset (R251–R256), and reads and writes of memory by requesters that are not streams. -/

namespace Sys2Proof.Machine

/-! ## Where an access goes -/

/-- Where an access goes (R180), or the cause that stops it. -/
inductive Place where
  | hbm (stack off : Nat)
  | host (q a : Nat)
  | partner (a : Nat)
  | bad (cause : Nat)
deriving DecidableEq, Repr

/-- Whether PARTNER pages can be accessed: not in bench mode (R180), and not once taken over (R475). -/
def State.partnerPages (s : State) : Bool := s.partner.st != .bench && s.partner.st != .takenOver

/-- Bytes of a leaf's page. -/
def pageSize (big : Bool) : Nat := if big then 2 ^ 21 else 2 ^ 16

/-- The place of address `va` through a leaf entry, for a read or a write (R179, R180, R207). -/
def State.leafPlace (s : State) (pte : W64) (big : Bool) (va : Nat) (write : Bool) : Place :=
  let a := bits pte.toNat 8 56 * 256 + va % pageSize big
  if !(if write then bitOf pte 4 else bitOf pte 3) then .bad causePermission
  else match fld pte 0 2 with
    | 1 => match s.place a with
      | some (m, o) => .hbm m o
      | none => .bad causePermission
    | 2 => .host (2 * flag (bitOf pte 6)) a
    | 3 => if s.partnerPages && (s.place a).isSome then .partner a else .bad causePermission
    | _ => .bad causeAbsent

/-! ## Table walks (R178, R179) -/

/-- How a walk ends: a leaf, a cause, or not yet (the tables' pseudo-channel does not serve now). -/
inductive Walk where
  | leaf (pte : W64) (big : Bool)
  | bad (cause : Nat)
  | later
deriving DecidableEq, Repr

/-- An 8-byte entry at a device address, read by walker `w` as a request of its own (R181, R234): poisoned entries and
addresses without memory are permission faults. -/
def State.readEntry (s : State) (w a : Nat) : State × Except Avail W64 :=
  match s.place a with
  | none => (s, .error (.bad causePermission))
  | some (m, o) =>
    match s.availFor (0x350 + w) m o false with
    | .ok => match s.hbmFetch (0x350 + w) m o 8 with
      | (s, some (_, true)) => (s, .error (.bad causePermission))
      | (s, some (l, false)) => (s, .ok (BitVec.ofNat 64 (ofLe l)))
      | (s, none) => (s, .error (.bad causePcFrozen))
    | x => (s, .error x)

/-- Whether a leaf entry keeps the rules of R179 for its page size. -/
def leafOk (pte : W64) (big : Bool) : Bool :=
  (bits pte.toNat 8 56 * 256) % pageSize big == 0
    && (fld pte 0 2 == 2 || fld pte 40 24 == 0)

/-- Whether a non-leaf entry is LOCAL and names an aligned table (R179). -/
def tableOk (pte : W64) (level : Nat) : Bool :=
  fld pte 0 2 == 1 && fld pte 40 24 == 0 && (level == 1 || fld pte 8 4 == 0)

/-- Index bits of a level (R179). -/
def walkIndex (level va : Nat) : Nat :=
  match level with
  | 0 => bits va 16 5
  | 1 => bits va 21 9
  | 2 => bits va 30 9
  | _ => bits va 39 9

/-- What names the walker-cache entry of a non-leaf entry: all address bits down to its level. -/
def walkTag (level va : Nat) : Nat :=
  match level with
  | 1 => va / 2 ^ 21
  | 2 => va / 2 ^ 30
  | _ => va / 2 ^ 39

/-- A walker's cache (R181). -/
def State.walkCache (s : State) (w : Nat) : List WalkEntry := s.walkers.get [] w
def State.setWalkCache (s : State) (w : Nat) (l : List WalkEntry) : State := { s with walkers := s.walkers.set [] w l }

/-- The walk from `table` of `level` down, through the cache of walker `w`. -/
def State.walkFrom (s : State) (w asid va : Nat) (level table : Nat) : State × Walk :=
  match level with
  | 0 =>
    match s.readEntry w (table + 8 * walkIndex 0 va) with
    | (s, .error (.bad c)) => (s, .bad c)
    | (s, .error _) => (s, .later)
    | (s, .ok pte) =>
      if fld pte 0 2 == 0 then (s, .bad causeAbsent)
      else if bitOf pte 2 && leafOk pte false then (s, .leaf pte false)
      else (s, .bad causePermission)
  | l + 1 =>
    let tag := walkTag (l + 1) va
    match (s.walkCache w).find? (fun x => x.asid == asid && x.level == l + 1 && x.index == tag) with
    | some x => (s.setWalkCache w (x :: (s.walkCache w).erase x)).walkFrom w asid va l x.table
    | none =>
      match s.readEntry w (table + 8 * walkIndex (l + 1) va) with
      | (s, .error (.bad c)) => (s, .bad c)
      | (s, .error _) => (s, .later)
      | (s, .ok pte) =>
        if fld pte 0 2 == 0 then (s, .bad causeAbsent)
        else if bitOf pte 2 then
          if l == 0 && leafOk pte true then (s, .leaf pte true) else (s, .bad causePermission)
        else if tableOk pte (l + 1) then
          let t := bits pte.toNat 8 32 * 256
          (s.setWalkCache w (({ asid := asid, level := l + 1, index := tag, table := t } :: s.walkCache w).take 256)).walkFrom
            w asid va l t
        else (s, .bad causePermission)

/-- The walker of the floor quadrant that holds router (x, y): 0 and 1 for y ≤ 8, west then east, 2 and 3 below (R181). -/
def quadrant (x y : Nat) : Nat := 2 * flag (9 ≤ y) + flag (17 ≤ x)

/-- The router port of stream engine `n`: the northern tile of its pair (R155). -/
def seRouter (n : Nat) : Nat × Nat := (n % 32 + 1, 2 * (n / 32) + 1)

/-- The entry router of gateway `g` (R262, R263). -/
def gwRouter (g : Nat) : Nat × Nat :=
  if g < 16 then (nth [1, 2, 11, 12, 21, 22, 31, 32] (g % 8) 1, if g < 8 then 1 else 16)
  else if g < 22 then (1, nth [1, 6, 9, 10, 11, 16] (g - 16) 1)
  else (32, nth [1, 6, 9, 10, 11, 16] (g - 22) 1)

/-- The walker a requester asks, by its initiator ID (R181, R211, R343). -/
def walkerOf (r : Nat) : Nat :=
  if 0x200 ≤ r && r < 0x300 then quadrant (seRouter (r - 0x200)).1 (seRouter (r - 0x200)).2
  else if 0x330 ≤ r && r < 0x33C then
    let m := r - 0x330
    2 * flag (6 ≤ m) + flag (3 ≤ m % 6)
  else if 0x360 ≤ r && r < 0x370 then
    quadrant (if r < 0x368 then 1 else 32) (nth [2, 3, 4, 5, 12, 13, 14, 15] ((r - 0x360) % 8) 2)
  else if r = 0x371 then 1
  else if 0x380 ≤ r && r < 0x39C then
    quadrant (gwRouter (r - 0x380)).1 (gwRouter (r - 0x380)).2
  else 0

/-- Entries of a requester's translation cache (R181, R211, R343). -/
def tlbSize (r : Nat) : Nat :=
  if 0x200 ≤ r && r < 0x300 then 512
  else if 0x330 ≤ r && r < 0x33C then 256
  else if r = 0x340 then 128
  else 64

/-- A walk of one address by walker `w` (R178, R179): the address-space table, then four levels. -/
def State.walk (s : State) (w asid va : Nat) : State × Walk :=
  if 2 ^ 48 ≤ va then (s, .bad causePermission)
  else match s.readEntry w (2 ^ 14 * s.astBase + 16 * asid) with
    | (s, .error (.bad c)) => (s, .bad c)
    | (s, .error _) => (s, .later)
    | (s, .ok e) =>
      if bitOf e 0 then s.walkFrom w asid va 3 (4096 * bits e.toNat 12 28)
      else (s, .bad causePermission)

/-- Whether a translation-cache entry maps an address of an address space. -/
def TlbEntry.maps (t : TlbEntry) (asid va : Nat) : Bool := t.asid == asid && t.page == va / pageSize t.big

/-- Looks an address up in a requester's translation cache; a hit becomes the most recent entry (R181). -/
def State.lookup (s : State) (r asid va : Nat) : State × Option TlbEntry :=
  let l := s.tlb r
  match l.find? (fun t => t.maps asid va) with
  | none => (s, none)
  | some t => (s.setTlb r (t :: l.erase t), some t)

/-- Fills a requester's translation cache: one entry a page, the least recently used dropped beyond its size (R181). -/
def State.fillTlb (s : State) (r asid va : Nat) (pte : W64) (big : Bool) : State :=
  s.setTlb r (({ asid := asid, big := big, page := va / pageSize big, pte := pte }
    :: (s.tlb r).filter (fun t => !t.maps asid va)).take (tlbSize r))

/-- Walks an address for a requester: the leaf goes into its cache, the non-leaf entries into the walker's. ABSENT
entries and faults are never cached (R181). -/
def State.walkFor (s : State) (r asid va : Nat) : State × Walk :=
  match s.walk (walkerOf r) asid va with
  | (s, .leaf pte big) => (s.fillTlb r asid va pte big, .leaf pte big)
  | x => x

/-- Translates an address for a requester, by its cache or a walk. -/
def State.translate (s : State) (r asid va : Nat) : State × Walk :=
  if 2 ^ 48 ≤ va then (s, .bad causePermission)
  else match s.lookup r asid va with
    | (s, some t) => (s, .leaf t.pte t.big)
    | (s, none) => s.walkFor r asid va

/-- The place of an address for a requester's read or write; none where it cannot be told yet. -/
def State.locate (s : State) (r asid va : Nat) (write : Bool) : State × Option Place :=
  match s.translate r asid va with
  | (s, .leaf pte big) => (s, some (s.leafPlace pte big va write))
  | (s, .bad c) => (s, some (.bad c))
  | (s, .later) => (s, none)

/-! ## Reads and writes of one place -/

/-- What a read brings: bytes and whether any line of them was poisoned, a cause with the failing address, or not yet. -/
inductive Got where
  | bytes (l : List Byte) (poisoned : Bool)
  | bad (cause va : Nat)
  | later
deriving DecidableEq, Repr

/-- `n` free bytes: what the partner's memory answers is not the block's to know. -/
def State.drawBytes (s : State) (n : Nat) : State × List Byte :=
  match n with
  | 0 => (s, [])
  | k + 1 =>
    let (s, i) := s.draw
    let (s, l) := s.drawBytes k
    (s, Config.freeByte i :: l)

/-- Reads `n` bytes of host memory behind port or half `q`, for initiator `init`; none where the port is down, or the read's
completion failed or timed out (R422). -/
def State.hostFetch (s : State) (init q a n : Nat) : State × Option (List Byte) :=
  let s := s.tally init 1 n
  if s.hostLost.contains init then ({ s with hostLost := dropFirst s.hostLost init }, none)
  else if s.portHere q then (s, some (s.hostRead q a n)) else (s, none)

/-- Reads `n` bytes that lie in one 256-byte block, for initiator `init`. -/
def State.readPlace (s : State) (init : Nat) (p : Place) (n va : Nat) : State × Got :=
  match p with
  | .hbm m o =>
    match s.availFor init m o false with
    | .ok => match s.hbmFetch init m o n with
      | (s, some (l, bad)) => (s, .bytes l bad)
      | (s, none) => (s, .bad causePcFrozen va)
    | .bad c => (s, .bad c va)
    | .later => (s, .later)
  | .host q a => match s.hostFetch init q a n with
    | (s, some l) => (s, .bytes l false)
    | (s, none) => (s, .bad causeHostErr va)
  | .partner _ =>
    if s.partner.linkUp then
      let (s, l) := (s.tally init 1 n).drawBytes n
      (s, .bytes l false)
    else (s, .later)
  | .bad c => (s, .bad c va)

/-- The address in the other's memory that a device address is mirrored to: under the own map (R468), and while an
admission hands the partner's ranges back, under the partner's (R478); none outside the mirrored ranges. -/
def State.mirrorOf (s : State) (a : Nat) : Option Nat :=
  let p := s.partner
  let fromTo (m : MirrorEntry) : Nat × Nat := if p.st = .takenOver then (m.partner, m.addr) else (m.addr, m.partner)
  ((List.range 64).map (fun i => (if p.st = .takenOver then p.inn else p.out).get {} i)).findSome? (fun m =>
    if m.valid && (fromTo m).1 ≤ a && a < (fromTo m).1 + m.len then some ((fromTo m).2 + (a - (fromTo m).1)) else none)

/-- Whether writes are mirrored now: the pair is PAIRED, or an admission copies (R468, R473, R478). -/
def State.mirrors (s : State) : Bool := s.partner.st == .paired || s.partner.admission != .none

/-- A line of HBM whose contents have just changed, sent as a MIRROR line where its address is mirrored (R468). -/
def State.mirrorLine (s : State) (m o : Nat) : State :=
  if s.mirrors then
    let o := o / 64 * 64
    match s.mirrorOf (s.address m o) with
    | none => s
    | some a =>
      { s with partner := { s.partner with queue := s.partner.queue ++ [.lines a (s.hbmRead m o 64) (s.hbmBad m o)] } }
  else s

/-- Stores bytes that lie in one line of HBM (R233, R250): poisoned data poison the line, a write of the whole line
clears poison, a write of part of a poisoned line leaves it poisoned. -/
def State.storeLine (s : State) (m o : Nat) (v : List Byte) (poisoned : Bool) : State :=
  let s := s.hbmWrite m o v
  let s := if poisoned then s.hbmPoison m o true
    else if v.length = 64 then s.hbmPoison m o false else s
  s.mirrorLine m o

/-- Stores bytes of one block line by line. -/
def State.storeLines (s : State) (fuel m o : Nat) (v : List Byte) (poisoned : Bool) : State :=
  match fuel, v with
  | k + 1, _ :: _ =>
    let w := min v.length (64 - o % 64)
    (s.storeLine m o (v.take w) poisoned).storeLines k m (o + w) (v.drop w) poisoned
  | _, _ => s

/-- The lines that a write covers only in part: they are read and merged (R233). -/
def partLines (o n : Nat) : List Nat := (linesOf o n).filter (fun l => l < o || o + n < l + 64)

/-- A write of bytes of one block for initiator `init` (R233, R234): false where the read of a partly covered line froze the
pseudo-channel, and nothing is written. -/
def State.hbmStore (s : State) (init m o : Nat) (v : List Byte) (poisoned : Bool) : State × Bool :=
  let c := snapAt init o .write
  match (s.reach init m o v.length).readChecks m (s.servingPc m o) (partLines o v.length) .clean (some c) with
  | (s, true) => (((s.noteWrite m (s.servingPc m o) c).moved m 0 v.length).storeLines 5 m o v poisoned, true)
  | x => x

/-- How a write ends. -/
inductive Put where
  | done
  | bad (cause va : Nat)
  | later
deriving DecidableEq, Repr

/-- Writes bytes that lie in one block, for initiator `init`. A write to the partner leaves as a MEMORY request (R465). -/
def State.writePlace (s : State) (init : Nat) (p : Place) (v : List Byte) (poisoned : Bool) (va : Nat) : State × Put :=
  match p with
  | .hbm m o =>
    match s.availFor init m o true with
    | .ok => match s.hbmStore init m o v poisoned with
      | (s, true) => (s, .done)
      | (s, false) => (s, .bad causePcFrozen va)
    | .bad c => (s, .bad c va)
    | .later => (s, .later)
  | .host q a =>
    if s.portHere q then
      let s := s.tally init 1 v.length
      -- poisoned data leave as a poisoned TLP (R172): what the host's memory then holds is not the block's to know
      if poisoned then
        let (s, l) := s.drawBytes v.length
        (s.hostWrite q a l, .done)
      else (s.hostWrite q a v, .done)
    else (s, .bad causeHostErr va)
  | .partner a =>
    if s.partner.linkUp then
      let s := s.tally init 1 v.length
      ({ s with partner := { s.partner with
          memory := s.partner.memory ++ [.request a true 0 0 0xFFFF v poisoned] } }, .done)
    else (s, .later)
  | .bad c => (s, .bad c va)

/-! ## Reads and writes over many blocks -/

/-- Bytes from `va` to the end of its line, at most `n`. -/
def lineRun (va n : Nat) : Nat := min n (64 - va % 64)

/-- Bytes from `va` to the end of its 256-byte block, at most `n`. -/
def blockRun (va n : Nat) : Nat := min n (256 - va % 256)

/-- Reads `n` bytes at a stream virtual address, block by block (`fuel` blocks at most): translated by requester `r`'s cache,
as requests of initiator `init`. -/
def State.readVa (s : State) (r init asid : Nat) (fuel va n : Nat) : State × Got :=
  match fuel with
  | 0 => (s, .bytes [] false)
  | k + 1 =>
    if n = 0 then (s, .bytes [] false)
    else
      let w := blockRun va n
      match s.locate r asid va false with
      | (s, none) => (s, .later)
      | (s, some p) =>
        match s.readPlace init p w va with
        | (s, .bytes l b) =>
          match s.readVa r init asid k (va + w) (n - w) with
          | (s, .bytes l' b') => (s, .bytes (l ++ l') (b || b'))
          | x => x
        | x => x

/-- Blocks that `n` bytes touch, at most. -/
def blockFuel (n : Nat) : Nat := n / 256 + 2

/-- Reads `n` bytes of a virtual address range for a requester. -/
def State.fetchVa (s : State) (r asid va n : Nat) : State × Got := s.readVa r r asid (blockFuel n) va n

/-- Writes bytes at a stream virtual address for a requester, block by block; blocks before a failing one stay written. -/
def State.writeVa (s : State) (r asid : Nat) (fuel va : Nat) (v : List Byte) (poisoned : Bool := false) : State × Put :=
  match fuel with
  | 0 => (s, .done)
  | k + 1 =>
    match v with
    | [] => (s, .done)
    | _ =>
      let w := blockRun va v.length
      match s.locate r asid va true with
      | (s, none) => (s, .later)
      | (s, some p) =>
        match s.writePlace r p (v.take w) poisoned va with
        | (s, .done) => s.writeVa r asid k (va + w) (v.drop w) poisoned
        | x => x

/-- The place of a device address. -/
def State.devPlace (s : State) (a : Nat) : Place :=
  match s.place a with
  | some (m, o) => .hbm m o
  | none => .bad causePermission

/-- Reads `n` bytes at a device address. -/
def State.readDev (s : State) (init fuel a n : Nat) : State × Got :=
  match fuel with
  | 0 => (s, .bytes [] false)
  | k + 1 =>
    if n = 0 then (s, .bytes [] false)
    else
      let w := blockRun a n
      match s.readPlace init (s.devPlace a) w a with
      | (s, .bytes l b) =>
        match s.readDev init k (a + w) (n - w) with
        | (s, .bytes l' b') => (s, .bytes (l ++ l') (b || b'))
        | x => x
      | x => x

/-- Writes bytes at a device address. -/
def State.writeDev (s : State) (init fuel a : Nat) (v : List Byte) : State × Put :=
  match fuel with
  | 0 => (s, .done)
  | k + 1 =>
    match v with
    | [] => (s, .done)
    | _ =>
      let w := blockRun a v.length
      match s.writePlace init (s.devPlace a) (v.take w) false a with
      | (s, .done) => s.writeDev init k (a + w) (v.drop w)
      | x => x

/-! ## Dropping translations (R182, R545) -/

/-- Drops every cached translation, and every walker entry, that concerns `n` bytes at `va` of an address space, or the
whole space (R182). -/
def State.dropRange (s : State) (asid : Nat) (all : Bool) (va n : Nat) : State :=
  let keepT (t : TlbEntry) : Bool :=
    t.asid != asid || !(all || (t.page * pageSize t.big < va + n && va < (t.page + 1) * pageSize t.big))
  let span (w : WalkEntry) : Nat := match w.level with | 1 => 2 ^ 21 | 2 => 2 ^ 30 | _ => 2 ^ 39
  let keepW (w : WalkEntry) : Bool :=
    w.asid != asid || !(all || (w.index * span w < va + n && va < (w.index + 1) * span w))
  { s with tlbs := (s.tlbs.map (fun p => (p.1, p.2.filter keepT))).filter (fun p => p.2 != []),
           walkers := (s.walkers.map (fun p => (p.1, p.2.filter keepW))).filter (fun p => p.2 != []) }

/-- Drops every translation-cache and walker-cache entry (R545). -/
def State.dropAll (s : State) : State := { s with tlbs := [], walkers := [] }

end Sys2Proof.Machine
end

