-- ==== Sys2Proof/Machine/Wire.lean ====
section
/-! DEFINITION. What leaves the part, and what the floor counts: the network statistics of an initiator (R277), the
choice of a link for a frame (R457), and the transmit side of a link die (R452, R454). -/

namespace Sys2Proof.Machine

/-- A request put on its way to a controller (R266, R277). -/
def State.request (s : State) (r : Req) : State :=
  let n := match r.kind with | .write => 64 * (onesOf r.mask.toNat 4).length | .add => 64 * (onesOf r.mask.toNat 4).length | _ => 0
  (s.countReq r.init.toNat r.sub.toNat r.seq.toNat n).send (.req r)

/-! ## Routes (R457, R458) -/

/-- "No device" (R443). -/
abbrev noDevice : Nat := 0x3FFF

/-- The route entry that frames to a device take: its own, or its understudy's while it is redirected. -/
def State.routeEntry (s : State) (dev : Nat) : W64 :=
  let z := s.zegus
  let e := z.routes.get 0 dev
  if z.redirects.get 0x3FFF dev = 0x3FFF then e else z.routes.get 0 (z.redirects.get 0x3FFF dev).toNat

/-- The UP links of a route entry, ascending. -/
def State.upLinks (s : State) (e : W64) : List Nat :=
  if bitOf e 30 then (onesOf (fld e 0 16) 16).filter (fun l => s.linkOn l && (s.link l).st == .up) else []

/-- The link a frame goes on; none where the device is unreachable. -/
def State.linkFor (s : State) (f : Frame) : Option Nat :=
  let ups := s.upLinks (s.routeEntry f.dst.toNat)
  if ups.isEmpty then none else some (nth ups ((f.src.toNat + f.sid.toNat) % ups.length) 0)

/-! ## The transmit side of a link die (R452, R454) -/

/-- Bytes of a frame (R446). -/
def frameBytes (f : Frame) : Nat := 32 + 64 * (onesOf f.len.toNat 4).length

/-- Room left in the retry buffer of 1 MiB. -/
def Link.fits (l : Link) (f : Frame) : Bool := (l.buffer.map frameBytes).sum + frameBytes f ≤ 2 ^ 20

/-- Virtual channels in the order a transmit slot picks them: VERDICT, TOKEN, BARRIER, DATA. -/
def vcOrder : List Nat := [2, 1, 3, 0]

/-- The CRED field that returns the credits owed, up to 255 for each channel (R452). -/
def Link.credField (l : Link) : BitVec 32 :=
  BitVec.ofNat 32 ((List.range 4).foldl (fun n v => n + min (l.owedCred.get 0 v) 255 * 2 ^ (8 * v)) 0)

/-- The credits still owed after a CRED field has left. -/
def Link.owedLeft (l : Link) : Map Nat :=
  (List.range 4).foldl (fun m v => Map.set m 0 v (l.owedCred.get 0 v - 255)) l.owedCred

/-- The next frame the die sends: the first of the highest-priority channel that has a frame and a credit. -/
def Link.pick (l : Link) : Option Frame :=
  vcOrder.findSome? (fun v =>
    if 0 < l.credits.get 0 v then (l.waiting.find? (fun f => f.vc.toNat == v)).filter l.fits else none)

/-- One transmit slot: the frame takes the next LSEQ and stays in the retry buffer until a LACK passes it. -/
def Link.sendOne (l : Link) (f : Frame) : Link :=
  let v := f.vc.toNat
  let out := { f with lseq := l.txSeq, lack := l.rxSeq, cred := l.credField }
  { l with waiting := dropFirst l.waiting f, buffer := l.buffer ++ [out], txSeq := l.txSeq + 1,
           credits := l.credits.set 0 v (l.credits.get 0 v - 1), owedCred := l.owedLeft }

/-- Sends every waiting frame that credits and the retry buffer allow, while the link is UP. -/
def Link.pump (l : Link) (fuel : Nat) : Link :=
  match fuel with
  | 0 => l
  | k + 1 =>
    if l.st = .up then match l.pick with
      | none => l
      | some f => (l.sendOne f).pump k
    else l

/-- Lets a link die send what it can. -/
def State.pumpLink (s : State) (n : Nat) : State :=
  let l := s.link n
  s.setLink n (l.pump l.waiting.length)

/-- A record about a link die: it is given to the die's first lane (R313 has no class for a die). -/
def recLink (code l : Nat) : Rec := recOf code 7 (18 * l)

/-- Statuses of an ACK frame (R451). -/
def ackCode (a : AckStatus) : Nat :=
  match a with
  | .ok => 0
  | .permission => 1
  | .pcFrozen => 2
  | .refused => 3
  | .poisoned => 5
  | _ => 3

/-- The status an ACK frame's code stands for at the source; UNREACHABLE halts as REFUSED does, and so do reserved codes. -/
def ackStatusOf (code : Nat) : AckStatus :=
  match code with
  | 0 => .ok
  | 1 => .permission
  | 2 => .pcFrozen
  | 5 => .poisoned
  | _ => .refused

/-- An ACK frame that answers a frame, with a status code; it returns the frame's EPOCH (R272, R447, R451). -/
def ackOf (own : BitVec 14) (f : Frame) (code : Nat) : Frame :=
  { dst := f.src, src := own, vc := 1, type := 0x4, ttl := 15, len := 0, vstate := 0, epoch := f.epoch, lseq := 0, lack := 0,
    cred := 0, sid := f.sid, tseq := f.tseq, addr := BitVec.ofNat 48 code, data := [] }

/-- Whether an unreachable frame is answered: PUT, RING or GET_REQ (R458). -/
def answered (f : Frame) : Bool := f.type == 0x0 || f.type == 0x1 || f.type == 0x3

/-- The stack number that marks parts of a transaction that are not in HBM: host memory behind port or half q, the
partner, a peer. -/
abbrev atHost (q : Nat) : Nat := 64 + q
abbrev atPartner : Nat := 80
abbrev atPeer : Nat := 96

/-- The acknowledgement a peer's answer becomes at a stream engine of this device (R158: stream ID 8n + c). -/
def peerAck (sid : BitVec 16) (tseq : W32) (st : AckStatus) (epoch : Byte := 0) : Ack :=
  { init := BitVec.ofNat 12 (seInit (sid.toNat / 8)), sub := BitVec.ofNat 4 (sid.toNat % 8), seq := tseq, stack := atPeer,
    block := 0, status := st, epoch }

/-- A frame with no way out (R458): a record, and for a PUT, RING or GET_REQ of this device its stream is told; the answer
to another device goes by its own route, and is dropped where it has none. -/
def State.unreachable (s : State) (f : Frame) : State :=
  let s := s.raise { recOf cZlUnreachable 11 0 with detail := f.dst.toNat }
  if answered f then
    if f.src = s.devId then s.send (.ack (peerAck f.sid f.tseq .refused f.epoch))
    else
      let a := ackOf s.devId f 4
      match s.linkFor a with
      | none => s
      | some l => (s.setLink l { s.link l with waiting := (s.link l).waiting ++ [a] }).pumpLink l
  else s

/-- A frame sent from this device or forwarded by it: onto the link its route gives. -/
def State.sendFrame (s : State) (f : Frame) : State :=
  match s.linkFor f with
  | none => s.unreachable f
  | some l => (s.setLink l { s.link l with waiting := (s.link l).waiting ++ [f] }).pumpLink l

/-- A frame of this device before its fields are filled in. -/
def newFrame (own : BitVec 14) (dst vc type len sid tseq addr : Nat) (data : List Byte) : Frame :=
  { dst := BitVec.ofNat 14 dst, src := own, vc := BitVec.ofNat 2 vc, type := BitVec.ofNat 4 type, ttl := 15,
    len := BitVec.ofNat 4 len, vstate := 0, epoch := 0, lseq := 0, lack := 0, cred := 0, sid := BitVec.ofNat 16 sid,
    tseq := BitVec.ofNat 32 tseq, addr := BitVec.ofNat 48 addr, data := data }

/-! ## Trailing verdicts (R284, R285) -/

/-- The piece that carries a VERDICT body. -/
def verdictPiece (v : VerdictBody) : List Byte :=
  fit 0 64 (leBytes 4 v.first.toNat ++ leBytes 4 v.last.toNat ++ [BitVec.ofNat 8 v.outcome.toNat])

/-- The VERDICT of a stream's block goes by the links to the receiving context its descriptor names (R285). -/
def State.sendVerdict (s : State) (n c : Nat) (desc : List Byte) (count : Nat) (outcome : BitVec 2) : State :=
  let peer := field desc 0x58 8
  let v : VerdictBody := { se := peer % 1024 - 512, ctx := bits peer 10 3, first := 0, last := BitVec.ofNat 32 (count - 1),
                           outcome := outcome }
  let dev := field desc 0x52 2 % 2 ^ 14
  s.sendFrame (newFrame s.devId dev 2 0x7 1 (8 * n + c) 0 (peer % 2 ^ 13) (verdictPiece v))

end Sys2Proof.Machine
end

