-- ==== Sys2Proof/Machine/Floor.lean ====
section
/-! DEFINITION. The grid of the floor network (R262–R264, R268, R271, R272, R276): where each initiator stands, the route
of a packet, its time without contention, and the header of a request. No command moves a packet from router to router:
it arrives with its own command, so these say what a packet carries and which way it goes, and change no state. -/

namespace Sys2Proof.Machine

/-- A local port: x, y and the port code (R264). -/
abbrev FloorPort := Nat × Nat × Nat

/-- The port of stack `m` that serves pseudo-channel `p` (R263), at port code `k`. -/
def memPlace (m p k : Nat) : FloorPort := (nth [3, 7, 13, 17, 23, 27] (m % 6) 3 + p / 16, 17 * flag (6 ≤ m), k)

/-- The edge position of gateway `g` (R263). -/
def gwPlace (g : Nat) : FloorPort :=
  let r := gwRouter g
  if g < 8 then (r.1, 0, 0) else if g < 16 then (r.1, 17, 0) else if g < 22 then (0, r.2, 0) else (33, r.2, 0)

/-- The edge position of link die `l` (R263). -/
def linkPlace (l : Nat) : FloorPort := (33 * flag (8 ≤ l), nth [2, 3, 4, 5, 12, 13, 14, 15] (l % 8) 2, 0)

/-- Where an initiator injects (R263, R264, R276); none for a reserved ID. A memory-side engine's jobs and a controller use the
port of the pseudo-channel `p` concerned. -/
def initPlace (i : Nat) (p : Nat := 0) : Option FloorPort :=
  if i < 0x200 then some (i % 32 + 1, i / 32 + 1, 0)
  else if i < 0x300 then some ((seRouter (i - 0x200)).1, (seRouter (i - 0x200)).2, 1)
  else if i < 0x330 then some (memPlace ((i - 0x300) / 4) p 1)
  else if i < 0x33C then some (memPlace (i - 0x330) p 1)
  else if 0x340 ≤ i && i < 0x348 then some (16, 8, 3)
  else if 0x350 ≤ i && i < 0x354 then
    some (nth [8, 24] (i % 2) 8, nth [4, 12] ((i - 0x350) / 2) 4, 4)
  else if 0x360 ≤ i && i < 0x370 then some (linkPlace (i - 0x360))
  else if 0x370 ≤ i && i < 0x374 then some (33 * flag (i % 2 = 1), 7, flag (0x372 ≤ i))
  else if i = 0x378 then some (0, 8, 0)
  else if 0x380 ≤ i && i < 0x39C then some (gwPlace (i - 0x380))
  else if 0x3A0 ≤ i && i < 0x3AC then some (memPlace (i - 0x3A0) p 0)
  else none

/-! ## Routers and links (R262, R264) -/

/-- Whether a position of the grid holds a router: all but the corners (R262). -/
def isRouter (x y : Nat) : Bool := x ≤ 33 && y ≤ 17 && !((x == 0 || x == 33) && (y == 0 || y == 17))

/-- The number of the router at a position, as records name it (R313). -/
def routerAt (x y : Nat) : Nat := 34 * y + x

/-- The router that the link on side `d` of a router leads to, 0 north, 1 east, 2 south, 3 west: every neighbour of a tile router,
and from an edge router its entry router alone (R262). -/
def neighbour (x y d : Nat) : Option (Nat × Nat) :=
  let next : Option (Nat × Nat) :=
    if d = 0 then (if 0 < y then some (x, y - 1) else none)
    else if d = 1 then some (x + 1, y)
    else if d = 2 then some (x, y + 1)
    else if d = 3 then (if 0 < x then some (x - 1, y) else none)
    else none
  next.filter (fun q => isRouter x y && isRouter q.1 q.2
    && ((1 ≤ x && x ≤ 32 && 1 ≤ y && y ≤ 16) || (1 ≤ q.1 && q.1 ≤ 32 && 1 ≤ q.2 && q.2 ≤ 16)))

/-- Whether number `l`, 4 × the router's number + the side, names a link. -/
def isLink (l : Nat) : Bool := (neighbour (l / 4 % 34) (l / 4 / 34) (l % 4)).isSome

/-- Whether a local port exists: what each router holds (R263, R264). -/
def portExists (q : FloorPort) : Bool :=
  let (x, y, k) := q
  if !isRouter x y then false
  else if 1 ≤ x && x ≤ 32 && 1 ≤ y && y ≤ 16 then
    k = 0 || (k = 1 && y % 2 = 1) || k = 2 || (k = 3 && (x = 16 || x = 17) && (y = 8 || y = 9))
      || (k = 4 && (x = 8 || x = 24) && (y = 4 || y = 12))
  else if y = 0 || y = 17 then k = 0 || (k = 1 && (3 ≤ x % 10 || x % 10 = 0) && 3 ≤ x && x ≤ 30)
  else (k = 0 && !(x = 33 && y = 8)) || (k = 1 && y = 7)

/-- Whether what stands at a port is there in this variant: the stacks and link dies that are populated (R16, R263). -/
def State.portPopulated (s : State) (q : FloorPort) : Bool :=
  portExists q
    && (List.range 12).all (fun m => s.stackOn m || (List.range 4).all (fun k =>
      (memPlace m (16 * k) 0).1 != q.1 || (memPlace m (16 * k) 0).2.1 != q.2.1))
    && (List.range 16).all (fun l => s.linkOn l || (linkPlace l).1 != q.1 || (linkPlace l).2.1 != q.2.1)

/-- Whether a position is on the edge; its stub leads to the entry router beside it (R262). -/
def onEdge (p : FloorPort) : Bool := p.1 = 0 || p.1 = 33 || p.2.1 = 0 || p.2.1 = 17

/-- The entry router of a position: its own for a tile router (R262). -/
def entryOf (p : FloorPort) : Nat × Nat := (min (max p.1 1) 32, min (max p.2.1 1) 16)

/-- The distance of two coordinates. -/
def apart (a b : Nat) : Nat := a - b + (b - a)

/-- Grid hops from one position to another: along X, then along Y (R268). -/
def hops (a b : FloorPort) : Nat := apart (entryOf a).1 (entryOf b).1 + apart (entryOf a).2 (entryOf b).2

/-- The `k`-th tile router a packet passes: X first, then Y, with no turn back (R268, R270). -/
def routeAt (a b : FloorPort) (k : Nat) : Nat × Nat :=
  let f := entryOf a
  let t := entryOf b
  let along (x y n : Nat) : Nat := if x ≤ y then x + n else x - n
  let dx := apart f.1 t.1
  if k ≤ dx then (along f.1 t.1 k, f.2) else (t.1, along f.2 t.2 (k - dx))

/-- CK_NET cycles of a packet without contention (R271). -/
def zeroLoad (a b : FloorPort) : Nat := (if onEdge a then 6 else 1) + 2 * hops a b + (if onEdge b then 6 else 1)

/-! ## Kinds, networks and virtual channels (R265–R267) -/

/-- The kinds of packet (R266). -/
inductive PacketKind where
  | rdReq | wrReq | addReq | rdResp | ack | token | credit | verdict | syncOp | syncResp | step | absent | record | mgmtReq | mgmtResp
deriving DecidableEq, Repr

/-- KIND of a packet (R266). -/
def PacketKind.code : PacketKind → Nat
  | .rdReq => 0x0
  | .wrReq => 0x1
  | .addReq => 0x2
  | .rdResp => 0x3
  | .ack => 0x4
  | .token => 0x5
  | .credit => 0x6
  | .verdict => 0x7
  | .syncOp => 0x8
  | .syncResp => 0x9
  | .step => 0xA
  | .absent => 0xB
  | .record => 0xC
  | .mgmtReq => 0xD
  | .mgmtResp => 0xD

/-- Whether a kind travels on the wide network (R266). -/
def PacketKind.wide (k : PacketKind) : Bool := k == .wrReq || k == .addReq || k == .rdResp || k == .record

/-- The virtual channels, highest priority first; the wide network has the last two (R265). -/
inductive VChan where
  | verdict | token | resp | req
deriving DecidableEq, Repr

/-- The virtual channel of a kind (R266). -/
def PacketKind.vc : PacketKind → VChan
  | .verdict => .verdict
  | .token => .token
  | .credit => .token
  | .rdResp => .resp
  | .ack => .resp
  | .syncResp => .resp
  | .absent => .resp
  | .mgmtResp => .resp
  | _ => .req

/-- Flits an input buffers for a virtual channel (R265). -/
def bufferFlits (wide : Bool) : Nat := if wide then 4 else 8

/-- The kind of a packet of the model; a scrub is a read on the network, a tree's completion and a cancel broadcast are TOKENs. -/
def Packet.kind : Packet → PacketKind
  | .token _ _ _ => .token
  | .arrive _ _ _ _ => .token
  | .syncOp _ _ _ _ _ => .syncOp
  | .syncResp _ _ => .syncResp
  | .image _ _ _ => .syncResp
  | .credit _ _ _ _ => .credit
  | .absent _ => .absent
  | .req r => match r.kind with
    | .write => .wrReq
    | .add => .addReq
    | _ => .rdReq
  | .resp _ => .rdResp
  | .ack a => if a.status = .absent then .absent else .ack
  | .cancelled _ _ _ _ => .token

/-- A flit that waits at an output of a router: its virtual channel, the input it came by, and the cycles it has waited. -/
structure Waiting where
  vc    : VChan
  input : Nat
  age   : Nat
deriving DecidableEq, Repr

/-- The first input from `turn` on, round-robin over a router's inputs, four links and five local ports, that has a flit among `l`. -/
def roundRobin (l : List Waiting) (turn : Nat) : Option Waiting :=
  (List.range 9).findSome? (fun k => l.find? (fun w => w.input == (turn + k) % 9))

/-- The flit an output sends in a CK_NET cycle: one that has waited 64 cycles before any other, else one of the highest-priority
channel that has a flit and, at the next router, a credit; round-robin among inputs (R267). Of several that have waited 64 cycles the
first listed goes, and the inputs are numbered, links first, from 0 to 8 (DESIGN CHOICE: R267 gives neither). -/
def arbitrate (l : List Waiting) (credit : VChan → Bool) (turn : Nat) : Option Waiting :=
  let l := l.filter (fun w => credit w.vc)
  match l.find? (fun w => 64 ≤ w.age) with
  | some w => some w
  | none => [VChan.verdict, .token, .resp, .req].findSome? (fun c => roundRobin (l.filter (fun w => w.vc == c)) turn)

/-! ## The header (R272) -/

/-- What a header says beside where its packet goes. -/
structure HeaderFields where
  kind   : PacketKind
  cls    : Nat := 0
  vcrit  : Bool := false
  mask   : Nat := 0
  init   : Nat := 0
  sub    : Nat := 0
  seq    : Nat := 0
  epoch  : Nat := 0
  vstate : Nat := 0
deriving DecidableEq, Repr

/-- The initiator ID of what a packet names as its source: a unit, the Caller or a gateway (R276); the home of a sync object, a tile's
sync store, is taken as that tile (DESIGN CHOICE: R276 gives a sync store no ID of its own). -/
def sourceInit (src : Nat) : Nat :=
  if src < 2048 then
    let u := unitOf src
    if u < 512 then u else if u < 768 then 0x200 + (u - 512) else 0x330 + (u - 768)
  else if 0x4000 ≤ src && src < 0x4008 then 0x340 + (src - 0x4000)
  else match gwOfSource src with
    | some g => 0x380 + g
    | none => if 0x10000 ≤ src && src < 0x10200 then src - 0x10000 else 0

/-- The fields of a packet of the model: a response returns INIT, SUB, SEQ and EPOCH unchanged. -/
def Packet.fields (p : Packet) : HeaderFields :=
  match p with
  | .req r => { kind := p.kind, cls := r.cls.toNat, vcrit := r.vcrit, mask := r.mask.toNat, init := r.init.toNat, sub := r.sub.toNat,
                seq := r.seq.toNat, epoch := r.epoch.toNat, vstate := 2 * flag r.poisoned }
  | .resp r => { kind := p.kind, mask := r.mask.toNat, init := r.init.toNat, sub := r.sub.toNat, seq := r.seq.toNat,
                 epoch := r.epoch.toNat, vstate := r.vstate.toNat }
  | .ack a => { kind := p.kind, init := a.init.toNat, sub := a.sub.toNat, seq := a.seq.toNat, epoch := a.epoch.toNat }
  | .token src _ _ => { kind := p.kind, init := sourceInit src }
  | .credit src _ _ _ => { kind := p.kind, init := sourceInit src }
  | .cancelled _ e _ _ => { kind := p.kind, init := 0x340 + e }
  | .absent ub => { kind := p.kind, init := sourceInit ub }
  | .arrive a _ _ _ => { kind := p.kind, init := (agentInit a).1, sub := (agentInit a).2 }
  | .syncOp a _ _ _ _ => { kind := p.kind, init := (agentInit a).1, sub := (agentInit a).2 }
  | .syncResp a _ => { kind := p.kind, init := (agentInit a).1, sub := (agentInit a).2 }
  | .image a _ _ => { kind := p.kind, init := (agentInit a).1, sub := (agentInit a).2 }

/-- Bits [111:0] of a header. -/
def headerBits (h : HeaderFields) (src dst : FloorPort) : BitVec 112 :=
  BitVec.ofNat 112 (dst.1 + 2 ^ 6 * dst.2.1 + 2 ^ 11 * dst.2.2 + 2 ^ 14 * src.1 + 2 ^ 20 * src.2.1 + 2 ^ 25 * src.2.2
    + 2 ^ 28 * h.cls + 2 ^ 30 * flag h.vcrit + 2 ^ 32 * h.kind.code + 2 ^ 36 * h.mask
    + 2 ^ 40 * h.init + 2 ^ 52 * h.sub + 2 ^ 56 * h.seq + 2 ^ 88 * h.epoch + 2 ^ 96 * h.vstate)

/-- A packet's whole header, HCRC above its bits [111:0]: the spec names no polynomial of that CRC-16. -/
def Packet.header (p : Packet) (src dst : FloorPort) : BitVec 128 :=
  let h := headerBits p.fields src dst
  BitVec.ofNat 128 (h.toNat + 2 ^ 112 * (Config.headerCrc h).toNat)

/-- Whether a header passes HCRC at a router (R274). -/
def headerOk (h : BitVec 128) : Bool := fld h 112 16 == (Config.headerCrc (BitVec.ofNat 112 h.toNat)).toNat

/-- Whether a flit passes its CRC at ejection: CRC-32C over body and payload on the wide network, CRC-16 over the body on the
narrow one (R265, R274). -/
def flitOk (k : PacketKind) (body payload : List Byte) (crc : BitVec 32) : Bool :=
  if k.wide then crc32c (body ++ payload) == crc.toNat else (Config.bodyCrc body).toNat == crc.toNat

/-- The answer packets of a virtual channel from the same memory port to the same initiator's port as `p` (R269): they arrive in
the order sent. -/
def State.sameWay (s : State) (p q : Packet) : Bool :=
  let port (stack block : Nat) : Nat × Nat := (stack, s.servingPc stack block / 16)
  match p, q with
  | .resp x, .resp y => x.init == y.init && port x.stack x.block == port y.stack y.block
  | .ack x, .ack y => x.init == y.init && port x.stack x.block == port y.stack y.block
  | _, _ => false

/-- A flit that failed its CRC at ejection, at a local port (R274, R279). -/
def State.netCrc (s : State) (q : FloorPort) : State := s.raise (recOf cNetCrc 9 (routerAt q.1 q.2.1))

/-- Whether a response arrives POISONED that left clean: it failed its CRC at ejection (R274). -/
def State.respSpoiled (s : State) (r : Resp) : Option Resp :=
  if r.vstate = 2 && !s.net.contains (.resp r) then
    s.net.findSome? (fun p => match p with
      | .resp x => if { x with vstate := 2, bads := 15 } == r then some x else none
      | _ => none)
  else none

/-- A response is taken off the network, with a record where its flit failed. -/
def State.takeResp (s : State) (r : Resp) : State :=
  match s.respSpoiled r with
  | some x => (s.take (.resp x)).netCrc ((initPlace r.init.toNat).getD (0, 0, 0))
  | none => s.take (.resp r)

/-- A request is taken off the network, with a record where the flit of its write data failed. -/
def State.takeReq (s : State) (r : Req) : State :=
  let clean : Packet := .req { r with poisoned := false }
  if r.poisoned && !s.net.contains (.req r) && s.net.contains clean then
    (s.take clean).netCrc (memPlace r.stack (s.servingPc r.stack r.block) 0)
  else s.take (.req r)

end Sys2Proof.Machine
end

