-- ==== Sys2Proof/Machine/Drain.lean ====
section
/-! DEFINITION. The release journal (R300), the freeing of accumulator blocks (R89), the landing ring of a stream
context (R169, R286), and how streams, jobs and waiting steps settle when they are cancelled or stopped (R186, R191,
R230, R290). -/

namespace Sys2Proof.Machine

/-- The opcode of a step word (R42). -/
def opOf (w : W128) : Nat := fld w 120 8

/-! ## The release journal -/

/-- The tile's next journal entry (R300): the store takes it with the seven others of its line, once that is full (R135). -/
def Tile.journalise (t : Tile) (e : Nat) : Tile :=
  let l := t.jbuf ++ [BitVec.ofNat 64 e]
  let t := { t with jnext := (t.jnext + 1) % 65536, jsince := t.jsince + 1,
                    walked := { t.walked with entries := t.walked.entries + 1 } }
  if l.length < 8 then { t with jbuf := l }
  else { t with jbuf := [], journal := Map.setAll t.journal 0 ((t.jnext + 65528) % 65536) l }

/-- The journal with the entries of the line that is not yet full, in index order. -/
def Tile.entries (t : Tile) : List W64 :=
  let j := Map.setAll t.journal 0 ((t.jnext + 65536 - t.jbuf.length) % 65536) t.jbuf
  Map.getAll j 0 0 65536

/-- A PASS entry (R300). -/
def passEntry (pseq acc : Nat) (accum suspect : Bool) (emit bar : Nat) : Nat :=
  1 + pseq % 65536 * 2 ^ 2 + 2 ^ 18 * acc + 2 ^ 21 * flag accum + 2 ^ 22 * flag suspect + 2 ^ 23 * emit
    + 2 ^ 39 * (bar % 2 ^ 25)

/-- A RELEASE entry; `path` 0 vector unit, 1 DRAIN, 2 stream, 3 early send (R300). -/
def releaseEntry (pseq acc : Nat) (freed suspect : Bool) (amask path dest : Nat) : Nat :=
  2 + pseq % 65536 * 2 ^ 2 + 2 ^ 18 * acc + 2 ^ 21 * flag freed + 2 ^ 22 * flag suspect + 2 ^ 23 * amask
    + 2 ^ 27 * path + 2 ^ 39 * (dest % 2 ^ 11)

/-- A WALK entry (R300). -/
def walkEntry (pseq : Nat) (fail : Bool) : Nat := 3 + pseq % 65536 * 2 ^ 2 + 2 ^ 18 * flag fail

def Tile.block (t : Tile) (b : Nat) : AccBlock := t.blocks.get {} b
def Tile.setBlock (t : Tile) (b : Nat) (v : AccBlock) : Tile := { t with blocks := t.blocks.set {} b v }

/-- The release of an accumulator block (R89, R300, R301): a journal entry; a SUSPECT block raises SUSPECT_RELEASE; a
read that frees the block returns its BINDING credits and marks it EMPTY; READING ends. PENDING and FAILED, which passes fired since
the read was requested have made, stand (R87). -/
def State.release (s : State) (tile ub b amask path dest : Nat) (freed : Bool) : State :=
  let t := s.tile tile
  let v := t.block b
  let t := t.journalise (releaseEntry v.last b freed v.suspect amask path dest)
  let t := t.setBlock b (if freed then { reading := v.reading - 1, pending := v.pending, failed := v.failed } else { v with reading := v.reading - 1 })
  let s := s.setTile tile t
  let s := if freed && 0 < v.count then s.send (.credit (tile + 1024 * bankOf ub) (tile + 1024 * bankOf ub) v.pool v.count) else s
  if v.suspect then s.raise { recOf cSuspectRelease 0 tile with ens := s.ensOf ub, pseq := v.last } else s

/-! ## The landing ring of a context -/

/-- The number of ring slots that are not FREE: RESERVED plus LANDED, with PENDING and POISONED counted as reserved
(R169, R286). -/
def Ctx.used (c : Ctx) : Nat := c.slots.length

/-- The number of LANDED slots. -/
def Ctx.landed (c : Ctx) : Nat := (c.slots.filter (fun p => p.2 == .landed)).length

/-- Free ring slots (R169). -/
def Ctx.freeSlots (c : Ctx) : Nat := c.ringSlots - c.used

/-- The tile of the pair that a context's TSEL names (R155). -/
def selTile (n : Nat) (tsel : Bool) : Nat := n / 32 * 64 + n % 32 + 32 * flag tsel

/-- The ring slot of the stream's transaction `t`: the stream's first slot on, around the ring. -/
def Ctx.slotFor (c : Ctx) (t : Nat) : Nat := if c.ringSlots = 0 then 0 else (c.first + t) % c.ringSlots

/-- The tile-store byte where a ring slot begins: the ring's first line, 256 bytes a slot. -/
def Ctx.slotByte (c : Ctx) (k : Nat) : Nat := c.ringBase * 64 + k * 256

/-! ## The fired step of a context or a job -/

/-- Whether a fired step is the STREAM of context `c`. -/
def isStreamOf (c : Nat) (f : Fired) : Bool := opOf f.q.word == 0x61 && fld f.q.word 6 3 == c && f.acted

/-- Whether a fired step is the MRUN of job slot `j` (operands [7:6]: the job slot). -/
def isRunOf (j : Nat) (f : Fired) : Bool := opOf f.q.word == 0x91 && fld f.q.word 6 2 == j && f.acted

/-- Ends the fired step that satisfies `p` without tokens; nothing where there is none. -/
def State.abandonStep (s : State) (ub : Nat) (p : Fired → Bool) : State :=
  match s.firedStep ub p with
  | none => s
  | some f => s.abandon ub f

/-- Completes the fired step that satisfies `p`. -/
def State.finishStep (s : State) (ub : Nat) (p : Fired → Bool) : State :=
  match s.firedStep ub p with
  | none => s
  | some f => s.finish ub f

/-! ## Draining a stream (R186, R290) -/

/-- A DRAINING context whose last transaction has retired: its ring is emptied, it becomes IDLE, and its step ends
without tokens (R186). The grants it holds are forgotten with its ring (DESIGN CHOICE: the rule names the ring's state only). -/
def State.endDrain (s : State) (n c : Nat) : State :=
  let v := s.ctx n c
  if v.st = .draining && v.outs.isEmpty then
    let s := s.setCtx n c { v with
      st := .idle, slots := [], tail := 0, wr := 0, rd := 0, next := 0, low := 0, redo := [],
      done := [], cause := 0, failAddr := 0, halting := false, resuming := false, parked := false, grants := [],
      flushTs := [], unfinished := [], ahead := [], pendMode := false, verdicts := [], unsettled := [], spoiled := false, held := [], critical := 0, stalled := false, began := false }
    s.abandonStep v.ub (isStreamOf c)
  else s

/-- The blocks that a context has sent early and that are not settled, as it is cancelled or stopped: CANCELLED goes for every one
whose VERDICT is outstanding (R290), and a read whose stream has ended ends with FREED 0 (R186). -/
def State.cancelUnsettled (s : State) (n c : Nat) : State :=
  let v := s.ctx n c
  let s := v.unsettled.foldl (fun s x =>
    let s := if x.failed then s else s.sendVerdict n c x.desc x.count 2
    if x.live || x.owed != [] then s else s.release x.tile x.ub x.acc x.amask.toNat 3 (8 * n + c) false) s
  s.setCtx n c { s.ctx n c with unsettled := [] }

/-- The wait of a halted stream at its sync object ends: it leaves the object's waiter slots, and no message of it is left on its
way (R185, R191). -/
def State.dropRsync (s : State) (n c : Nat) : State :=
  let a := Agent.stream n c
  let clean (o : SyncObj) : SyncObj := { o with waiters := o.waiters.filter (· != a) }
  let mine (p : Packet) : Bool := match p with
    | .syncOp b _ _ _ _ => b == a
    | .syncResp b _ => b == a
    | _ => false
  { s with sync := (s.sync.map (fun p => (p.1, clean p.2))).filter (fun p => p.2 != {}),
           slotWaits := s.slotWaits.filter (fun p => p.1 != a), net := s.net.filter (fun p => !mine p) }

/-- A stream whose group is cancelled, or whose ensemble stops (R186): it issues nothing further; outstanding
transactions land void; a HALTED stream discards its position; an accumulator read that has begun leaves a RELEASE
entry with FREED 0. -/
def State.drainCtx (s : State) (n c : Nat) : State :=
  let v := s.ctx n c
  if v.st = .active || v.st = .halted then
    let tile := selTile n v.tsel
    let accSrc := field v.desc 2 1 == 1
    let s := if accSrc && v.began then
        s.release tile v.ub v.acc v.amask.toNat (if v.early then 3 else 2) (8 * n + c) false
      else s
    let s := s.cancelUnsettled n c
    let s := if v.st = .halted then s.dropRsync n c else s
    let s := s.setCtx n c { v with st := .draining, redo := [], halting := false, resuming := false, parked := false,
                                   cause := 0, began := false, unsettled := [], held := [] }
    s.endDrain n c
  else if v.st = .idle && v.unsettled != [] then s.cancelUnsettled n c
  else s

/-! ## Ending a job (R230) -/

/-- A job whose group is cancelled, or whose ensemble stops: it issues nothing further, its saved position is
discarded, and its step ends without tokens. -/
def State.cancelJob (s : State) (m j : Nat) : State :=
  let v := s.job m j
  if v.state = 0 then s
  else
    let s := s.setJob m j {}
    s.abandonStep v.ub (isRunOf j)

/-- Whether a fired step is a STREAM or an MRUN that has not begun. -/
def unstarted (f : Fired) : Bool := (opOf f.q.word == 0x61 || opOf f.q.word == 0x91) && !f.acted

/-- Drains every context and job of a unit and bank whose fired step satisfies `p`; one that has not begun ends at once. -/
def State.drainUnit (s : State) (ub : Nat) (p : Fired → Bool) : State :=
  let u := unitOf ub
  let s := ((s.bk ub).fired.filter (fun f => unstarted f && p f)).foldl (fun s f => s.abandon ub f) s
  match unitKind u with
  | .stream => (List.range 8).foldl (fun s c =>
      if (s.ctx (u - 512) c).ub = ub && (s.firedStep ub (fun f => isStreamOf c f && p f)).isSome
      then s.drainCtx (u - 512) c else s) s
  | .memory => (List.range 4).foldl (fun s j =>
      if (s.job (u - 768) j).ub = ub && (s.firedStep ub (fun f => isRunOf j f && p f)).isSome
      then s.cancelJob (u - 768) j else s) s
  | _ => s

/-! ## A stop (R37, R191) -/

/-- Whether a sync object's waiter belongs to ensemble `e`'s units, its Caller context or its streams (R191). -/
def State.agentOf (s : State) (x : Ens) (e : Nat) (a : Agent) : Bool :=
  match a with
  | .unit ub _ => x.has (unitOf ub) && bankOf ub == x.bank
  | .caller c => c == e
  | .stream se c => x.has (512 + se) && bankOf (s.ctx se c).ub == x.bank
  | _ => false

/-- Removes every waiter that belongs to the ensemble from the waiter slots, the waits it would send again and those on their way
(R191); an arrival on its way stays. -/
def State.dropWaiters (s : State) (e : Nat) : State :=
  let x := s.en e
  let clean (o : SyncObj) : SyncObj := { o with waiters := o.waiters.filter (fun a => !s.agentOf x e a) }
  { s with sync := (s.sync.map (fun p => (p.1, clean p.2))).filter (fun p => p.2 != {}),
           slotWaits := s.slotWaits.filter (fun p => !s.agentOf x e p.1),
           net := s.net.filter (fun p => match p with
             | .syncOp a _ 1 _ _ => !s.agentOf x e a
             | _ => true) }

/-- Whether a fired step ends with the stop of its ensemble rather than by its own work: a WAIT at a sync object (OP 1, bits
[18:16] of its operands) or a MODE barrier, or a fetch that waits for a page. -/
def endsAtStop (f : Fired) : Bool :=
  opOf f.q.word == 0x01 || (opOf f.q.word == 0x03 && fld f.q.word 16 3 == 1) || f.waiting

/-- Drains every context of a unit and bank, whatever it is at: one that has a stream, one whose streams have ended with a block not
settled, and one that a takeover has restored HALTED (R186, R290). -/
def State.drainAll (s : State) (ub : Nat) : State :=
  match unitKind (unitOf ub) with
  | .stream => (List.range 8).foldl (fun s c =>
      if (s.ctx (unitOf ub - 512) c).ub = ub then s.drainCtx (unitOf ub - 512) c else s) s
  | .memory => (List.range 4).foldl (fun s j =>
      if (s.job (unitOf ub - 768) j).ub = ub then s.cancelJob (unitOf ub - 768) j else s) s
  | _ => s

/-- A stop at one member: queued steps are discarded, waiting steps end, streams drain, jobs end. -/
def State.stopUnit (s : State) (ub : Nat) : State :=
  let s := s.setBk ub { s.bk ub with queue := [], fired := (s.bk ub).fired.filter (fun f => !endsAtStop f) }
  (s.drainUnit ub (fun _ => true)).drainAll ub

/-- The Caller's part and the members' part of a stop (R37). -/
def State.stopEns (s : State) (e : Nat) : State :=
  let x := s.en e
  let s := s.dropWaiters e
  let s := x.ubs.foldl State.stopUnit s
  s.setEn e { s.en e with stopping := true, fetched := none, halt := none, live := [], figs := [], figBuf := [],
                          markAt := none, brRelease := false, brWaiting := false, brDepth := none }

/-- Whether a member reports idle: no fired step, no context or job at work, no repair under way (R37, R292). -/
def State.unitIdle (s : State) (ub : Nat) : Bool :=
  let u := unitOf ub
  (s.bk ub).fired.isEmpty &&
  (match unitKind u with
  | .tile => (s.tile u).repair == .none
  | .stream => (List.range 8).all (fun c => (s.ctx (u - 512) c).ub != ub || (s.ctx (u - 512) c).st == .idle)
  | .memory => (List.range 4).all (fun j => (s.job (u - 768) j).ub != ub || (s.job (u - 768) j).state == 0)
  | .none => true)

end Sys2Proof.Machine
end

