-- ==== Sys2Proof/Machine/Choreo.lean ====
section
/-! DEFINITION. The choreography as the Caller and the host see it (R28–R41, R50–R61): loading and starting, the route
section, fetching and dealing bars, figures and branches, cancel groups, stops and the end. -/

namespace Sys2Proof.Machine

/-! ## Host commands in general (R426, R428) -/

/-- A host command: it begins, and then has its effect; one that a FENCE holds back is not begun (R428). -/
def State.command (s : State) (h : Issuer) (f : State → State) : Result :=
  if s.mayBegin h then .next (f (s.begin h)) else .next s

/-- Completes a command with a status and nothing else. -/
def State.answer (s : State) (h : Issuer) (op st : Nat) : State := s.complete h op st

/-- Whether the issuer may command ensemble `e`: a physical function, or a virtual function one of whose channels is
bound to it (R426). -/
def State.mayCommand (s : State) (h : Issuer) (e : Nat) : Bool := !s.isVf h.chan || s.vfOwns h.chan e

/-- The address space of a channel's entry (R424). -/
def State.chanAsid (s : State) (c : Nat) : Nat := bits (field (s.chan c).entry 0 4) 11 10

/-- The ensemble a channel's entry binds it to; none where it is not bound (R424). -/
def State.chanEns (s : State) (c : Nat) : Option Nat :=
  let w := field (s.chan c).entry 0 4
  if bit w 7 then some (bits w 8 3) else none

/-! ## LOAD_CHOREOGRAPHY (R30) -/

/-- The translation cache of the host die a channel's commands come through: H0 for port A, H1 for port B (R181). -/
def State.hostTlb (s : State) (c : Nat) : Nat := if s.chanPort c < 2 then 0x370 else 0x371

/-- Check 3 of R30. An ENSEMBLE byte above 7, which names no ensemble and which no check names, is MALFORMED here too
(DESIGN CHOICE). -/
def prologueOk (p : List Byte) (asid : Nat) : Bool :=
  checkOk p 0xFFC && field p 0 4 == 0xA8C02E61 && field p 4 2 == 1 && field p 6 1 < 8
    && !bit (field p 8 1) 3 && field p 9 1 == 0 && field p 0xA 2 == asid && zeroAt p 0xC 4 && zeroAt p 0x28 24
    && zeroAt p 0xC0 3900 && bits (field p 0x40 128) 780 244 == 0

/-- The shard bank an ensemble number runs in: the device's own, or by its half once both shards run (R462, R463). -/
def State.loadBank (s : State) (e : Nat) : Nat := if s.partner.st = .takenOver then e / 4 % 2 else s.ownBank

/-- The status of a failed prologue read (R30, check 2). -/
def prologueStatus (cause : Nat) : Nat :=
  if cause = causePcFrozen then stPcFrozen else if cause = causeHostErr then stHostErr else stPageFault

/-- The first of checks 3 to 7 of R30 that a prologue fails; none where it passes. -/
def State.prologueFault (s : State) (h : Issuer) (p : List Byte) (asid : Nat) : Option Nat :=
  let e := field p 6 1
  let mem := field p 0x40 128
  let units := onesOf mem 780
  if !prologueOk p asid then some stMalformed
  else if s.isVf h.chan && s.chanEns h.chan != some e then some stDenied
  else if (s.en e).st != .idle then some stNotIdle
  else if units.any (fun u => !(s.unitOn u && s.unitServed u)) then some stUnserved
  else if (List.range 8).any (fun d => d != e && (s.en d).st != .idle && (s.en d).bank == s.loadBank e
      && units.any (fun u => (s.en d).has u)) then some stConflict
  else none

/-- The ensemble a prologue that passes its checks makes LOADED (R30, R35). -/
def loadedEns (bank : Nat) (p : List Byte) (base asid ckpts : Nat) : Ens :=
  { st := .loaded, bank := bank, base := base, asid := asid, entry := field p 0x10 8, routes := field p 0x18 8,
    length := field p 0x20 8, members := BitVec.ofNat 1024 (field p 0x40 128),
    initEpoch := BitVec.ofNat 8 (field p 7 1), initMode := BitVec.ofNat 8 (field p 8 1), ckpts := ckpts }

/-- LOAD_CHOREOGRAPHY once begun: the checks of R30 in their order. -/
def State.load (s : State) (h : Issuer) (base asid : Nat) : State :=
  if s.isVf h.chan && asid != s.chanAsid h.chan then s.answer h 0x03 stDenied
  else match s.fetchVa (s.hostTlb h.chan) asid base 4096 with
    | (s, .bad c _) => s.answer h 0x03 (prologueStatus c)
    | (s, .later) => s
    | (s, .bytes p poisoned) =>
      if poisoned || base % 4096 != 0 then s.answer h 0x03 stMalformed
      else match s.prologueFault h p asid with
        | some st => s.answer h 0x03 st
        | none =>
          let e := field p 6 1
          let s := s.setEn e (loadedEns (s.loadBank e) p base asid (s.en e).ckpts)
          s.answer h 0x03 stOk

/-- Whether the prologue can be read now; a command that needs HBM waits until training ends (R389). -/
def State.prologueReady (s : State) (h : Issuer) (base asid : Nat) : Bool :=
  match s.fetchVa (s.hostTlb h.chan) asid base 4096 with
  | (_, .later) => false
  | _ => true

def execLoadChoreography (h : Issuer) (base : W64) (asid : BitVec 10) (s : State) : Result :=
  if s.prologueReady h base.toNat asid.toNat then s.command h (fun s => s.load h base.toNat asid.toNat) else .next s

/-! ## START (R36, R69, R137, R156, R160, R209) -/

/-- A role's half of eight accumulator blocks, eight contexts or four job slots (R462). -/
def inHalf (bank n k : Nat) : Bool := k / (n / 2) == bank

/-- Whether both shards may be running: the shared resources then go by halves (R462). -/
def State.bothShards (s : State) : Bool := s.partner.st == .takenOver

/-- A tile's values at START (R69, R137): no weights, every block EMPTY, masks zero, scales 1.0, vector state zero. -/
def startTile (both : Bool) (bank : Nat) (t : Tile) : Tile :=
  { t with
    active := {}, shadow := {}, masks := [], scales := [], vregs := [], vpoison := [], lmasks := [], lpoison := [],
    sregs := [], spoison := [],
    blocks := t.blocks.drop (fun b => !both || inHalf bank 8 b) }

/-- A stream engine's values at START: descriptor slots empty, contexts IDLE (R156, R160). -/
def startSe (both : Bool) (bank : Nat) (v : Se) : Se :=
  { v with slots := v.slots.drop (fun k => !both || inHalf bank 64 k),
           ctxs := v.ctxs.drop (fun k => !both || inHalf bank 8 k) }

/-- A memory-side engine's values at START: work slots empty, jobs idle (R209). -/
def startMse (both : Bool) (bank : Nat) (v : Mse) : Mse :=
  { v with work := v.work.drop (fun k => !both || inHalf bank 64 k),
           jobs := v.jobs.drop (fun k => !both || inHalf bank 4 k) }

/-- A member unit at START (R36): token counters 0, epoch and mode from the prologue, no group cancelled, queue empty.
Pools and emit routes follow from the route section, which the Caller reads before it deals a bar (R31). A tile adopts
every committed table set (R366). -/
def State.startUnit (s : State) (x : Ens) (u : Nat) : State :=
  let s := s.setBk (u + 1024 * x.bank) { epoch := x.initEpoch, mode := x.initMode }
  match unitKind u with
  | .tile => s.setTile u { startTile s.bothShards x.bank (s.tile u) with tables := s.loader.committed }
  | .stream => s.setSe (u - 512) (startSe s.bothShards x.bank (s.se (u - 512)))
  | .memory => s.setMse (u - 768) (startMse s.bothShards x.bank (s.mse (u - 768)))
  | .none => s

/-- The ensemble as it becomes RUNNING. -/
def Ens.started (x : Ens) (h : Option Issuer) : Ens :=
  { x with st := .running, routesRead := false, next := x.entry, fetched := none, halt := none, dyn := 0, figs := [],
           figBuf := [], epoch := x.initEpoch, lastIndex := 0, lastEpoch := x.initEpoch, live := [], atEnd := false,
           markAt := none, brRelease := false, brWaiting := false, brDepth := none, cancelled := 0, fault := 0,
           absentSeen := false, stopping := false, slip := 0, maxSlip := 0, beats := 0, starter := h, restored := false,
           stoppers := [] }

/-- The start of an ensemble (R36). -/
def State.startEns (s : State) (e : Nat) (h : Option Issuer) : State :=
  let x := s.en e
  let s := x.units.foldl (fun s u => s.startUnit x u) s
  s.setEn e (x.started h)

def execStart (h : Issuer) (e : BitVec 3) (s : State) : Result :=
  s.command h (fun s =>
    let x := s.en e.toNat
    if !s.mayCommand h e.toNat then s.answer h 0x04 stDenied
    else if x.st = .loaded || x.st = .done then s.startEns e.toNat (some h)
    else s.answer h 0x04 stNotIdle)

/-! ## The route section (R31, R32) -/

/-- A valid destination slot of an ensemble (R32). -/
def slotOk (x : Ens) (d : Nat) : Bool :=
  let unit := bits d 20 10
  let tk := bits d 16 4
  let sync := bits d 0 15
  !bit d 15 &&
  (match bits d 30 2 with
  | 0 => d == 0
  | 1 => x.has unit && sync == 0
  | 2 => unit == 0 && tk == 0
  | _ => false)

/-- Whether a 512-byte route record passes its checks (R31). -/
def recordOk (x : Ens) (r : List Byte) : Bool :=
  zeroAt r 288 224
    && (List.range 64).all (fun i => slotOk x (field r (4 * i) 4))
    && (List.range 8).all (fun p => field r (256 + 2 * p) 2 ≤ field r (272 + 2 * p) 2)

/-- A unit's bank with a record's routes, pools and ceilings; the pools of an ensemble restored from a checkpoint stay as
that left them (R469). -/
def Bank.withRecord (b : Bank) (r : List Byte) (restored : Bool) : Bank :=
  { b with
    routes := Map.setAll [] 0 0 ((List.range 64).map (fun i => BitVec.ofNat 32 (field r (4 * i) 4))),
    cp := if restored then b.cp else Map.setAll [] 0 0 ((List.range 8).map (fun p => field r (256 + 2 * p) 2)),
    ceil := Map.setAll [] 0 0 ((List.range 8).map (fun p => field r (272 + 2 * p) 2)) }

/-- Raises a Caller context's record for ensemble `e` (R313: class 0x08). -/
def State.callerRec (s : State) (e code : Nat) (bar : Nat := 0xFFFFFFFF) (detail : Nat := 0) : State :=
  s.raise { recOf code 8 e with ens := e, bar := bar, epoch := (s.en e).epoch.toNat, detail := detail }

/-- MALFORMED_BAR: a record, and the ensemble stops (R66). -/
def State.malformedBar (s : State) (e bar detail : Nat) : State :=
  (s.callerRec e cMalformedBar bar detail).stopOn e cMalformedBar

/-- FETCH_HALTED: the context stops fetching at `addr` (R60). -/
def State.fetchHalted (s : State) (e cause addr : Nat) (bar : Nat := 0xFFFFFFFF) : State :=
  let s := s.setEn e { s.en e with halt := some { cause := cause, addr := addr } }
  s.callerRec e cFetchHalted bar cause

/-- A read of the Caller that failed (R60): a host completion error is a malformed bar with DETAIL [0]. -/
def State.callerFault (s : State) (e cause addr : Nat) : State :=
  if cause = causeHostErr then s.malformedBar e 0xFFFFFFFF 1 else s.fetchHalted e cause addr

/-- The initiator of the Caller's translation cache (R181, R276). -/
abbrev callerTlb : Nat := 0x340

/-- A Caller fetch: its initiator is the context of its ensemble (R276), its translation cache one for all. -/
def State.callerRead (s : State) (e asid va n : Nat) : State × Got :=
  s.readVa callerTlb (0x340 + e) asid (blockFuel n) va n

def execRouteSectionRead (e : BitVec 3) (s : State) : Result :=
  let e := e.toNat
  let x := s.en e
  if x.st = .running && !x.stopping && !x.routesRead && x.halt == none && !s.rst.pllLost then
    let us := x.units
    match s.callerRead e x.asid (x.base + x.routes) (512 * us.length) with
    | (_, .later) => .next s
    | (s, .bad c a) => .next (s.callerFault e c a)
    | (s, .bytes l poisoned) =>
      let recs := chunks 512 us.length l
      if poisoned || recs.any (fun r => !recordOk x r) then .next (s.malformedBar e 0xFFFFFFFF 0)
      else
        let s := (us.zip recs).foldl (fun s p =>
          let ub := p.1 + 1024 * x.bank
          s.setBk ub ((s.bk ub).withRecord p.2 x.restored)) s
        .next (s.setEn e { s.en e with routesRead := true })
  else .next s

/-! ## Bars (R38–R41, R57) -/

/-- The units of a bar's presence mask, by the header and mask at the start of its bytes (R39). -/
def presentOf (l : List Byte) : List Nat := onesOf (field l 0x40 128) 1024

/-- A bar header and mask as a `Bar`, with the step words that follow. -/
def parseBar (off : Nat) (l : List Byte) : Bar :=
  let units := presentOf l
  { off := off, kind := field l 0 1, flags := field l 1 1, units64 := field l 2 2, epoch := field l 6 1,
    figDepth := field l 7 1, index := field l 8 4, figCount := field l 0xC 4, brSync := field l 0x10 2,
    brCond := field l 0x12 1, brValue := field l 0x14 4, brTarget := field l 0x18 8,
    steps := (units.zip (chunks 16 units.length (l.drop 0xC0))).map (fun p => (p.1, BitVec.ofNat 128 (ofLe p.2))) }

def Bar.open? (b : Bar) : Bool := bit b.flags 0
def Bar.close? (b : Bar) : Bool := bit b.flags 1
def Bar.mark? (b : Bar) : Bool := bit b.flags 2
def Bar.replayable? (b : Bar) : Bool := bit b.flags 3
/-- The length of a bar in bytes. -/
def Bar.bytes (b : Bar) : Nat := b.units64 * 64

/-- The class of an opcode's range (R43): common to every unit, or one kind's; none for a reserved range. -/
def opClassOk (u op : Nat) : Bool :=
  op < 0x10 ||
  (match unitKind u with
  | .tile => 0x10 ≤ op && op < 0x60
  | .stream => 0x60 ≤ op && op < 0x90
  | .memory => 0x90 ≤ op && op < 0xC0
  | .none => false)

/-- Whether a bar holds a MODE step. -/
def Bar.isMode (b : Bar) : Bool := b.steps.any (fun p => opOf p.2 == 0x01)

/-- R63: a bar with a MODE step has one for every member and no other step, all naming one object and MODE_BITS. -/
def Bar.modeOk (b : Bar) (x : Ens) : Bool :=
  !b.isMode ||
  (b.steps.map Prod.fst == x.units && b.steps.all (fun p => opOf p.2 == 0x01)
    && b.steps.all (fun p => b.steps.all (fun q =>
        fld p.2 0 15 == fld q.2 0 15 && fld p.2 16 8 == fld q.2 16 8)))

/-- The checks of a bar that its own bytes decide (R38–R41, R57): UNITS, LENGTH and membership are those of the mask. -/
def barBytesOk (x : Ens) (b : Bar) (l : List Byte) : Bool :=
  let n := (presentOf l).length
  b.steps.length == n && (presentOf l).all x.has && checkOk l 0x3C && b.kind ≤ 2 && b.flags < 16 && field l 4 2 == n
    && b.units64 == (192 + 16 * n + 63) / 64
    && zeroAt l (0xC0 + 16 * n) (b.bytes - (0xC0 + 16 * n))
    && field l 0x13 1 == 0 && zeroAt l 0x20 28
    && (b.kind == 0 || n == 0)
    && (if b.kind = 1 then b.brCond ≤ 5 && b.brTarget % 64 == 0 && x.entry ≤ b.brTarget && b.brTarget < x.length
        else zeroAt l 0x10 3 && zeroAt l 0x14 12)
    && (if b.open? then b.figCount != 0 else b.figCount == 0)
    && b.steps.all (fun p => x.has p.1 && opClassOk p.1 (opOf p.2))
    && b.modeOk x

/-- The figure stack as the bar meets it (R54): a taken branch pops the figures that its target has left. -/
def Ens.figsAt (x : Ens) (b : Bar) : List (Nat × Nat) :=
  match x.brDepth with
  | none => x.figs
  | some d =>
    if b.figDepth < d then
      let keep := if b.open? && !(x.figs.any (fun f => f.1 == b.off)) then b.figDepth - 1 else b.figDepth
      x.figs.drop (x.figs.length - keep)
    else x.figs

/-- Whether a FIG_OPEN bar is reached for the first time, so that it pushes its figure (R52). -/
def firstReach (figs : List (Nat × Nat)) (b : Bar) : Bool := b.open? && (figs.head?.map Prod.fst) != some b.off

/-- The checks of a bar against its context: EPOCH, FIG_DEPTH, the figures open, and the depth of a taken branch. -/
def Ens.barFits (x : Ens) (b : Bar) : Bool :=
  let figs := x.figsAt b
  let depth := figs.length + flag (firstReach figs b)
  b.epoch == x.epoch.toNat && b.figDepth == depth && depth ≤ 8
    && (!b.close? || 0 < depth)
    && (match x.brDepth with | none => true | some d => b.figDepth ≤ d)

/-- The bar at an offset: from the figure buffer where it holds it (R53), else from memory. -/
def State.readBar (s : State) (e : Nat) : State × Option (Except (Nat × Nat) (Bar × Bool)) :=
  let x := s.en e
  if s.rst.pllLost then (s, none)
  else match x.figBuf.find? (fun b => b.off == x.next) with
  | some b => (s, some (.ok (b, true)))
  | none =>
    match s.callerRead e x.asid (x.base + x.next) 192 with
    | (s, .later) => (s, none)
    | (s, .bad c a) => (s, some (.error (c, a)))
    | (s, .bytes hd p) =>
      let n := field hd 2 2 * 64
      if p || n < 192 || x.length < x.next + n then (s, some (.ok (parseBar x.next hd, false)))
      else match s.callerRead e x.asid (x.base + x.next) n with
        | (s, .later) => (s, none)
        | (s, .bad c a) => (s, some (.error (c, a)))
        | (s, .bytes l p) =>
          let b := parseBar x.next l
          (s, some (.ok (b, !p && barBytesOk x b l)))

/-- The figure buffer once bar `b` is fetched with figures `figs` open (R53): 32 KiB of the bars of the figures that are
open. Where it is full, the bars outside the innermost figure, the one that `b` opens if it opens one, make room, and a bar that still finds none is not kept; bars
of figures that a branch has left are dropped. -/
def figBufWith (buf : List Bar) (figs : List (Nat × Nat)) (b : Bar) : List Bar :=
  let size (l : List Bar) : Nat := (l.map Bar.bytes).sum
  if figs.isEmpty && !b.open? then []
  else
    let buf := if figs.isEmpty then [] else buf
    if buf.any (fun c => c.off == b.off) then buf
    else if size (buf ++ [b]) ≤ 32768 then buf ++ [b]
    else
      let start := if b.open? then b.off else (figs.head?.map Prod.fst).getD b.off
      let inner := buf.filter (fun c => start ≤ c.off)
      if size (inner ++ [b]) ≤ 32768 then inner ++ [b] else buf

/-- Whether the Caller may fetch a bar for the ensemble now (R54, R57, R61, R469). -/
def Ens.mayFetch (x : Ens) : Bool :=
  x.st == .running && !x.stopping && x.routesRead && x.fetched == none && x.halt == none && !x.atEnd && x.markAt == none

def execBarFetch (e : BitVec 3) (s : State) : Result :=
  let e := e.toNat
  let x := s.en e
  if !x.mayFetch then .next s
  else if x.next % 64 != 0 || x.next < x.entry || x.length ≤ x.next || x.length < x.next + 192 then
    .next (s.malformedBar e 0xFFFFFFFF 0)
  else match s.readBar e with
    | (_, none) => .next s
    | (s, some (.error (c, a))) => .next (s.callerFault e c a)
    | (s, some (.ok (b, good))) =>
      let x := s.en e
      if good && x.barFits b then
        let figs := x.figsAt b
        .next (s.setEn e { x with fetched := some b, figs := figs, brDepth := none, figBuf := figBufWith x.figBuf figs b })
      else .next (s.malformedBar e b.index 0)

def execFetchResume (e : BitVec 3) (s : State) : Result :=
  let x := s.en e.toNat
  match x.halt with
  | some hl => if hl.released && x.st == .running && !s.rst.pllLost then .next (s.setEn e.toNat { x with halt := none }) else .next s
  | none => .next s

/-! ## Dealing (R40, R52, R58) -/

/-- The dynamic number of the oldest bar that still holds an unfired step; the next one where none does (R58). -/
def Ens.oldest (x : Ens) : Nat := ((x.live.find? (fun b => 0 < b.unfired)).map LiveBar.dyn).getD x.dyn

/-- Whether the fetched bar may be dealt: room in every present unit's queue, and the run-ahead limit (R58). -/
def State.mayDeal (s : State) (e : Nat) (b : Bar) : Bool :=
  let x := s.en e
  x.dyn < x.oldest + 32 && b.steps.all (fun p => (s.bk (p.1 + 1024 * x.bank)).queue.length < 64)

/-- Deals one step word to its unit's queue; an unserved unit answers "unit absent" (R15). -/
def State.dealStep (s : State) (e : Nat) (b : Bar) (slot : Nat) (p : Nat × W128) : State :=
  let x := s.en e
  let ub := p.1 + 1024 * x.bank
  if s.unitServed p.1 then
    let q : QStep := { word := p.2, ens := e, dyn := x.dyn, bar := b.index, slot := slot, replayable := b.replayable? }
    s.setBk ub { s.bk ub with queue := (s.bk ub).queue ++ [q] }
  else
    let s := s.raise { recOf cUnitAbsent 8 e with
      ens := e, bar := b.index, slot := slot, opcode := opOf p.2, epoch := x.epoch.toNat }
    s.setEn e { s.en e with absentSeen := true }

/-- The figure stack and the next bar after a bar is dealt (R52), and what the figure buffer keeps (R53). -/
def Ens.after (x : Ens) (b : Bar) : Ens :=
  let figs := if firstReach x.figs b then (b.off, b.figCount) :: x.figs else x.figs
  let past := b.off + b.bytes
  if b.close? then
    match figs with
    | [] => { x with figs := [], figBuf := [], next := past }
    | (o, c) :: r =>
      if c ≤ 1 then { x with figs := r, figBuf := if r.isEmpty then [] else x.figBuf, next := past }
      else
        let buf := if past - o ≤ 32768 then x.figBuf else x.figBuf.filter (fun d => d.off < o || past ≤ d.off)
        { x with figs := (o, c - 1) :: r, figBuf := buf, next := o }
  else { x with figs := figs, next := past }

/-- Deals a whole bar (R57, R58). -/
def State.deal (s : State) (e : Nat) (b : Bar) : State :=
  let s := s.traceBar e b.index
  let served := b.steps.filter (fun p => s.unitServed p.1)
  let s := (b.steps.zipIdx).foldl (fun s p => s.dealStep e b p.2 p.1) s
  -- a STEP packet for each (R58, R277)
  let s := s.injected (0x340 + e) b.steps.length
  let x := s.en e
  let live := if served.isEmpty then x.live
    else x.live ++ [{ dyn := x.dyn, index := b.index, unfired := served.length, incomplete := served.length, slip := 0 }]
  let x := x.after b
  s.setEn e { x with
    fetched := none, live := live, dyn := x.dyn + 1, lastIndex := b.index, lastEpoch := BitVec.ofNat 8 b.epoch,
    epoch := if b.isMode then x.epoch + 1 else x.epoch,
    markAt := if b.mark? then some x.dyn else x.markAt }

/-- The END bar is reached: nothing further is dealt (R61). One that carries MARK is a MARK bar too; a checkpoint taken there
restarts at the END bar itself, there being no bar after it (DESIGN CHOICE). -/
def State.reachEnd (s : State) (e : Nat) (b : Bar) : State :=
  let s := s.traceBar e b.index
  let x := s.en e
  s.setEn e { x with fetched := none, atEnd := true, lastIndex := b.index, lastEpoch := BitVec.ofNat 8 b.epoch,
                     markAt := if b.mark? then some x.dyn else x.markAt }

def execBarDeal (e : BitVec 3) (s : State) : Result :=
  let e := e.toNat
  let x := s.en e
  match x.fetched with
  | none => .next s
  | some b =>
    if x.st != .running || x.stopping || x.markAt != none || s.rst.pllLost then .next s
    else if b.kind = 2 then
      .next (s.reachEnd e b)
    else if b.kind = 0 && s.mayDeal e b then .next (s.deal e b)
    else .next s

/-! ## Branches (R54) -/

/-- Whether a unit or Caller of ensemble `e` may operate on an object: OWNER e or SHARED (R200). -/
def SyncObj.openTo (o : SyncObj) (e : Nat) : Bool := o.owner.toNat == e || o.owner.toNat == 8

/-- Whether a branch condition holds on count `c` (R54). -/
def branchHolds (cond c v : Nat) : Bool :=
  match cond with
  | 0 => c == v
  | 1 => c != v
  | 2 => c < v
  | 3 => v ≤ c
  | 4 => (c &&& v) != 0
  | _ => (c &&& v) == 0

/-- The Caller refused at a sync object: SYNC_DENIED, naming the branch bar, stops the ensemble (R199). -/
def State.callerDenied (s : State) (e : Nat) (b : Bar) : State :=
  (s.callerRec e cSyncDenied b.index (b.brSync % 2 ^ 15)).stopOn e cSyncDenied

/-- The branch resolves: the count is read, and the target or the next bar is taken (R54). A taken branch that also carries
FIG_CLOSE neither decrements nor pops the innermost figure, and one that carries MARK is a MARK bar (DESIGN CHOICE: the spec
does not say which of R52 and R54 wins). -/
def State.resolve (s : State) (e : Nat) (b : Bar) : State :=
  let x := s.en e
  let o := s.obj (b.brSync % 2 ^ 15)
  let y := x.after b
  let y := { y with fetched := none, dyn := y.dyn + 1, brRelease := false, brWaiting := false, lastIndex := b.index,
                    lastEpoch := BitVec.ofNat 8 b.epoch, markAt := if b.mark? then some x.dyn else x.markAt }
  if branchHolds b.brCond o.count.toNat b.brValue then
    s.setEn e { y with next := b.brTarget, brDepth := some b.figDepth, figs := if firstReach x.figs b then (b.off, b.figCount) :: x.figs else x.figs }
  else s.setEn e y

def execBranch (e : BitVec 3) (s : State) : Result :=
  let e := e.toNat
  let x := s.en e
  match x.fetched with
  | none => .next s
  | some b =>
    if x.st != .running || x.stopping || x.markAt != none || b.kind != 1 || s.rst.pllLost then .next s
    else if !(s.obj (b.brSync % 2 ^ 15)).openTo e then .next (s.callerDenied e b)
    else if bit b.brSync 15 && !x.brRelease then
      if x.brWaiting then .next s
      else .next ((s.setEn e { x with brWaiting := true }).sendOp (.caller e) (b.brSync % 2 ^ 15) 1 0 false)
    else .next (s.resolve e b)

/-! ## The end (R61) -/

/-- Member token counters that are not zero (R61). -/
def State.leftTokens (s : State) (x : Ens) : Nat :=
  (x.ubs.map (fun ub => ((List.range 16).filter (fun i => (s.bk ub).tk.get 0 i != 0)).length)).sum

def execEnsembleDone (e : BitVec 3) (s : State) : Result :=
  let e := e.toNat
  let x := s.en e
  if x.st = .running && !x.stopping && x.atEnd && x.live.isEmpty && x.markAt == none && !s.rst.pllLost then
    if x.absentSeen then .next (s.stopOn e cUnitAbsent)
    else
      let s := s.setEn e { x with st := .done }
      .next (s.leaveRunning e stOk (BitVec.ofNat 128 (s.leftTokens x % 2 ^ 16)) 0)
  else .next s

/-! ## Cancel groups and stops (R37, R55) -/

/-- The Caller applies a group change and broadcasts it to every member (R55). -/
def State.groupChange (s : State) (e g : Nat) (action : Bool) : State :=
  let x := s.en e
  let s := s.setEn e { x with cancelled := putBit x.cancelled g action }
  s.sendAll (x.ubs.map (fun ub => .cancelled ub e g action))

def execCancel (h : Issuer) (e : BitVec 3) (group : Byte) (action : Bool) (s : State) : Result :=
  s.command h (fun s =>
    if !s.mayCommand h e.toNat then s.answer h 0x05 stDenied
    else (s.groupChange e.toNat group.toNat action).answer h 0x05 stOk)

/-- A stand-down is complete once every ensemble has stopped (R480). -/
def State.standDone (s : State) : State :=
  match s.partner.waitStand with
  | none => s
  | some h =>
    if (List.range 8).all (fun e => (s.en e).st == .idle) then
      { s with partner := { s.partner with waitStand := none } }.answer h 0x22 stOk
    else s

/-- An ensemble enters IDLE at the end of its stop: the START, where it was still RUNNING, and each CANCEL that asked
complete, and its members are free (R37, R437). -/
def State.enterIdle (s : State) (e : Nat) : State :=
  let x := s.en e
  let s := if x.st = .running then s.leaveRunning e stCancelled 0 0 else s
  let s := s.setEn e { ckpts := x.ckpts }
  (x.stoppers.foldl (fun s h => s.answer h 0x05 stOk) s).standDone

def execStop (h : Issuer) (e : BitVec 3) (s : State) : Result :=
  s.command h (fun s =>
    let e := e.toNat
    let x := s.en e
    if !s.mayCommand h e then s.answer h 0x05 stDenied
    else match x.st with
      | .idle => s.answer h 0x05 stOk
      | .loaded => (s.setEn e { x with stoppers := [h] }).enterIdle e
      | .done => (s.setEn e { x with stoppers := [h] }).enterIdle e
      | _ => (if x.stopping then s else s.stopEns e).setEn e
          { (if x.stopping then s else s.stopEns e).en e with stoppers := x.stoppers ++ [h] })

def execStopComplete (e : BitVec 3) (s : State) : Result :=
  let e := e.toNat
  let x := s.en e
  if x.stopping && x.ubs.all s.unitIdle && !s.rst.pllLost then .next (s.enterIdle e) else .next s

end Sys2Proof.Machine
end

