-- ==== Sys2Proof/Machine/Operands.lean ====
section
/-! DEFINITION. The operand forms of every step word (R42–R44, R71, R84, R88, R138, R160, R194, R208), and the rules
that depend on a step's own word (R548): the checks of MALFORMED_STEP. -/

namespace Sys2Proof.Machine

/-- Bits `[lo + n - 1 : lo]` of a step word's operands. -/
def opnd (w : W128) (lo n : Nat) : Nat := fld w lo n

/-- WAIT, EMIT and CGROUP of a step word (R42). -/
def waitOf (w : W128) : Nat := fld w 104 16
def emitOf (w : W128) : Nat := fld w 88 16
def groupOf (w : W128) : Nat := fld w 80 8

/-! ## MXP (R71) -/

/-- MXP operands. -/
structure Mxp where
  fmtA : Nat
  fmtW : Nat
  acc : Nat
  accum : Bool
  reuse : Bool
  chkrow : Bool
  cpool : Nat
  ccount : Nat
  masksel : Nat
  ktail : Nat
  abase : Nat
  astride : Nat
  wbase : Nat
  sbase : Nat
  tscale : Nat
deriving DecidableEq, Repr

def mxpOf (w : W128) : Mxp :=
  { fmtA := opnd w 0 5, fmtW := opnd w 5 5, acc := opnd w 10 3, accum := bitOf w 13, reuse := bitOf w 14,
    chkrow := bitOf w 15, cpool := opnd w 16 3, ccount := opnd w 19 4, masksel := opnd w 23 4, ktail := opnd w 27 7,
    abase := opnd w 34 10, astride := opnd w 44 10, wbase := opnd w 54 10, sbase := opnd w 64 10, tscale := opnd w 74 4 }

/-- K of a pass by its family (R74). -/
def kOf (fmt : Nat) : Nat :=
  match family fmt with
  | .f8 => 64
  | .f4 => 128
  | .f16 => 32
  | .f32 => 16

/-- The tile-store unit of array `a`'s activation block (R71). -/
def Mxp.aUnit (m : Mxp) (a : Nat) : Nat := m.abase + a * m.astride

/-- The units whose lines the feed reads (R129): the activation blocks, and the weight block of a loading pass. -/
def Mxp.units (m : Mxp) : List Nat :=
  ((List.range 4).map m.aUnit ++ (if m.reuse then [] else [m.wbase])).eraseDups

/-- Whether element scales are read by the pass. -/
def Mxp.scaled (m : Mxp) : Bool := blockLen m.fmtA != 0 || (!m.reuse && blockLen m.fmtW != 0)

/-- The malformed MXP steps (R78, R98, R129, R135). -/
def mxpBad (w : W128) : Bool :=
  let m := mxpOf w
  opnd w 78 2 != 0 || (elemOf m.fmtA).isNone || (elemOf m.fmtW).isNone || kOf m.fmtA ≤ m.ktail
    || (m.reuse && (m.fmtW != 0 || m.wbase != 0)) || 8 < m.ccount
    || m.units.any (fun u => 896 ≤ u) || (m.scaled && 896 ≤ m.sbase)
    || !(m.units.map (· % 32)).Nodup

/-! ## TCFG and DRAIN (R84, R88) -/

structure Tcfg where
  scale : Bool
  index : Nat
  src : Nat
deriving DecidableEq, Repr

def tcfgOf (w : W128) : Tcfg := { scale := bitOf w 0, index := opnd w 1 4, src := opnd w 5 16 }

def tcfgBad (w : W128) : Bool := opnd w 21 59 != 0 || (tcfgOf w).index == 0 || 57344 ≤ (tcfgOf w).src

structure Drain where
  acc : Nat
  amask : Nat
  free : Bool
  dst : Nat
deriving DecidableEq, Repr

def drainOf (w : W128) : Drain := { acc := opnd w 0 3, amask := opnd w 3 4, free := bitOf w 7, dst := opnd w 8 10 }

def drainBad (w : W128) : Bool :=
  let d := drainOf w
  opnd w 18 62 != 0 || (onesOf d.amask 4).any (fun n => 896 < d.dst + 4 * n + 4)

/-! ## Vector steps (R138, R141) -/

/-- An operand descriptor (R138). -/
inductive VOp where
  | reg (n : Nat) (inc : Bool)
  | store (line : Nat)
  | acc (block array first : Nat) (free : Bool)
  | scalar (n : Nat)
deriving DecidableEq, Repr

/-- Decodes a 20-bit operand descriptor. -/
def vop (x : Nat) : VOp :=
  match bits x 18 2 with
  | 0 => .reg (bits x 0 5) (bit x 5)
  | 1 => .store (bits x 0 16)
  | 2 => .acc (bits x 0 3) (bits x 3 2) (bits x 5 5) (bit x 10)
  | _ => .scalar (bits x 0 4)

/-- Whether an operand descriptor has a reserved bit set (R138). -/
def vopBad (x : Nat) : Bool :=
  match bits x 18 2 with
  | 0 => bits x 6 12 != 0
  | 1 => bits x 16 2 != 0
  | 2 => bits x 11 7 != 0
  | _ => bits x 4 14 != 0

/-- A vector step's operands (R138). -/
structure VStep where
  dst : Nat
  srca : Nat
  srcb : Nat
  count : Nat
  fmt : Nat
  lmask : Nat
  aux : Nat
deriving DecidableEq, Repr

def vstepOf (w : W128) : VStep :=
  let c := opnd w 60 8
  { dst := opnd w 0 20, srca := opnd w 20 20, srcb := opnd w 40 20, count := if c = 0 then 256 else c,
    fmt := opnd w 68 5, lmask := opnd w 73 3, aux := opnd w 76 4 }

/-- Whether an opcode is a vector opcode (R141). -/
def isVector (op : Nat) : Bool := 0x20 ≤ op && op ≤ 0x33

/-- Whether a vector opcode uses SRCA, SRCB and DST (R141). -/
def usesA (op : Nat) : Bool := op != 0x31
def usesB (op : Nat) : Bool := (0x21 ≤ op && op ≤ 0x28) || op == 0x2F || op == 0x30
def usesD (op : Nat) : Bool := op != 0x27 && op != 0x32 && op != 0x33

/-- Lines of one vector in a format (R139). -/
def vecLines (fmt : Nat) : Nat := elemBits fmt / 4

/-- Bytes of scale a vector has in a block-scaled format (R139). -/
def vecScales (fmt : Nat) : Nat := if blockLen fmt = 0 then 0 else 128 / blockLen fmt

/-- Lines of a tile-store operand of `count` vectors, scales included (R139). -/
def operandLines (fmt count : Nat) : Nat := vecLines fmt * count + (vecScales fmt * count + 63) / 64

/-- Whether a tile-store operand lies in the compiler's units 0–895 (R135). -/
def storeBad (x fmt count : Nat) : Bool :=
  match vop x with
  | .store l => 57344 < l + operandLines fmt count
  | _ => false

/-- Vectors a destination takes: one for VRED, COUNT otherwise (R146). -/
def dstCount (op count : Nat) : Nat := if op = 0x2D then 1 else count

/-- The malformed AUX values (R141). AUX bits to which the opcode table gives no meaning are taken as reserved (DESIGN CHOICE). -/
def auxBad (op aux : Nat) : Bool :=
  match op with
  | 0x27 => 7 ≤ aux
  | 0x2D => aux % 4 == 3
  | 0x2E => aux % 4 != 0
  | 0x2F => aux % 4 != 0
  | 0x30 => aux != 0
  | 0x31 => 2 ≤ aux
  | 0x32 => aux != 0
  | _ => false

/-- The malformed vector steps (R138, R154). A tile-store source of VSEED counts as a whole vector of FMT, though only its first
8 bytes are read (DESIGN CHOICE). -/
def vectorBad (w : W128) : Bool :=
  let op := fld w 120 8
  let v := vstepOf w
  (elemOf v.fmt).isNone || vopBad v.dst || vopBad v.srca || vopBad v.srcb || auxBad op v.aux
    || (usesA op && storeBad v.srca v.fmt (if op = 0x32 then 1 else v.count))
    || (usesB op && storeBad v.srcb v.fmt v.count)
    || (usesD op && storeBad v.dst v.fmt (dstCount op v.count))
    || (usesD op && 2 ≤ bits v.dst 18 2)
    || (op == 0x27 && (bits v.dst 3 17 != 0 || bits v.dst 0 3 == 0))
    || (op == 0x2F && v.count != 1)
    || (op == 0x33 && (bits v.dst 18 2 != 3 || bits v.dst 0 4 == 0))

/-! ## Stream-engine and memory-side steps (R160, R208) -/

structure StreamOps where
  slot : Nat
  ctx : Nat
  tsel : Bool
  cpool : Nat
  ccount : Nat
  acc : Nat
  amask : BitVec 4
  accFree : Bool
  early : Bool
  rewind : Bool
deriving DecidableEq, Repr

def streamOf (w : W128) : StreamOps :=
  { slot := opnd w 0 6, ctx := opnd w 6 3, tsel := bitOf w 9, cpool := opnd w 10 3, ccount := opnd w 13 4,
    acc := opnd w 17 3, amask := BitVec.ofNat 4 (opnd w 20 4), accFree := bitOf w 24, early := bitOf w 25,
    rewind := bitOf w 26 }

/-- The malformed DLOAD, STREAM, RFREE, MLOAD and MRUN steps that their own words show (R188, R230). -/
def dloadBad (w : W128) : Bool := bitOf w 6 || opnd w 48 32 != 0
def streamBad (w : W128) : Bool := opnd w 27 53 != 0 || 8 < opnd w 13 4
def rfreeBad (w : W128) : Bool := bitOf w 3 || opnd w 18 62 != 0 || opnd w 4 14 == 0 || 14336 < opnd w 4 14
def mrunBad (w : W128) : Bool := opnd w 15 65 != 0 || 8 < opnd w 11 4

/-! ## Common steps (R44, R63, R194) -/

structure SyncOps where
  obj : Nat
  op : Nat
  auto : Bool
  value : Nat
deriving DecidableEq, Repr

def syncOf (x : Nat) : SyncOps := { obj := bits x 0 15, op := bits x 16 3, auto := bit x 19, value := bits x 20 32 }

/-- The OP code of the host's READ: R201 gives the host the fields of R194 and a READ, and no rule its code, which is one of those
R194 reserves. -/
def readOp : Nat := 4 + Config.hostReadOp.toNat

/-- Whether the operands of a sync operation break their rules (R194); `host` allows READ. -/
def syncBad (x : Nat) (host : Bool) : Bool :=
  let o := syncOf x
  bit x 15 || bits x 52 28 != 0 || (3 < o.op && !(host && o.op == readOp)) || (o.auto && o.op != 3)
    || (o.op == 0 && o.value == 0) || (o.op == 1 && o.value != 0) || (o.op == 3 && o.auto && o.value == 0)
    || (3 < o.op && o.value != 0)

def modeBad (w : W128) : Bool := bitOf w 15 || bitOf w 19 || opnd w 24 56 != 0
def cancelBad (w : W128) : Bool := opnd w 9 71 != 0

/-- ROUTE: reserved bits, and a destination that is not valid (R32, R44); `valid` is the check of the destination. -/
def routeBad (valid : Nat → Bool) (w : W128) : Bool :=
  opnd w 6 26 != 0 || opnd w 64 16 != 0 || !valid (opnd w 32 32)

/-- Whether a step word breaks a rule that depends on the word alone (R548), for a unit of the kind its opcode range
allows (R43). -/
def stepBad (tile stream memory : Bool) (valid : Nat → Bool) (w : W128) : Bool :=
  let op := fld w 120 8
  match op with
  | 0x00 => opnd w 0 80 != 0
  | 0x01 => modeBad w
  | 0x02 => cancelBad w
  | 0x03 => syncBad (opnd w 0 80) false
  | 0x04 => routeBad valid w
  | 0x11 => !tile || mxpBad w
  | 0x12 => !tile || tcfgBad w
  | 0x13 => !tile || drainBad w
  | 0x60 => !stream || dloadBad w
  | 0x61 => !stream || streamBad w
  | 0x62 => !stream || rfreeBad w
  | 0x90 => !memory || dloadBad w
  | 0x91 => !memory || mrunBad w
  | _ => !(tile && isVector op && !vectorBad w)

/-- The pool a step draws on and how many credits (R45): MXP, STREAM and MRUN name one. -/
def creditsOf (w : W128) : Nat × Nat :=
  match fld w 120 8 with
  | 0x11 => (opnd w 16 3, opnd w 19 4)
  | 0x61 => (opnd w 10 3, opnd w 13 4)
  | 0x91 => (opnd w 8 3, opnd w 11 4)
  | _ => (0, 0)

/-- The accumulator blocks a vector step reads: block, array, first vector and FREE of each source (R140). -/
def accSources (w : W128) : List (Nat × Nat × Nat × Bool) :=
  let op := fld w 120 8
  let v := vstepOf w
  ((if usesA op then [v.srca] else []) ++ (if usesB op then [v.srcb] else [])).filterMap (fun x =>
    match vop x with
    | .acc b a f fr => some (b, a, f, fr)
    | _ => none)

end Sys2Proof.Machine
end

