-- ==== Sys2Proof/Machine/Steps.lean ====
section
/-! DEFINITION. How units fire and complete their steps (R42–R49, R55, R56, R59, R63, R463, R548): the firing rule with
each opcode's resource and state-dependent faults, the common opcodes, tokens, credits, and absence.

A step takes two or three commands: STEP_FIRE consumes its tokens and credits and moves it from the queue to the fired
steps; the command of its opcode performs its effect on the oldest fired step of that opcode that has not acted;
STEP_COMPLETE, VERDICT or the opcode's own end emits its tokens. -/

namespace Sys2Proof.Machine

/-! ## Small helpers over a bank -/

/-- Whether some fired step of the unit's bank satisfies `p`. -/
def State.fires (s : State) (ub : Nat) (p : Fired → Bool) : Bool := (s.bk ub).fired.any p

/-- The fired steps of both banks of a unit (R463). -/
def State.firedAll (s : State) (u : Nat) : List Fired := (s.bk u).fired ++ (s.bk (u + 1024)).fired

/-- Whether a fired step has this opcode and has not acted. -/
def unacted (op : Nat) (f : Fired) : Bool := opOf f.q.word == op && !f.acted

/-- The step's destination check for ROUTE, against its ensemble (R32). -/
def State.destOk (s : State) (e : Nat) (d : Nat) : Bool := slotOk (s.en e) d

/-- Whether a step word is malformed on this unit (R43, R548). -/
def State.malformed (s : State) (ub : Nat) (q : QStep) : Bool :=
  let k := unitKind (unitOf ub)
  stepBad (k == .tile) (k == .stream) (k == .memory) (s.destOk q.ens) q.word

/-! ## Condition 3 of R45: the resource of each opcode -/

/-- Whether a read of an accumulator block that is requested now may begin: not FAILED, no verdict pending (R87). -/
def AccBlock.releasable (v : AccBlock) : Bool := !v.failed && v.pending == 0

/-- Whether the checksum row is fed (R92, R303). -/
def State.feedsRow (s : State) (u : Nat) (m : Mxp) : Bool := m.chkrow || s.observed u

/-- The beats for which a pass occupies the feed (R74, R90, R92). -/
def feedBeats (mode : Byte) (fed : Bool) : Nat := if strict mode then 256 + 4 * flag fed else 64 + flag fed

/-- The MXP resource (R77, R84): the feed free, fewer than four passes in flight, no read of the block, no TCFG of the
entry or register named still to complete. -/
def State.mxpReady (s : State) (u : Nat) (m : Mxp) : Bool :=
  let fs := s.firedAll u
  !fs.any (unacted 0x11)
    && (fs.filter (fun f => opOf f.q.word == 0x11)).length < 4
    && ((s.tile u).block m.acc).reading == 0
    && !fs.any (fun f => opOf f.q.word == 0x12 &&
        (let t := tcfgOf f.q.word
         if t.scale then t.index == m.tscale else t.index == m.masksel))

/-- The number of fired steps of an opcode on a unit. -/
def State.firedCount (s : State) (u op : Nat) : Nat := ((s.firedAll u).filter (fun f => opOf f.q.word == op)).length

/-- Whether a fetch into a slot is in progress. -/
def State.fetching (s : State) (u op slot : Nat) : Bool :=
  (s.firedAll u).any (fun f => opOf f.q.word == op && opnd f.q.word 0 6 == slot)

/-- Whether a member waits at a MODE barrier: nothing behind its MODE step fires until it has adopted the new mode (R63). -/
def State.atMode (s : State) (ub : Nat) : Bool := (s.bk ub).fired.any (fun f => opOf f.q.word == 0x01)

/-- Whether the resource a step's opcode needs is free. -/
def State.opcodeFree (s : State) (ub : Nat) (w : W128) : Bool :=
  let u := unitOf ub
  let t := s.tile u
  match opOf w with
  | 0x03 => (syncOf (opnd w 0 80)).op == 0
      || !(s.firedAll u).any (fun f => opOf f.q.word == 0x03 && (syncOf (opnd f.q.word 0 80)).op != 0)
  | 0x11 => s.mxpReady u (mxpOf w)
  | 0x13 => (t.block (drainOf w).acc).releasable
  | 0x60 => s.firedCount u 0x60 < 4 && !s.fetching u 0x60 (opnd w 0 6)
  | 0x61 =>
    let o := streamOf w
    (s.ctx (u - 512) o.ctx).st == .idle && ((s.se (u - 512)).slots.get {} o.slot).loaded
      && !s.fetching u 0x60 o.slot && !(s.firedAll u).any (unacted 0x61)
      && !(s.firedAll u).any (isStreamOf o.ctx)
  | 0x90 => s.firedCount u 0x90 < 2 && !s.fetching u 0x90 (opnd w 0 6)
  | 0x91 => (s.job (u - 768) (opnd w 6 2)).state == 0 && !s.fetching u 0x90 (opnd w 0 6)
      && !(s.firedAll u).any (unacted 0x91)
  | op =>
    if isVector op then
      !(s.firedAll u).any (fun f => isVector (opOf f.q.word) && !f.acted)
        && (accSources w).all (fun x => (t.block x.1).releasable)
    else true

/-- Whether the resource a step needs is free (R45 condition 3). -/
def State.resourceFree (s : State) (ub : Nat) (w : W128) : Bool := !s.atMode ub && s.opcodeFree ub w

/-- Conditions 1 and 2 of R45: a token in every waited counter, the credits in the pool named. -/
def State.inputsReady (s : State) (ub : Nat) (w : W128) : Bool :=
  let b := s.bk ub
  (onesOf (waitOf w) 16).all (fun i => 1 ≤ b.tk.get 0 i) && (creditsOf w).2 ≤ b.cp.get 0 (creditsOf w).1

/-! ## Walk-throughs that are due (R295–R297, R400) -/

/-- The interval at which a unit in a health state takes walk-throughs; none once it is retired (R295). -/
def State.walkLimit (s : State) (st : HealthState) : Option Nat :=
  match st with
  | .healthy => some (s.limit 0x14)
  | .retired => none
  | _ => some (s.limit 0x15)

/-- The counter of delivered beats that a unit goes by: its tier die's, its memory-side domain's, or that of the stream engines'
clock. -/
def beatDomain (cls unit : Nat) : Nat :=
  match cls with
  | 0 => tierOf unit
  | 1 => tierOf (unit / 4)
  | 2 => tierOf unit
  | 5 => 32 + unit / 8
  | _ => 44

/-- The beats delivered to a unit since its counter stood at `since` (R400). -/
def State.beatsSince (s : State) (cls unit since : Nat) : Nat := (s.beats.get 0 (beatDomain cls unit) - since) / 64

/-- A tile's interval counter (R295): the passes fired since its last walk-through, and one for each 64 beats in which its feed
was idle. -/
def State.tileInterval (s : State) (n : Nat) : Nat :=
  let w := (s.tile n).walked
  w.passes + (s.beatsSince 0 n w.since - w.beats) / 64

/-- Whether a tile's walk-through is due (R295, R303): a retired tile still runs under observation. -/
def State.tileDue (s : State) (n : Nat) : Bool :=
  (if s.observed n then s.limit 0x15 else s.limit 0x14) ≤ s.tileInterval n || 49152 ≤ (s.tile n).walked.entries

/-- Whether a walk-through of a vector unit, stream engine or cluster is due: its counter advances by one for every 64 beats (R295). -/
def State.otherDue (s : State) (cls unit : Nat) : Bool :=
  match healthIdx cls unit with
  | none => false
  | some i => match s.walkLimit (s.hl i).st with
    | none => false
    | some n => n ≤ s.beatsSince cls unit (s.hl i).walked / 64

/-- Whether a step waits for a walk-through that is due before it: an MXP for its tile's, a vector step for its vector unit's (R97,
R296, R297). -/
def State.walkFirst (s : State) (ub : Nat) (w : W128) : Bool :=
  unitKind (unitOf ub) == .tile
    && (opOf w == 0x11 && s.tileDue (unitOf ub) || isVector (opOf w) && s.otherDue 2 (unitOf ub))

/-- Whether a unit is held from firing: a locate re-run or replay (R93, R298), the sparing of its position, or a position that
is unserved, whose steps wait (R15). -/
def State.heldUnit (s : State) (u : Nat) : Bool :=
  match unitKind u with
  | .tile => (s.tile u).repair != .none || (s.tserv.get {} u).settling || (s.tserv.get {} u).unserved
  | .stream => (s.sserv.get {} (u - 512)).settling || (s.sserv.get {} (u - 512)).unserved
  | _ => false

/-- The step that a bank is to fire next: the first of its queue that no cancelled group names (R56). -/
def State.headOf (s : State) (ub : Nat) : Option QStep :=
  ((s.bk ub).queue.dropWhile (fun q => bitOf (s.bk ub).cancelled (groupOf q.word))).head?

/-- Whether a step of a bank has all it needs to fire, a walk-through that is due before it apart. -/
def State.couldFire (s : State) (ub : Nat) (q : QStep) : Bool :=
  s.runs ub && !s.heldUnit (unitOf ub) && s.inputsReady ub q.word && s.resourceFree ub q.word

/-- Whether the next step of a bank would fire now. -/
def State.canFire (s : State) (ub : Nat) : Bool :=
  match s.headOf ub with
  | none => false
  | some q => s.couldFire ub q && !s.walkFirst ub q.word

/-! ## The faults judged as a step would fire (R98, R140, R167, R283) -/

/-- The faults of an MXP in the order of R98; none where it fires. -/
def State.mxpFault (s : State) (ub : Nat) (m : Mxp) : Option Nat :=
  let t := s.tile (unitOf ub)
  let b := s.bk ub
  let v := t.block m.acc
  let fw := if m.reuse then t.active.fmt.toNat else m.fmtW
  let int := isIntFmt m.fmtA && isIntFmt fw
  if m.reuse && !t.active.valid then some cNoWeights
  else if family m.fmtA != family fw || isIntSide m.fmtA != isIntSide fw
      || (family m.fmtA == .f32 && !strict b.mode)
      || (m.accum && !v.empty && v.isInt != int) then some cFormatMismatch
  else if m.accum && v.empty then some cAccEmpty
  else if m.accum && v.epoch != b.epoch then some cEpochMismatch
  else none

/-- The fault of a read of accumulator blocks: EMPTY before the epoch (R88, R140). -/
def State.readFault (s : State) (ub : Nat) (blocks : List Nat) : Option Nat :=
  let t := s.tile (unitOf ub)
  if blocks.any (fun b => (t.block b).empty) then some cAccEmptyRead
  else if blocks.any (fun b => (t.block b).epoch != (s.bk ub).epoch) then some cEpochMismatch
  else none

/-- The length of a descriptor's stream in elements. -/
def descElems (d : List Byte) : Nat := field d 4 4 * field d 8 4 * field d 0xC 4 * field d 0x10 4

/-- The memory-side format of a descriptor: MFMT under CONVERT, FMT otherwise (R222). XPARAM [4:0] holds MFMT. -/
def descMemFmt (d : List Byte) : Nat := if field d 0x60 1 = 1 then bits (field d 0x68 4) 0 5 else field d 1 1

/-- The transactions of a stream: 256 bytes of FMT each (R163, R222). -/
def descTotal (d : List Byte) : Nat := descElems d * elemBits (field d 1 1) / 2048

def descDir (d : List Byte) : Nat := field d 0 1
/-- Whether the stream lands in a ring: READ, GET, RECV. -/
def landsInRing (d : List Byte) : Bool := descDir d == 0 || descDir d == 3 || descDir d == 4
/-- Whether the stream's source is an accumulator block. -/
def accSource (d : List Byte) : Bool := (descDir d == 1 || descDir d == 2) && field d 2 1 == 1

/-! ## The end of a stream (R176) -/

/-- Whether every transaction has retired and nothing is left to issue or flush. -/
def Ctx.ended (v : Ctx) : Bool :=
  v.st == .active && v.low == descTotal v.desc && v.outs.isEmpty && v.redo.isEmpty && v.flushTs.isEmpty

/-- A stream that has ended: its step completes, its pointers stay, the context is IDLE (R176); a block that it has sent early and
that is not settled stays so (R284). A step that has read poison does not complete (R133). -/
def State.endStream (s : State) (n c : Nat) : State :=
  let v := s.ctx n c
  if v.ended then
    let past := v.slotFor (descTotal v.desc)
    let s := s.setCtx n c { v with
      st := .idle, began := false, unsettled := v.unsettled.map (fun x => { x with live := false }),
      wr := if landsInRing v.desc then past else v.wr,
      rd := if landsInRing v.desc || accSource v.desc then v.rd else past }
    if v.spoiled then s.abandonStep v.ub (isStreamOf c) else s.finishStep v.ub (isStreamOf c)
  else s

/-! ## What stops a step as it would fire -/

/-- The floor tags of an engine's ACTIVE and HALTED contexts (R171). -/
def State.floorSum (s : State) (n : Nat) : Nat :=
  ((List.range 8).map (fun c =>
    let v := s.ctx n c
    if v.st == .active || v.st == .halted then field v.desc 0x48 2 else 0)).sum

/-- Whether a STREAM breaks a rule between its step word and its descriptor (R167, R188, R283). -/
def streamMismatch (o : StreamOps) (d : List Byte) : Bool :=
  let acc := field d 2 1 == 1
  let arrays := (onesOf o.amask.toNat 4).length
  (acc && (arrays == 0 || descTotal d != 64 * arrays))
    || (o.early && !(field d 0 1 == 2 && acc && field d 0x54 1 == 1))

/-- What stops a step as it would fire: a fault, an unserved tile, or nothing. -/
inductive FireStop where
  | none
  | fault (code : Nat)
  | absent
deriving DecidableEq, Repr

/-- The rules judged only as a step would fire (R548). -/
def State.fireStop (s : State) (ub : Nat) (w : W128) : FireStop :=
  let u := unitOf ub
  let of (o : Option Nat) : FireStop := match o with | .none => .none | some c => .fault c
  match opOf w with
  | 0x11 => of (s.mxpFault ub (mxpOf w))
  | 0x13 => of (s.readFault ub [(drainOf w).acc])
  | 0x61 =>
    let n := u - 512
    let o := streamOf w
    let d := ((s.se n).slots.get {} o.slot).desc
    if streamMismatch o d then .fault cMalformedStep
    else if !s.unitHere (selTile n o.tsel) then .absent
    else if 384 < s.floorSum n + field d 0x48 2 then .fault cFloorExceeded
    else .none
  | 0x91 => if ((s.mse (u - 768)).work.get [] (opnd w 0 6)).isEmpty then .fault cMalformedStep else .none
  | op => if isVector op then of (s.readFault ub ((accSources w).map (·.1))) else .none

/-! ## Firing -/

/-- The counters and pools after a step consumed its tokens and credits (R45). -/
def Bank.consume (b : Bank) (w : W128) : Bank :=
  let tk := (onesOf (waitOf w) 16).foldl (fun m i => Map.set m 0 i (m.get 0 i - 1)) b.tk
  let (p, n) := creditsOf w
  { b with tk := tk, cp := b.cp.set 0 p (b.cp.get 0 p - n) }

/-- What a fired step captures: mask and tensor scale (R84), mode and table set (R91, R143, R212), the descriptor of a STREAM,
with the PSEQ of the tile it reads (R87, R160), or of an MRUN (R209). -/
def State.capture (s : State) (ub : Nat) (q : QStep) : Fired :=
  let u := unitOf ub
  let t := s.tile u
  let m := mxpOf q.word
  let mode := (s.bk ub).mode
  let f : Fired := { q := q, mode := mode, tables := if unitKind u == .tile then t.tables.get [] (fld mode 4 4) else [] }
  match opOf q.word with
  | 0x11 => { f with mask := t.masks.get {} m.masksel, scale := t.scales.get 0x3F800000 m.tscale, pseq := t.pseq.toNat }
  | 0x61 =>
    let o := streamOf q.word
    let sl := (s.se (u - 512)).slots.get {} o.slot
    { f with data := sl.desc, use := if o.rewind then 0 else sl.uses,
             pseq := (s.tile (selTile (u - 512) o.tsel)).pseq.toNat }
  | 0x91 => { f with data := (s.mse (u - 768)).work.get [] (opnd q.word 0 6) }
  | _ => f

/-- What firing changes in the unit: an MXP counts PSEQ and takes its block (R86, R299); a read sets READING (R87); a STREAM is a
use of its descriptor slot (R163). -/
def State.fireTile (s : State) (ub : Nat) (w : W128) : State :=
  let u := unitOf ub
  let t := s.tile u
  let read (t : Tile) (b : Nat) : Tile := t.setBlock b { t.block b with reading := (t.block b).reading + 1 }
  match opOf w with
  | 0x11 =>
    let m := mxpOf w
    let v := t.block m.acc
    let fw := if m.reuse then t.active.fmt.toNat else m.fmtW
    let v := { v with pending := v.pending + 1, last := t.pseq.toNat }
    let v := if m.accum then v
      else { v with empty := false, epoch := (s.bk ub).epoch, isInt := isIntFmt m.fmtA && isIntFmt fw,
                    pool := m.cpool, count := m.ccount, suspect := false }
    let walked := { t.walked with passes := t.walked.passes + 1,
                                  beats := t.walked.beats + feedBeats (s.bk ub).mode (s.feedsRow u m) }
    s.setTile u { t.setBlock m.acc v with pseq := t.pseq + 1, walked := walked }
  | 0x13 => s.setTile u (read t (drainOf w).acc)
  | 0x61 =>
    let o := streamOf w
    let v := s.se (u - 512)
    let sl := v.slots.get {} o.slot
    s.setSe (u - 512) { v with slots := v.slots.set {} o.slot { sl with uses := (if o.rewind then 0 else sl.uses) + 1 } }
  | op => if isVector op then s.setTile u ((accSources w).foldl (fun t x => read t x.1) t) else s

/-- The slip of a bar's last step to fire (R51): the beats delivered since START beyond the bar's nominal first beat. -/
def slipOf (x : Ens) (dyn : Nat) : Nat := x.beats / 64 - 64 * dyn

/-- A CK_MGT cycle delivers four beats, less those that pulse swallowing takes (R400), to every power domain and to every RUNNING
ensemble (R50, R51): its domains run at one rate (R408), the lowest where they are being brought to it. -/
def State.deliverBeats (s : State) : State :=
  { s with
    beats := (List.range 44).foldl (fun m d => Map.set m 0 d (Map.get m 0 d + 4 * (s.dom d).rate))
      (s.beats.set 0 44 (s.beats.get 0 44 + 4 * 64)),
    ens := s.ens.map (fun (x : Nat × Ens) =>
      if x.2.st = .running then
        (x.1, { x.2 with beats := x.2.beats + 4 * (s.ensDomains x.1).foldl (fun r d => min r (s.dom d).rate) 64 })
      else x) }

/-- A step has left its queue: its bar has one unfired step fewer (R58). -/
def State.barUnfired (s : State) (e dyn : Nat) (slip : LiveBar → Nat) : State :=
  let x := s.en e
  let live := modFirst (fun b => b.dyn == dyn) (fun b => { b with unfired := b.unfired - 1, slip := slip b }) x.live
  s.setEn e { x with live := live }

/-- A step has fired: the slip of its bar is that of this step, the last to fire so far (R51). -/
def State.barFired (s : State) (e dyn : Nat) : State := s.barUnfired e dyn (fun _ => slipOf (s.en e) dyn)

/-- A step of a bar will never fire: it is skipped, or not executed. -/
def State.barPassed (s : State) (e dyn : Nat) : State := s.barUnfired e dyn LiveBar.slip

/-- A head step skipped: its group is cancelled (R56). -/
def State.skip (s : State) (ub : Nat) (q : QStep) : State :=
  let s := s.setBk ub { s.bk ub with queue := (s.bk ub).queue.tail }
  (s.barPassed q.ens q.dyn).barDone q.ens q.dyn

/-- A step that is not executed because a tile it names is unserved: it moves no data and emits nothing (R167). -/
def State.fireAbsent (s : State) (ub : Nat) (q : QStep) : State :=
  let s := s.setBk ub { ((s.bk ub).consume q.word) with queue := (s.bk ub).queue.tail }
  let s := (s.barPassed q.ens q.dyn).barDone q.ens q.dyn
  s.unitAbsent ub (some q)

/-- A step fires (R45): tokens and credits go, the step leaves the queue, and the Caller's replay window takes it
(R59: the last sixteen of a tile). -/
def State.fire (s : State) (ub : Nat) (q : QStep) : State :=
  let f := s.capture ub q
  let s := s.fireTile ub q.word
  let b := (s.bk ub).consume q.word
  let window := b.window ++ [f]
  let window := window.drop (window.length - 16)
  let s := s.setBk ub { b with queue := b.queue.tail, fired := b.fired ++ [f],
                               window := if unitKind (unitOf ub) == .tile then window else b.window }
  let s := { s with lastBank := s.lastBank.set 0 (unitOf ub) (bankOf ub) }
  let s := s.traceStep (unitOf ub) q
  s.barFired q.ens q.dyn

def execStepFire (ub : Nat) (s : State) : Result :=
  match (s.bk ub).queue with
  | [] => .next s
  | q :: _ =>
    let other := unitOf ub + 1024 * (1 - bankOf ub)
    if !s.runs ub || !s.unitServed (unitOf ub) then .next s
    else if bitOf (s.bk ub).cancelled (groupOf q.word) then .next (s.skip ub q)
    else if s.malformed ub q then .next (s.stepFault ub q cMalformedStep)
    else if s.heldUnit (unitOf ub) then .next s
    else if !(s.inputsReady ub q.word && s.resourceFree ub q.word) || s.walkFirst ub q.word then .next s
    else if s.lastBank.get 0 (unitOf ub) == bankOf ub && s.canFire other then .next s
    else match s.fireStop ub q.word with
      | .fault c => .next (s.stepFault ub q c)
      | .absent => .next (s.fireAbsent ub q)
      | .none => .next (s.fire ub q)

/-! ## Completion (R46) -/

/-- Whether a step is one that STEP_COMPLETE ends: its effect is done and its opcode's time has passed. -/
def timed (f : Fired) : Bool :=
  let op := opOf f.q.word
  f.acted && (op == 0x02 || op == 0x12 || op == 0x13 || isVector op)

def execStepComplete (ub : Nat) (s : State) : Result := .next (s.finishStep ub timed)

/-! ## The common opcodes (R44) -/

/-- Applies `act` to the oldest fired step of an opcode that has not acted; nothing where there is none. -/
def State.onFired (s : State) (ub op : Nat) (act : State → Fired → State) : Result :=
  match s.firedStep ub (unacted op) with
  | none => .next s
  | some f => .next (act s f)

/-- Marks a fired step as having acted. -/
def State.markActed (s : State) (ub : Nat) (f : Fired) : State :=
  s.modFired ub (· == f) (fun f => { f with acted := true })

def execNop (ub : Nat) (s : State) : Result := s.onFired ub 0x00 (fun s f => s.finish ub f)

/-- Whether some MODE step is between arriving at its barrier and completing (R367). -/
def State.modeInBarrier (s : State) : Bool :=
  s.banks.any (fun b => b.2.fired.any (fun f => opOf f.q.word == 0x01 && f.acted))

/-- Whether a commit of table sets is under way: its sets have passed their checks, and no MODE step is in its barrier, so that it
has begun (R367). -/
def State.committing (s : State) : Bool := s.loader.commit && !s.modeInBarrier

/-- A MODE step arrives at its barrier, as an arrival the home recognises (R63, R198); while a commit of table sets is
under way it waits before it arrives (R367). -/
def execMode (ub : Nat) (s : State) : Result :=
  if s.committing then .next s
  else s.onFired ub 0x01 (fun s f => (s.markActed ub f).send (.arrive (.unit ub true) (opnd f.q.word 0 15) 1 f.q.ref))

/-- A tile that adopts MODE_BITS adopts every committed table set (R366). -/
def State.adoptTables (s : State) (u : Nat) : State :=
  match unitKind u with
  | .tile => s.setTile u { s.tile u with tables := s.loader.committed }
  | _ => s

/-- A CANCEL step: the Caller applies the change and broadcasts it; the step ends as it is acknowledged (R55). -/
def execCancelStep (ub : Nat) (s : State) : Result :=
  s.onFired ub 0x02 (fun s f =>
    (s.markActed ub f).groupChange f.q.ens (opnd f.q.word 0 8) (bitOf f.q.word 8))

/-- The answer "unit absent" goes to what sent the packet (R33, R264). -/
def State.answerAbsent (s : State) (src : Nat) : State := s.send (.absent src)

/-- The broadcast reaches a member (R55), behind what the Caller sent it before (R269): streams and jobs in flight of a cancelled group
settle (R186, R230). For a member that is unserved the router answers the Caller "unit absent" (R264). -/
def execCancelBroadcast (ub : Nat) (e : BitVec 3) (group : Byte) (action : Bool) (s : State) : Result :=
  let p := Packet.cancelled ub e.toNat group.toNat action
  let late := s.heldUp p
  let s := if late then s else s.take p
  if late || s.ensOf ub != e.toNat then .next s
  else if !s.unitHere (unitOf ub) then .next (s.answerAbsent (callerSource e.toNat))
  else
    let s := s.setBk ub { s.bk ub with cancelled := putBit (s.bk ub).cancelled group.toNat action }
    if action then .next (s.drainUnit ub (fun f => groupOf f.q.word == group.toNat)) else .next s

/-- A ROUTE step rewrites one slot of one emit route and completes (R44). -/
def execRoute (ub : Nat) (s : State) : Result :=
  s.onFired ub 0x04 (fun s f =>
    let w := f.q.word
    let b := s.bk ub
    let s := s.setBk ub { b with routes := b.routes.set 0 (4 * opnd w 0 4 + opnd w 4 2) (BitVec.ofNat 32 (opnd w 32 32)) }
    s.finish ub f)

/-! ## Tokens, credits, absence (R33, R47, R48) -/

/-- A fault of a unit that is no step's: TOKEN_SATURATED or CREDIT_OVERFLOW stops its ensemble (R48). -/
def State.unitStop (s : State) (ub code : Nat) : State :=
  let e := s.ensOf ub
  let (c, n) := unitClass (unitOf ub)
  let s := s.raise { recOf code c n with ens := e, epoch := (s.bk ub).epoch.toNat }
  s.stopOn e code

/-- Whether the counters and pools of a unit are frozen: its ensemble is DONE (R35). -/
def State.frozenCounts (s : State) (ub : Nat) : Bool := s.ensOf ub < 8 && (s.en (s.ensOf ub)).st == .done

/-- Whether a unit takes tokens and credits: a served member of an ensemble that is not IDLE (R33). -/
def State.takesTokens (s : State) (ub : Nat) : Bool := s.ensOf ub < 8 && s.unitHere (unitOf ub)

/-- A token counted (R47, R48). -/
def State.countToken (s : State) (ub tk : Nat) : State :=
  let b := s.bk ub
  if b.tk.get 0 tk < 255 then s.setBk ub { b with tk := b.tk.set 0 tk (b.tk.get 0 tk + 1) }
  else s.unitStop ub cTokenSaturated

/-- STATUS of a gateway's command (R342). -/
abbrev gwPoisoned : Nat := 1
abbrev gwAbsent : Nat := 2
abbrev gwPermission : Nat := 3
abbrev gwPcFrozen : Nat := 4
abbrev gwHostErr : Nat := 5
abbrev gwUnitAbsent : Nat := 6
abbrev gwMalformed : Nat := 7

/-- Answers command `c` of a gateway: its status, and data for a read. -/
def State.gwDone (s : State) (g : Nat) (c : GwCmd) (status : Nat) (data : List Byte) : State :=
  let v := s.gw g
  s.setGw g { v with cmds := modFirst (· == c) (fun c => { c with status := some status, data := data }) v.cmds }

/-- A TOKEN of a gateway is discarded: UNIT_ABSENT, and REFUSED (R345). -/
def State.gwTokenRefused (s : State) (g : Nat) (c : GwCmd) : State :=
  ((s.mark (64 + g) 11).setGw g { s.gw g with refused := true }).gwDone g c gwUnitAbsent []

/-- A gateway's TOKEN reaches its unit, which takes it only as a member of the command's ensemble while that runs (R345). -/
def State.gwTokenCame (s : State) (g ub tk : Nat) : State :=
  match (s.gw g).cmds.find? (fun c => c.sent && c.status.isNone && fld c.word 20 10 == unitOf ub && fld c.word 30 4 == tk) with
  | none => s
  | some c =>
    if s.runs ub && s.ensOf ub == fld c.ctl 11 3 && s.unitHere (unitOf ub) then (s.countToken ub tk).gwDone g c 0 []
    else s.gwTokenRefused g c

/-- The first packet of those `is` picks that no earlier packet of its way holds up (R269); `none` in the second place where all are
held up. -/
def State.firstFree (s : State) (is : Packet → Bool) : Option Packet × Bool :=
  let l := s.net.filter is
  (l.find? (fun p => !s.heldUp p), l.isEmpty)

/-- The source of a token or credit return. -/
def Packet.source (p : Packet) : Nat := match p with | .token src _ _ => src | .credit src _ _ _ => src | _ => 0xFFFF

/-- The source of the packet of those `is` picks that arrives next, 0xFFFF where none is on its way; none where all are held up. -/
def State.arrival (s : State) (is : Packet → Bool) : Option Nat :=
  match s.firstFree is with
  | (none, false) => none
  | (p, _) => some ((p.map Packet.source).getD 0xFFFF)

/-- The source of the token of counter `tk` that reaches a unit next. -/
def State.tokenSource (s : State) (ub tk : Nat) : Option Nat :=
  s.arrival (fun p => match p with | .token _ u k => u == ub && k == tk | _ => false)

/-- The source of the credit return of `n` to a pool that reaches a unit next. -/
def State.creditSource (s : State) (ub pool n : Nat) : Option Nat :=
  s.arrival (fun p => match p with | .credit _ u j m => u == ub && j == pool && m == n | _ => false)

/-- A token reaches a unit; a unit in no ensemble, or unserved, answers "unit absent" (R33). A token or credit return that
reaches a member of a DONE ensemble changes nothing and has no answer (R35; DESIGN CHOICE: what becomes of it). -/
def execToken (ub : Nat) (tk : BitVec 4) (s : State) : Result :=
  match s.tokenSource ub tk.toNat with
  | none => .next s
  | some src =>
    let s := s.take (.token src ub tk.toNat)
    match gwOfSource src with
    | some g => .next (s.gwTokenCame g ub tk.toNat)
    | none =>
      if !s.takesTokens ub then .next (s.answerAbsent src)
      else if s.frozenCounts ub then .next s
      else .next (s.countToken ub tk.toNat)

/-- A credit return reaches a unit (R48, R49). -/
def execCredit (ub : Nat) (pool : BitVec 3) (n : BitVec 16) (s : State) : Result :=
  let k := pool.toNat
  match s.creditSource ub k n.toNat with
  | none => .next s
  | some src =>
    let s := s.take (.credit src ub k n.toNat)
    if !s.takesTokens ub then .next (s.answerAbsent src)
    else if s.frozenCounts ub then .next s
    else
      let b := s.bk ub
      let v := b.cp.get 0 k + n.toNat
      if v ≤ b.ceil.get 0 k then .next (s.setBk ub { b with cp := b.cp.set 0 k v })
      else .next ((s.setBk ub { b with cp := b.cp.set 0 k (b.ceil.get 0 k) }).unitStop ub cCreditOverflow)

/-- An answer "unit absent" reaches a unit: a record, and its ensemble faults at its next barrier; an answer that reaches
a unit whose ensemble is no longer RUNNING is discarded (R15, R33). -/
def execAbsent (ub : Nat) (s : State) : Result :=
  let s := s.take (.absent ub)
  if s.runs ub then .next (s.unitAbsent ub none) else .next s

end Sys2Proof.Machine
end

