-- ==== Sys2Proof/Machine/Tile.lean ====
section
/-! DEFINITION. The matrix path of a tile (R68–R98, R107–R109, R129) and what follows its verdicts: the pass, TCFG,
DRAIN, the verdict, the locate re-run and column sparing, block replay (R281–R293), and the walk-throughs of every
unit that takes them (R295–R301). -/

namespace Sys2Proof.Machine

/-! ## Accumulator words -/

/-- The index of row `r`, column `c` of block `b` of array `a`. -/
def accKey (a b r c : Nat) : Nat := ((a * 8 + b) * 64 + r) * 64 + c

/-- A row of a block: 64 words. -/
def Tile.accRow (t : Tile) (a b r : Nat) : List W32 := Map.getAll t.acc 0 (accKey a b r 0) 64

def Tile.setAccRow (t : Tile) (a b r : Nat) (ws : List W32) : Tile :=
  { t with acc := Map.setAll t.acc 0 (accKey a b r 0) ws }

/-! ## TS_UNCORRECTABLE (R133) -/

/-- TS_UNCORRECTABLE of a step that has read a poisoned line: a record, and a health event of the tile, which the lines that the step
itself was the first to find have made already, as `fresh` says there are (R133, R134, R304). -/
def State.tsRecord (s : State) (tile ub : Nat) (f : Fired) (fresh : Bool) : State :=
  let s := s.raise (recStep cTsUncorrectable ub f.q (s.bk ub).epoch)
  if fresh then s else s.healthEvent 0 tile

/-- A step that read a poisoned line ends without tokens, and its ensemble stops. -/
def State.tsFault (s : State) (tile ub : Nat) (f : Fired) (fresh : Bool) : State :=
  ((s.tsRecord tile ub f fresh).abandon ub f).stopOn f.q.ens cTsUncorrectable

/-! ## The pass (R74–R76, R79, R83, R107, R108) -/

/-- An operand element as its exact value under its block scale. -/
def operand (mode : Byte) (fmt elemBits scaleByte : Nat) : Num :=
  if blockLen fmt = 0 then readElem mode (elem fmt) elemBits else scaledElem mode fmt elemBits scaleByte

/-- The elements of an activation row: K of them, the last KTAIL fed as zero (R75, R78), with their scales (R76). -/
def actRow (mode : Byte) (m : Mxp) (block scales : List Byte) (a r : Nat) : List Num :=
  let k := kOf m.fmtA
  let es := unpack m.fmtA ((block.drop (64 * r)).take 64)
  let per := k / blockLen m.fmtA
  (es.zipIdx).map (fun p =>
    if k ≤ p.2 + m.ktail then .zero
    else operand mode m.fmtA p.1
      (if blockLen m.fmtA = 0 then 0 else field scales (512 * a + per * r + p.2 / blockLen m.fmtA) 1))

/-- The weights of a loaded block as K rows of 64 values; masked columns load as zero (R75, R76, R83). -/
def weightRows (mode : Byte) (w : Weights) : List (List Num) :=
  let fmt := w.fmt.toNat
  let k := kOf fmt
  let bytes := 8 * elemBits fmt
  let per := k / blockLen fmt
  (List.range k).map (fun i =>
    let es := unpack fmt ((w.data.drop (bytes * i)).take bytes)
    (es.zipIdx).map (fun p =>
      if bitOf w.cols p.2 then .zero
      else operand mode fmt p.1
        (if blockLen fmt = 0 then 0 else field w.scales (per * p.2 + i / blockLen fmt) 1)))

/-- Exact sum of products of one output (R107). -/
def dot (xs ys : List Num) : Num := (xs.zip ys).foldl (fun s p => s.add (p.1.mul p.2)) .zero

/-- Column `c` of the weight rows. -/
def column (rows : List (List Num)) (c : Nat) : List Num := rows.map (fun r => nth r c .zero)

/-- The checksum column's weight for each K index: the exact sum of that index's 64 weights (R79, R83). -/
def checksumWeights (rows : List (List Num)) : List Num := rows.map (fun r => r.foldl Num.add .zero)

/-- The terms of one output that are not zero: the word already there, and the products under the tensor scale. -/
def liveTerms (ts acc : Num) (xs ys : List Num) : Nat :=
  flag (!acc.isZero) + (if ts.isZero then 0 else ((xs.zip ys).filter (fun p => !(p.1.mul p.2).isZero)).length)

/-- Whether a fast-mode output is open: a finite sum of more than one term, whose order and width are not specified (R107). -/
def openOut (mode : Byte) (ts acc : Num) (xs ys : List Num) : Bool := !strict mode && 1 < liveTerms ts acc xs ys

/-- A floating-point output word (R107, R109): exact and rounded once in strict mode; an open one is a free word. -/
def floatOut (mode : Byte) (ts acc : Num) (xs ys : List Num) (free : Nat) : W32 :=
  let v := acc.add (ts.mul (dot xs ys))
  if v.isFin && openOut mode ts acc xs ys then tame mode (Config.freeWord free) else toF32 mode v

/-- An integer output word (R86, R108), and whether it saturated. -/
def intOut (acc : Int) (xs ys : List Num) : W32 × Bool :=
  match dot xs ys with
  | .fin m e => satI32 (acc + m * pow2 e)
  | _ => satI32 acc

/-- A pass's own output, which the verdict compares before it is added and before the OVF policy (R86, R91, R282): exact for
integers, otherwise TS times the sum, rounded once to 24 bits; where it is open, the value of a free word. -/
def ownOut (mode : Byte) (int : Bool) (ts : Num) (xs ys : List Num) (free : Nat) : Num :=
  if int then dot xs ys
  else
    let v := ts.mul (dot xs ys)
    if v.isFin && openOut mode ts .zero xs ys then readF32 mode (tame (mode &&& 0b11111011) (Config.freeWord free))
    else v.round24

/-- The result of one row of an array. -/
structure RowOut where
  words : List W32
  sat   : Nat
  own   : List Num
deriving DecidableEq, Repr

/-- One row of an array: the words it leaves, saturations, and its own outputs, a masked column's as zero (R83, R107, R108).
The own output of an open overwriting column is the word written. -/
def rowOut (mode : Byte) (int accum : Bool) (ts : Num) (cols : BitVec 64) (old : List W32) (xs : List Num)
    (ws : List (List Num)) (free : Nat) : RowOut :=
  let outs := ((old.zip ws).zipIdx).map (fun p =>
    let o := p.1.1
    let ys := p.1.2
    if bitOf cols p.2 then (o, 0, Num.zero)
    else
      let own := ownOut mode int ts xs ys (free + p.2 + (if accum then 16384 else 0))
      if int then
        let r := intOut (if accum then o.toInt else 0) xs ys
        (r.1, flag r.2, own)
      else (floatOut mode ts (if accum then readF32 mode o else .zero) xs ys (free + p.2), 0, own))
  { words := outs.map (·.1), sat := (outs.map (·.2.1)).sum, own := outs.map (·.2.2) }

/-! ## The verdict's comparison (R91, R92, R281, R282) -/

/-- The tolerances of a comparison. -/
structure Tol where
  rel : Num
  abs : Num
deriving DecidableEq, Repr

/-- The standard tolerances (R281). -/
def standardTol (strictMode : Bool) : Tol :=
  if strictMode then { rel := .fin 1 (-21), abs := .fin 1 (-140) } else { rel := .fin 1 (-16), abs := .fin 1 (-118) }

/-- The tolerances a table set holds for a format and a mode (R355); the built-in set holds the standard ones (R356). -/
def tolOf (tables : List Byte) (fmt : Nat) (strictMode : Bool) : Tol :=
  if tables = [] then standardTol strictMode
  else
    let at' := 64 + 16 * fmt + 8 * flag strictMode
    { rel := decodeElem fp32 (field tables at' 4), abs := decodeElem fp32 (field tables (at' + 4) 4) }

/-- The format whose tolerances judge a pass: the activations', unless they are plain integers, then the weights' (DESIGN
CHOICE for a pass of two floating-point formats; INT8 with MXINT8 follows R108). -/
def tolFmt (a w : Nat) : Nat := if isIntFmt a then w else a

/-- What a comparison of one row or column finds. -/
inductive Agrees where
  | yes | no | left
deriving DecidableEq, Repr

/-- Compares outputs with their checksum output (R91): exactly for integers (`tol` none); left out where an output or the
checksum is not finite (R282). -/
def agree (tol : Option Tol) (ys : List Num) (c : Num) : Agrees :=
  if !c.isFin || ys.any (fun y => !y.isFin) then .left
  else
    let d := ((ys.foldl Num.add .zero).add c.neg).abs
    let bound : Num := match tol with
      | none => .zero
      | some t => t.abs.add (t.rel.mul ((ys.map Num.abs).foldl Num.add .zero))
    if bound.isNan || bound.lt d then .no else .yes

/-- What the comparisons of a pass found: the arrays with a row or column that did not agree, and how many were left out. -/
structure Judged where
  bad : BitVec 4 := 0
  nonfin : Nat := 0
deriving DecidableEq, Repr

/-- The sum of the fed activation rows: the checksum row (R91, R92). -/
def checksumRow (k : Nat) (xss : List (List Num)) : List Num :=
  xss.foldl (fun acc xs => (acc.zip xs).map (fun p => p.1.add p.2)) (List.replicate k .zero)

/-- The comparisons of one array: each fed row with its checksum column, and, with the checksum row fed, each unmasked column
with its checksum-row output. `rows` pairs the elements of each fed row with its own outputs. -/
def judgeArray (tol : Option Tol) (ts : Num) (fed : Bool) (cols : BitVec 64) (ws : List (List Num)) (sums : List Num)
    (rows : List (List Num × List Num)) : Nat × Nat :=
  let byRow := rows.map (fun r => agree tol r.2 (ts.mul (dot r.1 sums)))
  let crow := checksumRow sums.length (rows.map (·.1))
  let byCol := if fed then
      ((ws.zipIdx).filter (fun p => !bitOf cols p.2)).map (fun p =>
        agree tol (rows.map (fun r => nth r.2 p.2 .zero)) (ts.mul (dot crow p.1)))
    else []
  ((byRow ++ byCol).count .no, (byRow ++ byCol).count .left)

/-- The arithmetic of a pass on the tile's accumulators, given its captures and the tile-store bytes: the tile after it, and
what the comparisons found. The feed reads the rows that its mask leaves. Weights are kept as they were loaded, and the mode of the
pass that uses them says how their subnormals are read, under REUSE too (DESIGN CHOICE: R81 and R105 do not say whether the load's
mode or the pass's counts). -/
def Tile.pass (t : Tile) (m : Mxp) (f : Fired) (fed : Bool) (acts : List (List Byte)) (scales : List Byte) (free : Nat) :
    Tile × Judged :=
  let w := t.active
  let int := isIntFmt m.fmtA && isIntFmt w.fmt.toNat
  let ts := if int then .one else readF32 f.mode f.scale
  let rows := weightRows f.mode w
  let ws := (List.range 64).map (column rows)
  let sums := checksumWeights rows
  let tol := if int then none else some (tolOf f.tables (tolFmt m.fmtA w.fmt.toNat) (strict f.mode))
  (acts.zipIdx).foldl (fun (acc : Tile × Judged) p =>
    let (t, j) := acc
    let a := p.2
    let live := (List.range 64).filter (fun r => !bitOf f.mask.rows (64 * a + r))
    let xss := live.map (fun r => (r, actRow f.mode m p.1 scales a r))
    let outs := xss.map (fun x => (x.1, x.2,
      rowOut f.mode int m.accum ts w.cols (t.accRow a m.acc x.1) x.2 ws (free + 4096 * a + 64 * x.1)))
    let t := outs.foldl (fun (t : Tile) o => (t.setAccRow a m.acc o.1 o.2.2.words).addEvents { sat := o.2.2.sat }) t
    let (no, left) := judgeArray tol ts fed w.cols ws sums (outs.map (fun o => (o.2.1, o.2.2.own)))
    (t, { bad := putBit j.bad a (0 < no), nonfin := j.nonfin + left })) (t, {})

/-- The tile-store bytes a pass reads: four activation blocks, the weight block, the scale block (R75, R76). -/
def State.passBytes (s : State) (u : Nat) (m : Mxp) : List (List Byte) × List Byte × List Byte :=
  ((List.range 4).map (fun a => s.tsRead u (4096 * m.aUnit a) 4096), s.tsRead u (4096 * m.wbase) 4096,
   s.tsRead u (4096 * m.sbase) 4096)

/-- The byte addresses of the tile-store lines that a pass reads (R74–R76, R83): the rows its masks leave with their scales, and
a loading pass's weights with theirs. -/
def passLines (m : Mxp) (rows : BitVec 256) : List Nat :=
  let perA := if blockLen m.fmtA = 0 then 0 else kOf m.fmtA / blockLen m.fmtA
  let perW := if blockLen m.fmtW = 0 then 0 else kOf m.fmtW / blockLen m.fmtW
  let live := ((List.range 256).filter (fun i => !bitOf rows i)).map (fun i => (i / 64, i % 64))
  (live.map (fun p => 4096 * m.aUnit p.1 + 64 * p.2)
    ++ (if perA = 0 then [] else live.map (fun p => 4096 * m.sbase + (512 * p.1 + perA * p.2) / 64 * 64))
    ++ (if m.reuse then [] else (List.range 64).map (fun k => 4096 * m.wbase + 64 * k)
        ++ (List.range perW).map (fun k => 4096 * m.sbase + 2048 + 64 * k))).eraseDups

/-- The lines that a pass reads pass their code (R132, R133). -/
def State.passLoad (s : State) (u : Nat) (m : Mxp) (rows : BitVec 256) : State :=
  (passLines m rows).foldl (fun s a => s.tsLoadLine u true .clean (a / 64)) s

/-- Whether a line that a pass reads is poisoned. -/
def State.passBad (s : State) (u : Nat) (m : Mxp) (rows : BitVec 256) : Bool := (passLines m rows).any (fun a => s.tsBad u a 64)

/-- The tile with a pass's weight block loaded; the old active set stands in the shadow registers (R79). -/
def Tile.loadWeights (t : Tile) (m : Mxp) (cols : BitVec 64) (data scales : List Byte) : Tile :=
  if m.reuse then t
  else { t with active := { valid := true, fmt := BitVec.ofNat 5 m.fmtW, data := data,
                            scales := (scales.drop 2048).take 512, cols := cols },
                shadow := t.active }

/-- Executes a pass (R86, R91, R107): weights, arithmetic and comparisons; open outputs take free words. -/
def State.runPass (s : State) (u : Nat) (f : Fired) : State × Judged :=
  let m := mxpOf f.q.word
  let (acts, wdata, scales) := s.passBytes u m
  let t := (s.tile u).loadWeights m f.mask.cols wdata scales
  let (t, j) := t.pass m f (s.feedsRow u m) acts scales s.free
  ({ s.setTile u t with free := s.free + 32768 }, j)

/-- One pass into the block has its verdict: PENDING falls by one (R85). -/
def State.verdictCame (s : State) (u b : Nat) : State :=
  let t := s.tile u
  let v := t.block b
  s.setTile u (t.setBlock b { v with pending := v.pending - 1 })

/-- Marks a block FAILED. -/
def State.failBlock (s : State) (u b : Nat) : State :=
  let t := s.tile u
  s.setTile u (t.setBlock b { t.block b with failed := true })

/-! ## TCFG and DRAIN (R82, R84, R88) -/

/-- The mask-table entry that 64 bytes spell (R82). -/
def maskEntry (l : List Byte) : MaskEntry :=
  { rows := BitVec.ofNat 256 (field l 0 32), cols := BitVec.ofNat 64 (field l 32 8) }

def execTcfg (ub : Nat) (s : State) : Result :=
  s.onFired ub 0x12 (fun s f =>
    let u := unitOf ub
    let o := tcfgOf f.q.word
    let before := s.tpoison
    let s := s.tsLoadLine u true .clean o.src
    if s.tsBad u (64 * o.src) 64 then s.tsFault u ub f (s.tpoison != before)
    else
      let l := s.tsRead u (64 * o.src) 64
      let t := s.tile u
      let t := if o.scale then { t with scales := t.scales.set 0x3F800000 o.index (BitVec.ofNat 32 (field l 0 4)) }
        else { t with masks := t.masks.set {} o.index (maskEntry l) }
      (s.setTile u t).markActed ub f)

/-- A block of one array as bytes, row by row (R88). -/
def Tile.blockBytes (t : Tile) (a b : Nat) : List Byte :=
  (List.range 64).flatMap (fun r => (t.accRow a b r).flatMap (fun w => leBytes 4 w.toNat))

def execDrain (ub : Nat) (s : State) : Result :=
  s.onFired ub 0x13 (fun s f =>
    let u := unitOf ub
    let o := drainOf f.q.word
    let t := s.tile u
    let s := (onesOf o.amask 4).foldl (fun s a => s.tsPut u (4096 * (o.dst + 4 * a)) (t.blockBytes a o.acc) false) s
    let s := s.release u ub o.acc o.amask 1 o.dst o.free
    s.markActed ub f)

/-! ## The verdict (R85, R91, R93, R282, R284) -/

/-- Whether a fired step is a pass whose verdict is still to come. -/
def awaitsVerdict (f : Fired) : Bool := opOf f.q.word == 0x11 && f.acted && !f.replay

/-- A clean pass counted for a tile and its arrays (R302), and the tile's pass count. -/
def State.cleanPass (s : State) (u : Nat) : State :=
  let one (s : State) (p : Nat × Nat) : State :=
    match healthIdx p.1 p.2 with
    | none => s
    | some i => (s.setHl i { s.hl i with passes := (s.hl i).passes + 1 }).settle p.1 p.2
  [(0, u), (1, 4 * u), (1, 4 * u + 1), (1, 4 * u + 2), (1, 4 * u + 3)].foldl one s

/-- Whether an early send is of block `b` of a tile. -/
def Unsettled.of (x : Unsettled) (u b : Nat) : Bool := x.tile == u && x.acc == b

/-- The contexts of the engine of a tile's pair (R155) that have sent block `b` early and are not settled. -/
def State.earlyCtxs (s : State) (u b : Nat) : List Nat :=
  (List.range 8).filter (fun c => (s.ctx (pairSe u) c).unsettled.any (·.of u b))

/-- Whether a stream has issued every transaction, so that an accumulator source has been read to its last row. -/
def Ctx.allIssued (v : Ctx) : Bool := v.redo.isEmpty && v.next == descElems v.desc * elemBits (field v.desc 1 1) / 2048

/-- The release of a stream's accumulator read at its end (R89, R167, R300); an early send's block is held until its
VERDICT is PASS, for a FAIL is answered by reading the rebuilt block again (R288). -/
def State.releaseRead (s : State) (n c : Nat) : State :=
  let v := s.ctx n c
  if v.began && v.allIssued && !v.unsettled.any (·.live) then
    let s := s.release (selTile n v.tsel) v.ub v.acc v.amask.toNat (if v.early then 3 else 2) (8 * n + c) v.accFree
    s.setCtx n c { s.ctx n c with began := false }
  else s

/-- Whether the pass that PSEQ `a` numbers fired before `p` was the next to fire: PSEQ wraps at 32 bits (R87, R299). -/
def firedBefore (a p : Nat) : Bool :=
  let d := (p + 2 ^ 32 - a) % 2 ^ 32
  0 < d && d ≤ 2 ^ 31

/-- Whether a pass into block `b` that fired before PSEQ `p` has no verdict yet (R87, R284). -/
def State.pendingBefore (s : State) (u b p : Nat) : Bool :=
  (s.firedAll u).any (fun f => opOf f.q.word == 0x11 && (mxpOf f.q.word).acc == b && !f.replay && firedBefore f.pseq p)

/-- The trailing VERDICT of one block sent early. After a PASS it is settled once its stream has ended; the read of one whose stream
has ended already ends with it. After a FAIL the block is to be sent again (R288). -/
def State.trailOne (s : State) (n c : Nat) (failed : Bool) (x : Unsettled) : State :=
  let s := s.sendVerdict n c x.desc x.count (if failed then 1 else 0)
  let v := s.ctx n c
  if failed then s.setCtx n c { v with unsettled := modFirst (· == x) (fun x => { x with failed := true }) v.unsettled }
  else
    let s := s.setCtx n c { v with unsettled := dropFirst v.unsettled x }
    if x.live then s.releaseRead n c else s.release x.tile x.ub x.acc x.amask.toNat 3 (8 * n + c) x.free

/-- The trailing VERDICTs of a block sent early, once the last of the passes fired before its STREAM has its verdict (R284,
R288). -/
def State.trailing (s : State) (u b : Nat) (failed : Bool) : State :=
  (s.earlyCtxs u b).foldl (fun s c =>
    let n := pairSe u
    ((s.ctx n c).unsettled.filter (fun x => x.of u b && !x.failed && !s.pendingBefore u b x.asked)).foldl
      (fun s x => s.trailOne n c failed x) s) s

/-- After a verdict: the trailing VERDICTs that no verdict is outstanding for go. -/
def State.afterVerdict (s : State) (u b : Nat) : State := s.trailing u b ((s.tile u).block b).failed

/-- The pass runs through the arrays (R71–R81, R107). A pass that reads a poisoned line marks its block FAILED and is
never replayed (R133). -/
def execMxp (ub : Nat) (s : State) : Result :=
  s.onFired ub 0x11 (fun s f =>
    let u := unitOf ub
    let m := mxpOf f.q.word
    let before := s.tpoison
    let s := s.passLoad u m f.mask.rows
    let fresh := s.tpoison != before
    if s.passBad u m f.mask.rows then
      let s := (s.verdictCame u m.acc).failBlock u m.acc
      (s.tsFault u ub f fresh).afterVerdict u m.acc
    else
      let (s, j) := s.runPass u f
      s.modFired ub (· == f) (fun f => { f with acted := true, nonfin := j.nonfin, disagree := j.bad }))

/-- A pass waits for its FAILED block to be rebuilt (R93). -/
def State.awaitReplay (s : State) (ub : Nat) (f : Fired) : State :=
  (s.modFired ub (· == f) (fun f => { f with replay := true })).afterVerdict (unitOf ub) (mxpOf f.q.word).acc

/-- A passing verdict: NONFINITE, a clean pass, a PASS entry, and the step completes (R90, R300). -/
def State.verdictPass (s : State) (ub : Nat) (f : Fired) : State :=
  let u := unitOf ub
  let m := mxpOf f.q.word
  let t := s.tile u
  let s := s.setTile u { t with nonfinite := satAdd 32 t.nonfinite f.nonfin, passes := t.passes + 1 }
  let s := s.cleanPass u
  let t := s.tile u
  let s := s.setTile u (t.journalise
    (passEntry f.pseq m.acc m.accum (t.block m.acc).suspect (emitOf f.q.word) f.q.bar))
  let s := s.finish ub f
  s.afterVerdict u m.acc

/-- A failed verdict (R93 step 1): the block FAILED, no further step fires, a health event of each array that disagreed,
and a locate re-run to come. -/
def State.verdictFail (s : State) (ub : Nat) (f : Fired) (disagree : BitVec 4) : State :=
  let u := unitOf ub
  let m := mxpOf f.q.word
  let s := s.failBlock u m.acc
  let t := s.tile u
  let repair := match t.repair with
    | .locate a b p => .locate (a ||| disagree) (b <|> some m.acc) p
    | _ => .locate disagree (some m.acc) false
  let s := s.setTile u { t with nonfinite := satAdd 32 t.nonfinite f.nonfin, failures := satAdd 32 t.failures 1,
                                repair := repair }
  let s := s.raise { recStep cVerdictFailed ub f.q (s.bk ub).epoch with pseq := f.pseq, detail := disagree.toNat }
  let s := (onesOf disagree.toNat 4).foldl (fun s a => s.healthEvent 1 (4 * u + a)) s
  s.awaitReplay ub f

/-- The verdict of the oldest pass (R91): the arrays whose checksums disagreed are those in which a comparison of the pass's
outputs did, and those whose faulty arithmetic `faulty` names. A pass into a block that has failed already is otherwise ignored
(R93 step 1): it waits for the block to be rebuilt, or ends where a poisoned read has failed the block, which nothing rebuilds
(R133). -/
def execVerdict (ub : Nat) (faulty : BitVec 4) (s : State) : Result :=
  match s.firedStep ub awaitsVerdict with
  | none => .next s
  | some f =>
    let u := unitOf ub
    let b := (mxpOf f.q.word).acc
    let disagree := f.disagree ||| faulty
    let s := s.verdictCame u b
    if ((s.tile u).block b).failed then
      .next (if (s.tile u).repair = .none then (s.abandon ub f).afterVerdict u b else s.awaitReplay ub f)
    else if disagree = 0 then .next (s.verdictPass ub f) else .next (s.verdictFail ub f disagree)

/-! ## Fault to software (R292, R293) -/

/-- The record of a halt. -/
def State.haltRecord (s : State) (n c code : Nat) : State :=
  let v := s.ctx n c
  match s.firedStep v.ub (isStreamOf c) with
  | some f => s.raise { recStep code v.ub f.q (s.bk v.ub).epoch with detail := c }
  | none => s.raise { recOf code 3 n with ens := s.ensOf v.ub, detail := c }

/-- Halts the contexts that sent a block early, with cause VERDICT (R288). -/
def State.haltEarly (s : State) (u b : Nat) : State :=
  (s.earlyCtxs u b).foldl (fun s c =>
    let n := pairSe u
    let v := s.ctx n c
    if v.st = .active then
      (s.setCtx n c { v with st := .halted, cause := causeVerdict, halting := !v.outs.isEmpty, redo := [] }).haltRecord n c cStreamHalted
    else s) s

/-- The fired passes that wait for a block to be rebuilt end without tokens. -/
def State.abandonFailed (s : State) (ub : Nat) : State :=
  ((s.bk ub).fired.filter (fun f => opOf f.q.word == 0x11 && f.replay)).foldl (fun s f => s.abandon ub f) s

/-- The tile faults to software: VERDICT_FAILED again, with severity STOP; early senders halt; the ensemble stops. -/
def State.softwareFault (s : State) (ub b : Nat) : State :=
  let u := unitOf ub
  let f := s.firedStep ub (fun f => opOf f.q.word == 0x11 && f.replay && (mxpOf f.q.word).acc == b)
  let s := s.haltEarly u b
  let s := s.setTile u { s.tile u with repair := .none }
  match f with
  | none => s.stopOn (s.ensOf ub) cVerdictFailed
  | some f =>
    let s := s.raise { recStep cVerdictFailed ub f.q (s.bk ub).epoch with pseq := f.pseq, sev := 4 }
    let s := s.abandonFailed ub
    s.stopOn f.q.ens cVerdictFailed

/-! ## Locate re-runs and column sparing (R93, R94, R95) -/

/-- What a locate re-run finds for one array. -/
inductive Located where
  | transient | unusable | spare (logical : Nat) | retire
deriving DecidableEq, Repr

/-- The outcome of R93 step 3 and R94, from the physical columns that disagreed in both known-answer passes. -/
def located (sp : Spare) (cols : List Nat) : Located :=
  match cols with
  | [] => .transient
  | [c] =>
    if c = 64 then (if sp.column.isSome then .retire else .unusable)
    else if sp.column.isSome || sp.unusable then .retire
    else .spare (if c = 65 then 64 else c)
  | _ => .retire

/-- What a locate re-run found for one array, in health: a spare that disagrees is unusable, a health event; a condition of R94
retires the array (R302). -/
def State.locateHealth (s : State) (u a : Nat) (cols : List Nat) : State :=
  let t := s.tile u
  let sp := t.spares.get {} a
  match located sp cols with
  | .unusable =>
    let s := s.setTile u { t with spares := t.spares.set {} a { sp with unusable := true } }
    s.healthEvent 1 (4 * u + a)
  | .retire => s.retired 1 (4 * u + a)
  | _ => s

/-- The column sparing a locate re-run found for one array: it invalidates the tile's weights until the next load (R81, R95).
COLUMN_SPARED names the array, class 0x01 and unit 4n + a, with the logical column in DETAIL (DESIGN CHOICE: R98 says that the tile
raises it, no rule gives the record's class, unit and detail). -/
def State.spareColumn (s : State) (u a : Nat) (cols : List Nat) : State :=
  let t := s.tile u
  let sp := t.spares.get {} a
  match located sp cols with
  | .spare l =>
    let s := s.setTile u { t with spares := t.spares.set {} a { sp with column := some l },
                                  active := { t.active with valid := false } }
    s.raise { recOf cColumnSpared 1 (4 * u + a) with ens := s.ensOf u, detail := l }
  | _ => s

/-- Whether the finding of a locate re-run is a column to be spared. -/
def Located.isSpare (l : Located) : Bool :=
  match l with
  | .spare _ => true
  | _ => false

/-- Notes on a tile's position that a column sparing is under way, which a retirement abandons (R24). -/
def State.setDropped (s : State) (u : Nat) (b : Bool) : State :=
  { s with tserv := s.tserv.set {} u { s.tserv.get {} u with dropped := b } }

/-- A locate re-run on several arrays (R93, R94): a tile's retirement takes precedence over column sparings, which are abandoned
and named in its record (R24). -/
def State.locateArrays (s : State) (u : Nat) (arrays : BitVec 4) (found : List (Nat × List Nat)) : State :=
  let cols (a : Nat) : List Nat := ((found.find? (fun p => p.1 == a)).map Prod.snd).getD []
  let l := onesOf arrays.toNat 4
  let s := s.setDropped u (l.any (fun a => (located ((s.tile u).spares.get {} a) (cols a)).isSpare))
  let s := l.foldl (fun s a => s.locateHealth u a (cols a)) s
  if (s.tserv.get {} u).awaiting then s else l.foldl (fun s a => s.spareColumn u a (cols a)) (s.setDropped u false)

/-- The passes a replay of block `b` executes (R96): from the pass that loaded the weights of the block's last overwrite
to the last pass in the window; none where the window does not hold them all. -/
def replayList (window : List Fired) (b : Nat) : Option (List Fired) :=
  let ms := window.filter (fun f => opOf f.q.word == 0x11)
  let idx := ms.zipIdx
  match (idx.filter (fun p => (mxpOf p.1.q.word).acc == b && !(mxpOf p.1.q.word).accum)).getLast? with
  | none => none
  | some (_, i) =>
    match (idx.filter (fun p => p.2 ≤ i && !(mxpOf p.1.q.word).reuse)).getLast? with
    | none => none
    | some (_, j) => some (ms.drop j)

/-- Whether a fired step is a pass that waits for block `b` to be rebuilt. -/
def parkedFor (b : Nat) (f : Fired) : Bool := opOf f.q.word == 0x11 && f.replay && (mxpOf f.q.word).acc == b

/-- The bank of a tile whose passes wait for block `b` to be rebuilt; the bank named where neither holds one (R463). -/
def State.holder (s : State) (ub b : Nat) : Nat :=
  match [ub, unitOf ub + 1024 * (1 - bankOf ub)].find? (fun k => (s.bk k).fired.any (parkedFor b)) with
  | some k => k
  | none => ub

/-- Whether the failed block can be replayed automatically (R59, R292): also the bar of every pass into it that waits must be in
the window and REPLAYABLE. `retiredNow` says that the locate re-run has retired an array. -/
def State.replayable (s : State) (ub b : Nat) (poisoned retiredNow : Bool) : Bool :=
  !poisoned && !retiredNow
    && ((s.bk ub).fired.filter (parkedFor b)).all (fun f =>
      f.q.replayable && (s.bk ub).window.any (fun w => w.q == f.q))
    && (match replayList (s.bk ub).window b with
        | none => false
        | some l => l.all (fun f => f.q.replayable))

/-- Another block that is FAILED and has passes waiting for it is replayed next, where it can be (R292). The spec speaks of one failed
block: of several, the model replays the first to fail, then the lowest-numbered of the bank (DESIGN CHOICE). -/
def State.nextFailed (s : State) (u ub : Nat) : Option Nat :=
  (List.range 8).find? (fun b => ((s.tile u).block b).failed && (s.bk ub).fired.any (parkedFor b))

/-- A further FAILED block of a bank is replayed, or the tile faults to software for it. -/
def State.replayOrFault (s : State) (ub b : Nat) : State :=
  if s.replayable ub b false false then s.setTile (unitOf ub) { s.tile (unitOf ub) with repair := .replay b } else s.softwareFault ub b

/-- The repair of a bank's block is over: passes of the tile's other bank (R463) that wait for a block of theirs end with their
ensemble, or the block is replayed. -/
def State.moveOn (s : State) (ub : Nat) : State :=
  let other := unitOf ub + 1024 * (1 - bankOf ub)
  if !(s.bk other).fired.any (·.replay) then s
  else if !s.runs other || (s.en (s.ensOf other)).stopping then s.abandonFailed other
  else match s.nextFailed (unitOf ub) other with
    | none => s
    | some b => s.replayOrFault other b

/-- The arrays of a tile that are retired. -/
def State.retiredArrays (s : State) (u : Nat) : List Nat :=
  [0, 1, 2, 3].filter (fun a => (s.hl (512 + 4 * u + a)).st == .retired)

/-- A locate re-run, once every fired pass has its verdict (R93 steps 2 to 4): two known-answer INT8 passes with the checksum
row fed (R92), whose outputs are discarded; `found` says which physical columns disagreed in both. The weight registers are after it
as they were before (DESIGN CHOICE: no rule says whether its passes leave the active weights where no replay loads them anew). -/
def execLocateReRun (ub : Nat) (found : List (Nat × List Nat)) (s : State) : Result :=
  let u := unitOf ub
  match (s.tile u).repair with
  | .locate arrays block poisoned =>
    if s.rst.pllLost || (s.firedAll u).any (fun f => opOf f.q.word == 0x11 && !f.replay) then .next s
    else
      let s := s.setTile u { s.tile u with locates := satAdd 32 (s.tile u).locates 1 }
      let before := s.retiredArrays u
      let s := s.locateArrays u arrays found
      match block with
      | none => .next ((s.setTile u { s.tile u with repair := .none }).moveOn ub)
      | some b =>
        let ub := s.holder ub b
        if !s.runs ub || (s.en (s.ensOf ub)).stopping then
          .next (((s.setTile u { s.tile u with repair := .none }).abandonFailed ub).moveOn ub)
        else if s.replayable ub b poisoned (s.retiredArrays u != before) then .next (s.setTile u { s.tile u with repair := .replay b })
        else .next ((s.softwareFault ub b).moveOn ub)
  | _ => .next s

/-! ## Block replay (R96, R288, R292, R293) -/

/-- One pass of a replay: in full for the failed block, with its comparisons; a shadow pass only loads its weights. -/
def State.replayPass (s : State) (u b : Nat) (f : Fired) : State × Judged :=
  let m := mxpOf f.q.word
  if m.acc = b then s.runPass u f
  else
    let (_, wdata, scales) := s.passBytes u m
    (s.setTile u ((s.tile u).loadWeights m f.mask.cols wdata scales), {})

/-- The passes of a replay in turn, and what their comparisons found together. -/
def State.replayAll (s : State) (u b : Nat) (l : List Fired) : State × Judged :=
  l.foldl (fun (x : State × Judged) f =>
    let (s, j) := x.1.replayPass u b f
    (s, { bad := x.2.bad ||| j.bad, nonfin := x.2.nonfin + j.nonfin })) (s, {})

/-- The PASS entry of a replayed pass, under its original PSEQ (R300). -/
def State.replayEntry (s : State) (u b : Nat) (f : Fired) : State :=
  let m := mxpOf f.q.word
  if m.acc = b then
    let t := s.tile u
    s.setTile u (t.journalise (passEntry f.pseq m.acc m.accum (t.block b).suspect (emitOf f.q.word) f.q.bar))
  else s

/-- The bytes of row `t` of a block's stream: the rows of the arrays of AMASK in turn (R167). -/
def Tile.streamRow (t : Tile) (acc : Nat) (amask : BitVec 4) (row : Nat) : List Byte :=
  (t.accRow (nth (onesOf amask.toNat 4) (row / 64) 0) acc (row % 64)).flatMap (fun w => leBytes 4 w.toNat)

/-- A ring frame with a block's row, as transaction `t` of a stream (R167, R168, R447). -/
def ringFrame (own : BitVec 14) (n c t : Nat) (d : List Byte) (vst : BitVec 2) (epoch : Byte) (data : List Byte) : Frame :=
  { newFrame own (field d 0x52 2 % 2 ^ 14) 0 0x1 15 (8 * n + c) t (field d 0x58 8 % 2 ^ 13) data with
    vstate := vst, epoch := epoch, arith := true }

/-- A rebuilt block whose stream has ended is read and sent again, RELEASED, with the same sequence numbers and no fresh grants; its
read ends with its last row, and it is settled once the receiver has acknowledged it (R284, R288). -/
def State.resendEnded (s : State) (n c : Nat) (x : Unsettled) : State :=
  let t := s.tile x.tile
  let s := (List.range x.count).foldl (fun s i =>
    (s.countReq (seInit n) c i 256).sendFrame
      (ringFrame s.devId n c i x.desc 0 (t.block x.acc).epoch (t.streamRow x.acc x.amask i))) s
  let v := s.ctx n c
  let s := s.setCtx n c { v with unsettled := modFirst (· == x) (fun x => { x with owed := List.range x.count }) v.unsettled }
  s.release x.tile x.ub x.acc x.amask.toNat 3 (8 * n + c) x.free

/-- The sending contexts read the rebuilt block and send it again, RELEASED, with the same sequence numbers (R288): a stream that is
still at work issues its transactions again. -/
def State.resend (s : State) (u b : Nat) : State :=
  (s.earlyCtxs u b).foldl (fun s c =>
    let n := pairSe u
    ((s.ctx n c).unsettled.filter (fun x => x.of u b && x.failed && x.owed == [])).foldl (fun s x =>
      if x.live then
        let v := s.ctx n c
        s.setCtx n c { v with redo := List.range v.next, done := [], low := 0, bytes := 0, held := [], pendMode := false,
                              unsettled := dropFirst v.unsettled x }
      else s.resendEnded n c x) s) s

/-- What follows a replay that has passed: the next FAILED block of the bank, then what the other bank waits for. -/
def State.replayNext (s : State) (ub : Nat) : State :=
  match s.nextFailed (unitOf ub) ub with
  | none => (s.setTile (unitOf ub) { s.tile (unitOf ub) with repair := .none }).moveOn ub
  | some b => s.replayOrFault ub b

/-- The replay of the failed block; `faulty` marks the arrays whose faulty arithmetic made a replayed pass disagree. A pass of it that
meets a poisoned line is recorded as any step that reads one, and the tile faults to software (R133, R292, R304). -/
def execBlockReplay (ub : Nat) (faulty : BitVec 4) (s : State) : Result :=
  let u := unitOf ub
  match (s.tile u).repair with
  | .replay b =>
    let ub := s.holder ub b
    if s.rst.pllLost then .next s
    else if !s.runs ub || (s.en (s.ensOf ub)).stopping then
      .next (((s.setTile u { s.tile u with repair := .none }).abandonFailed ub).moveOn ub)
    else match replayList (s.bk ub).window b with
      | none => .next ((s.softwareFault ub b).moveOn ub)
      | some l =>
        let rows (f : Fired) : BitVec 256 := if (mxpOf f.q.word).acc = b then f.mask.rows else -1
        let before := s.tpoison
        let s := l.foldl (fun s f => s.passLoad u (mxpOf f.q.word) (rows f)) s
        match l.find? (fun f => s.passBad u (mxpOf f.q.word) (rows f)) with
        | some f => .next (((s.tsRecord u ub f (s.tpoison != before)).softwareFault ub b).moveOn ub)
        | none =>
        let (s, j) := s.replayAll u b l
        let disagree := j.bad ||| faulty
        let t := s.tile u
        let s := s.setTile u { t with replays := satAdd 32 t.replays 1, nonfinite := satAdd 32 t.nonfinite j.nonfin }
        if disagree != 0 then
          let s := (onesOf disagree.toNat 4).foldl (fun s a => s.healthEvent 1 (4 * u + a)) s
          .next ((s.softwareFault ub b).moveOn ub)
        else
          let s := l.foldl (fun s f => s.replayEntry u b f) s
          let t := s.tile u
          let s := s.setTile u (t.setBlock b { t.block b with failed := false })
          let fs := (s.bk ub).fired.filter (parkedFor b)
          let s := fs.foldl (fun s f => s.finish ub f) s
          .next ((s.resend u b).replayNext ub)
  | _ => .next s

/-! ## Walk-throughs (R295–R301) -/

/-- A clean walk-through counted for a unit; its moment opens the next suspect window. -/
def State.cleanWalk (s : State) (cls unit : Nat) : State :=
  match healthIdx cls unit with
  | none => s
  | some i => (s.setHl i { s.hl i with walks := (s.hl i).walks + 1, since := s.ltc.toNat }).settle cls unit

/-- Every block that a suspect pass wrote becomes SUSPECT (R301): one fired from the last clean walk-through on; PSEQ wraps (R299). -/
def Tile.markSuspect (t : Tile) : Tile :=
  (List.range 8).foldl (fun t b =>
    let v := t.block b
    if !v.empty && (v.last + 2 ^ 32 - t.cleanPseq) % 2 ^ 32 < (t.pseq.toNat + 2 ^ 32 - t.cleanPseq) % 2 ^ 32
    then t.setBlock b { v with suspect := true } else t) t

/-- The step that a tile's bank is about to fire, where it is an MXP. -/
def State.nextMxp (s : State) (ub : Nat) : Option Mxp :=
  match s.headOf ub with
  | some q => if opOf q.word == 0x11 && s.couldFire ub q then some (mxpOf q.word) else none
  | none => none

/-- Whether a due walk-through is a restoring one (R97): the next MXP to fire, of the bank whose turn it is, reuses its weights, or none
is about to fire and the feed is idle. -/
def State.restoring (s : State) (n : Nat) : Bool :=
  let last := s.lastBank.get 0 n
  match s.nextMxp (n + 1024 * (1 - last)), s.nextMxp (n + 1024 * last) with
  | some m, _ => m.reuse
  | none, some m => m.reuse
  | none, none => true

/-- The families of the walk-throughs' rotation: four, and FP32 in strict mode (R296). -/
def familiesOf (mode : Byte) : Nat := if strict mode then 5 else 4

/-- The entry of a table set for a format: the seeds of a walk-through's operands and its expected signatures (R355). -/
def seedsOf (tables : List Byte) (fmt : Nat) : List Byte := (tables.drop (576 + 128 * fmt)).take 128

/-- The weights of a walk-through, which the unit's generator makes of the seeds in force (R296). -/
def walkWeights (tables : List Byte) (family : Nat) : Weights :=
  { valid := true, fmt := Config.walkFormat family,
    data := Config.walkWeights (seedsOf tables (Config.walkFormat family).toNat), scales := [], cols := 0 }

/-- What a walk-through leaves in the weight registers (R97): a restoring one its test weights in the shadow set; the other its
test weights in the active set, whose weights it overwrites. -/
def Tile.walkThrough (t : Tile) (tables : List Byte) (restoring : Bool) : Tile :=
  if restoring then { t with shadow := walkWeights tables t.family }
  else { t with active := { walkWeights tables t.family with valid := t.active.valid }, shadow := t.active }

/-- A tile's walk-through (R296): a WALK entry, the next family of the rotation, and the judgement (R298). -/
def State.walkTile (s : State) (n : Nat) (failed : Bool) (arrays : BitVec 4) : State :=
  let t := s.tile n
  if s.rst.pllLost || t.repair != .none || (s.tserv.get {} n).settling || !s.tileDue n then s
  else
    let at' := t.jnext
    let kept := t.cleanIndex.isSome && t.jsince + 1 < 65536
    let since := t.jsince
    let mode := (s.bk (n + 1024 * s.lastBank.get 0 n)).mode
    let t' := { (t.journalise (walkEntry t.pseq.toNat failed)).walkThrough (t.tables.get [] (fld mode 4 4)) (s.restoring n) with
      family := (t.family + 1) % familiesOf mode, walked := { since := s.beats.get 0 (beatDomain 0 n) } }
    if !failed then
      let s := s.setTile n { t' with cleanPseq := t.pseq.toNat, cleanLtc := s.ltc.toNat, cleanIndex := some at', jsince := 0 }
      [(0, n), (1, 4 * n), (1, 4 * n + 1), (1, 4 * n + 2), (1, 4 * n + 3)].foldl (fun s p => s.cleanWalk p.1 p.2) s
    else
      let t' := { t'.markSuspect with jsince := since + 1,
                                      repair := if arrays = 0 then t.repair else .locate arrays none false }
      let s := s.setTile n t'
      let s := s.raise { recOf cWalkFailed 0 n with
        ens := s.ensOf n, window := true, truncated := !kept, winFirst := t.cleanPseq, winLast := (t.pseq.toNat + 2 ^ 32 - 1) % 2 ^ 32,
        winLtc := t.cleanLtc, detail := t.cleanIndex.getD 0 + 65536 * at' }
      if arrays = 0 then s.healthEvent 0 n
      else (onesOf arrays.toNat 4).foldl (fun s a => s.healthEvent 1 (4 * n + a)) s

/-- The interval counter of a unit that counts time starts again (R295). -/
def State.restartWalk (s : State) (cls unit : Nat) : State :=
  match healthIdx cls unit with
  | none => s
  | some i => s.setHl i { s.hl i with walked := s.beats.get 0 (beatDomain cls unit) }

/-- The walk-through of a vector unit, stream engine or cluster: the suspect window is an LTC range (R301). -/
def State.walkOther (s : State) (cls unit : Nat) (failed : Bool) : State :=
  if s.rst.pllLost || !s.otherDue cls unit then s
  else
    let s := s.restartWalk cls unit
    if !failed then s.cleanWalk cls unit
    else
      let h := ((healthIdx cls unit).map s.hl).getD {}
      let s := s.raise { recOf cWalkFailed cls unit with window := true, winLtc := h.since }
      s.healthEvent cls unit

/-- A due walk-through is inserted and judged; `arrays` marks the arrays whose signature disagreed. One that waits for its unit's
repair or sparing (R297), or is not due (R295), does not run. -/
def execWalkThrough (u : WalkUnit) (failed : Bool) (arrays : BitVec 4) (s : State) : Result :=
  match u with
  | .tile n => .next (s.walkTile n failed arrays)
  | .vectorUnit n => .next (if (s.tserv.get {} n).settling then s else s.walkOther 2 n failed)
  | .streamEngine n => .next (if (s.sserv.get {} n).settling then s else s.walkOther 3 n failed)
  | .cluster n => .next (s.walkOther 5 n failed)

end Sys2Proof.Machine
end

