-- ==== Sys2Proof/Machine/Stream.lean ====
section
/-! DEFINITION. Stream engines (R155–R188, R283–R290, R294): descriptors, the STREAM, DLOAD and RFREE steps, issue,
landing, retirement, halts and resumption, and the answers of memory, hosts and peers. -/

namespace Sys2Proof.Machine

/-! ## Descriptor fields (R162, R163, R222) -/

def descFmt (d : List Byte) : Nat := field d 1 1
/-- Whether a SEND goes to a peer landing ring. -/
def sendsToRing (d : List Byte) : Bool := descDir d == 2 && field d 0x54 1 == 1
/-- Whether the memory side is at a peer: GET, and SEND to peer memory. -/
def atPeerMemory (d : List Byte) : Bool := descDir d == 3 || (descDir d == 2 && field d 0x54 1 == 0)
def progOn (d : List Byte) : Bool := bit (field d 3 1) 0
def rsyncOn (d : List Byte) : Bool := bit (field d 3 1) 1
def descFloor (d : List Byte) : Nat := field d 0x48 2
def descCeil (d : List Byte) : Nat := field d 0x4A 2
def peerDev (d : List Byte) : Nat := field d 0x52 2 % 2 ^ 14
/-- Unit number and context of the other end of a ring transfer. -/
def peerUnit (d : List Byte) : Nat := field d 0x58 8 % 1024
def peerCtx (d : List Byte) : Nat := bits (field d 0x58 8) 10 3

/-- The transform a descriptor names, with the mode its stream holds (R221, R224). -/
def xformOf (d : List Byte) (mode : Byte) : XForm :=
  match field d 0x60 1 with
  | 1 => .convert (BitVec.ofNat 5 (descFmt d)) (BitVec.ofNat 5 (descMemFmt d)) mode
  | 2 => .scatterAdd (BitVec.ofNat 5 (descFmt d)) mode
  | _ => .none

/-- The 64-byte pieces of memory that one transaction covers (R164, R222). -/
def memPieces (d : List Byte) : Nat := 4 * elemBits (descMemFmt d) / elemBits (descFmt d)

/-- Bytes of FMT that one piece of memory carries. -/
def pieceWidth (d : List Byte) : Nat := 256 / memPieces d

/-- Bytes of a row in memory. -/
def rowBytes (d : List Byte) : Nat := field d 4 4 * elemBits (descMemFmt d) / 8

/-- The address of element (0, 0, 0, 0) at use `u` (R163): at a peer, PEER_ADDR stands in place of BASE. -/
def baseOf (d : List Byte) (u : Nat) : Int :=
  let b := if atPeerMemory d then field d 0x58 8 else field d 0x18 8
  (b : Int) + (u % max 1 (field d 0x40 4) : Nat) * signed 64 (field d 0x38 8)

/-- The address of memory piece `j` of a stream (R163). -/
def pieceVa (d : List Byte) (u j : Nat) : Int :=
  let p := 64 * j
  let row := p / rowBytes d
  let c1 := field d 8 4
  let c2 := field d 0xC 4
  baseOf d u + (p % rowBytes d : Nat) + (row % c1 : Nat) * signed 64 (field d 0x20 8)
    + (row / c1 % c2 : Nat) * signed 64 (field d 0x28 8) + (row / (c1 * c2) : Nat) * signed 64 (field d 0x30 8)

/-! ## Descriptor checks (R161, R164, R167, R221, R222) -/

/-- Whether the transform is defined and allowed for the direction and formats. A CONVERT whose FMT is block-scaled is allowed, and
converts the elements without scales (DESIGN CHOICE: R222 bars scales in MFMT only). -/
def xformOk (d : List Byte) : Bool :=
  match field d 0x60 1 with
  | 0 => zeroAt d 0x68 16
  | 1 => (descDir d == 0 || descDir d == 1) && zeroAt d 0x69 15 && (elemOf (field d 0x68 1)).isSome
      && field d 0x68 1 < 32 && blockLen (field d 0x68 1) == 0
      && [64, 128, 256, 512, 1024].contains (256 * elemBits (descMemFmt d) / elemBits (descFmt d))
  | 2 => descDir d == 1 && zeroAt d 0x68 16 && (descFmt d == 0x1C || descFmt d == 0x18)
  | _ => false

/-- Whether every row that the memory side has starts on a 64-byte boundary (R164). -/
def rowsAligned (d : List Byte) : Bool :=
  let st (n off : Nat) : Bool := field d n 4 ≤ 1 || field d off 8 % 64 == 0
  sendsToRing d || descDir d == 4 ||
  ((if atPeerMemory d then field d 0x58 8 else field d 0x18 8) % 64 == 0
    && st 8 0x20 && st 0xC 0x28 && st 0x10 0x30 && st 0x40 0x38)

/-- The ring rules, for a descriptor that uses a local ring (R162, R164). -/
def ringOk (d : List Byte) : Bool :=
  accSource d ||
  (let b := field d 0x44 2
   let n := field d 0x46 2
   b % 4 == 0 && 1 ≤ n && n ≤ 14336 && b + 4 * n ≤ 57344)

/-- Whether a descriptor is valid (R164). An accumulator source whose FMT is not FP32, which R167 forbids, is refused with the rest
(DESIGN CHOICE: no rule says what is raised). -/
def descOk (d : List Byte) : Bool :=
  checkOk d 0x7C && descDir d ≤ 4 && (elemOf (descFmt d)).isSome && descFmt d < 32
    && (if descDir d = 1 || descDir d = 2 then field d 2 1 ≤ 1 else field d 2 1 == 0)
    && field d 3 1 < 4 && zeroAt d 0x14 4 && zeroAt d 0x4F 1 && !bit (field d 0x50 2) 15
    && (descDir d ≤ 1 || field d 0x52 2 < 2 ^ 14) && (descDir d != 2 || field d 0x54 1 ≤ 1) && zeroAt d 0x55 3
    && (if sendsToRing d || descDir d == 4 then field d 0x58 8 < 2 ^ 13 else true)
    && zeroAt d 0x61 7 && zeroAt d 0x78 4
    && 1 ≤ field d 4 4 && 1 ≤ field d 8 4 && 1 ≤ field d 0xC 4 && 1 ≤ field d 0x10 4
    && xformOk d
    && (field d 4 4 * elemBits (descMemFmt d)) % 512 == 0 && rowsAligned d
    && (descElems d * elemBits (descFmt d)) % 2048 == 0
    && ringOk d
    && 1 ≤ descFloor d && descFloor d ≤ descCeil d && descCeil d ≤ 384
    && (!(progOn d && landsInRing d) || (1 ≤ field d 0x4C 2 && field d 0x4E 1 < 16))
    && (!accSource d || descFmt d == 0x1C)

/-! ## DLOAD (R161) -/

/-- A fetch of 128 bytes for a fired DLOAD or MLOAD, at operand ADDR: the bytes are kept, a page it must wait for makes it
wait and raises `waitCode` once, a host error refuses it. DETAIL of DESC_WAIT, which no rule gives, holds the slot (DESIGN
CHOICE). -/
def State.fetchDesc (s : State) (ub : Nat) (f : Fired) (tlb waitCode badCode : Nat) : State :=
  let va := opnd f.q.word 7 41 * 128
  let slot := opnd f.q.word 0 6
  match s.fetchVa tlb (s.en f.q.ens).asid va 128 with
  | (_, .later) => s
  | (s, .bytes l p) => s.modFired ub (· == f) (fun f => { f with acted := true, waiting := false, data := l, poisoned := p })
  | (s, .bad c a) =>
    if c = causeHostErr then
      let s := s.abandon ub f
      let s := s.raise { recStep badCode ub f.q (s.bk ub).epoch with detail := 2 }
      s.stopOn f.q.ens badCode
    else
      let s := s.modFired ub (· == f) (fun f => { f with waiting := true, released := false, failVa := a, failCause := c })
      if f.waiting then s
      else s.raise { recStep waitCode ub f.q (s.bk ub).epoch with detail := slot }

def execDload (ub : Nat) (s : State) : Result :=
  match s.firedStep ub (fun f => unacted 0x60 f && !f.waiting) with
  | none => .next s
  | some f => .next (s.fetchDesc ub f (seInit (unitOf ub - 512)) cDescWait cDescInvalid)

/-- A descriptor that is refused stops the ensemble; DETAIL [1:0] says why (R161). -/
def State.refuseDesc (s : State) (ub : Nat) (f : Fired) (code reason : Nat) : State :=
  let s := s.abandon ub f
  let s := s.raise { recStep code ub f.q (s.bk ub).epoch with detail := reason }
  s.stopOn f.q.ens code

/-- The fetch of a slot ends: the descriptor is checked and fills the slot, or is refused. -/
def execDloadComplete (ub : Nat) (slot : BitVec 6) (s : State) : Result :=
  let n := unitOf ub - 512
  match s.firedStep ub (fun f => opOf f.q.word == 0x60 && f.acted && opnd f.q.word 0 6 == slot.toNat) with
  | none => .next s
  | some f =>
    if f.poisoned then .next (s.refuseDesc ub f cDescInvalid 1)
    else if !descOk f.data then .next (s.refuseDesc ub f cDescInvalid 0)
    else
      let v := s.se n
      let s := s.setSe n { v with slots := v.slots.set {} slot.toNat { loaded := true, desc := f.data, uses := 0 } }
      .next (s.finish ub f)

/-! ## STREAM (R160, R163, R168, R169) -/

/-- A frame that gives ring grants to a sender (R168, R447). -/
def State.sendGrant (s : State) (n c : Nat) (d : List Byte) (count : Nat) : State :=
  if count = 0 then s
  else s.sendFrame (newFrame s.devId (peerDev d) 1 0x5 0 (8 * n + c) count (field d 0x58 8 % 2 ^ 13) [])

/-- The sender's context that a RECV names, or the receiver's that a SEND to a ring names: device, unit and context (R162). -/
def peerOf (d : List Byte) : Nat := peerDev d * 2 ^ 16 + 8 * (peerUnit d - 512) + peerCtx d

/-- The grants that a SEND holds from its peer context (R168). -/
def Ctx.held? (v : Ctx) : Nat := v.grants.get 0 (peerOf v.desc)

/-- A RECV reserves every free slot of its ring, each of which it grants to its sender (R168, R170). -/
def Ctx.reserveFree (v : Ctx) : Ctx :=
  let reserve (m : Map SlotState) (k : Nat) : Map SlotState := if m.get .free k = .free then m.set .free k .reserved else m
  { v with slots := (List.range v.ringSlots).foldl reserve v.slots }

/-- The slots that a RECV granted and whose data have not come, forgotten: they are free again. -/
def Ctx.dropReserved (v : Ctx) : Ctx := { v with slots := v.slots.filter (fun p => p.2 != .reserved) }

/-- A context's ring for the stream that starts: its own while RING_BASE and RING_SLOTS are unchanged, an empty one
otherwise (R169); an accumulator source leaves it as it is. -/
def Ctx.ringFor (v : Ctx) (d : List Byte) : Ctx :=
  let b := field d 0x44 2
  let n := field d 0x46 2
  if accSource d || (v.ringBase = b && v.ringSlots = n) then v
  else { v with ringBase := b, ringSlots := n, slots := [], tail := 0, wr := 0, rd := 0 }

/-- The ring slots that a stream begins with: a RECV from the same sender as the context's last keeps what that one granted; any
other stream finds those slots free (R168; DESIGN CHOICE: no rule says what becomes of a grant that its RECV leaves unspent). -/
def Ctx.grantsKept (v : Ctx) (d : List Byte) : Ctx :=
  if descDir d = 4 && descDir v.desc = 4 && peerOf d = peerOf v.desc then v else v.dropReserved

/-- A stream starts in its context, from the descriptor and use count that its step captured. -/
def State.startStream (s : State) (ub : Nat) (f : Fired) : State :=
  let n := unitOf ub - 512
  let o := streamOf f.q.word
  let d := f.data
  let c := ((s.ctx n o.ctx).ringFor d).grantsKept d
  let fresh := if descDir d = 4 then c.freeSlots else 0
  let c := if descDir d = 4 then c.reserveFree else c
  let c := { c with
    st := .active, ub := ub, slot := o.slot, desc := d, use := f.use, asked := f.pseq, tsel := o.tsel, acc := o.acc, amask := o.amask,
    accFree := o.accFree, early := o.early, mode := f.mode, first := if landsInRing d then c.wr else c.rd,
    next := 0, low := 0, redo := [], outs := [], done := [], bytes := 0, progress := 0, cause := 0, failAddr := 0,
    failT := 0, halting := false, resuming := false, parked := false, flushTs := [], unfinished := [], ahead := [],
    began := false, verdicts := [], pendMode := false, held := [], spoiled := false, critical := 0, stalled := false }
  let s := s.setCtx n o.ctx c
  let s := if descDir d = 4 then s.sendGrant n o.ctx d fresh else s
  s.markActed ub f

def execStream (ub : Nat) (s : State) : Result := s.onFired ub 0x61 (fun s f => s.startStream ub f)

/-! ## Progress and retirement (R173, R176) -/

/-- `low` past every transaction that has retired in order. -/
def Ctx.advanceLow (v : Ctx) (fuel : Nat) : Ctx :=
  match fuel with
  | 0 => v
  | k + 1 => if v.done.contains v.low then ({ v with low := v.low + 1, done := remIdx v.done v.low }).advanceLow k else v

/-- A transaction counted as retired. -/
def Ctx.retire (v : Ctx) (t : Nat) : Ctx :=
  if t < v.low || v.done.contains t then v
  else
    let v := { v with done := addIdx v.done t, bytes := v.bytes + 256, stalled := false,
                      unfinished := Map.erase v.unfinished t,
                      held := if v.flushTs.any (fun p => p.1 == t) then v.held else v.held.erase t }
    v.advanceLow (v.done.length + 1)

/-- Slots landed in ring order from the stream's first slot (R173). -/
def Ctx.countProgress (v : Ctx) (fuel : Nat) : Ctx :=
  match fuel with
  | 0 => v
  | k + 1 =>
    if v.progress < v.low || v.done.contains v.progress then ({ v with progress := v.progress + 1 }).countProgress k else v

/-- Emits the progress tokens that newly landed slots make due (R173). -/
def State.progressTokens (s : State) (n c : Nat) : State :=
  let v := s.ctx n c
  let w := v.countProgress (v.low + v.done.length + 1 - v.progress)
  let s := s.setCtx n c w
  let per := field v.desc 0x4C 2
  let step := ((s.firedStep v.ub (isStreamOf c)).map (fun f => f.q.ref)).getD {}
  if progOn v.desc && landsInRing v.desc && 0 < per then
    (List.range (w.progress / per - v.progress / per)).foldl (fun s _ => s.emitRoutes v.ub (2 ^ field v.desc 0x4E 1) step) s
  else s

/-- A transaction's slot becomes LANDED: it retires, progress counts, and the stream may end (R176, R286). -/
def State.landed (s : State) (n c t : Nat) : State :=
  let v := s.ctx n c
  let s := s.setCtx n c ({ v with slots := v.slots.set .free (v.slotFor t) .landed }.retire t)
  (s.progressTokens n c).endStream n c

/-- A write or send retires (R176). -/
def State.written (s : State) (n c t : Nat) : State := (s.setCtx n c ((s.ctx n c).retire t)).endStream n c

/-! ## Halts and resumption (R183–R185) -/

/-- What a context resumes from: the first transaction that did not retire, and every later one that did not. -/
def Ctx.resumed (v : Ctx) : Ctx :=
  let from' := (List.range (v.next - v.low)).map (· + v.low)
  { v with st := .active, cause := 0, failAddr := 0, failT := 0, halting := false, resuming := false, stalled := false,
           redo := if descDir v.desc = 4 then [] else from'.filter (fun t => !v.done.contains t),
           critical := v.next }

/-- A resume takes effect, or waits for the halt to complete (R185). -/
def State.resumeCtx (s : State) (n c : Nat) : State :=
  let v := s.ctx n c
  if v.st = .halted then
    let s := s.dropRsync n c
    if v.halting then s.setCtx n c { v with resuming := true } else (s.setCtx n c v.resumed).endStream n c
  else s

/-- A halt is complete when every outstanding transaction has retired (R184). -/
def State.settleHalt (s : State) (n c : Nat) : State :=
  let v := s.ctx n c
  if v.st = .halted && v.halting && v.outs.isEmpty then
    let v := { v with halting := false }
    if v.resuming then (s.setCtx n c v.resumed).endStream n c else s.setCtx n c v
  else s

/-- A halt with cause HOST_ERR: the second within 1 s on an engine is a health event (R188, R304). -/
def State.hostHalted (s : State) (n : Nat) : State :=
  let v := s.se n
  let now := s.ltc.toNat
  let again := match v.hostHalt with
    | some t => decide (now - t ≤ ticksOf 1000000)
    | none => false
  let s := s.setSe n { v with hostHalt := some now }
  if again then s.healthEvent 3 n else s

/-- A halt cause found for transaction `t` (R183, R184, R188): a record, and the context stops issuing. A SEQ halt, or a
second halt with cause HOST_ERR within 1 s on the engine, is a health event. -/
def State.haltOn (s : State) (n c t cause : Nat) (va : Int) : State :=
  let v := s.ctx n c
  match v.st with
  | .active =>
    let s := s.setCtx n c { v with st := .halted, cause := cause, failAddr := va, failT := t, halting := true, redo := [] }
    let s := s.haltRecord n c cStreamHalted
    -- with RSYNC_EN the stream waits at its sync object (R185, R196)
    let s := if rsyncOn v.desc then s.sendOp (.stream n c) (field v.desc 0x50 2 % 2 ^ 15) 1 0 false else s
    let s :=
      if cause = causeSeq then s.healthEvent 3 n
      else if cause = causeHostErr then s.hostHalted n
      else s
    s.settleHalt n c
  | .halted => if v.halting && t < v.failT then s.setCtx n c { v with cause := cause, failAddr := va, failT := t } else s
  | _ => s

/-! ## Issue (R157, R163, R170–R172, R178–R180) -/

/-- A piece of a transaction in memory: where it is, and where it lies in the transaction. -/
structure Spot where
  stack : Nat
  block : Nat
  piece : Nat
  pos   : Nat
  va    : Int
deriving DecidableEq, Repr

/-- Where a transaction's pieces are. -/
inductive Plan where
  | ok (parts : List Part)
  | bad (cause : Nat) (va : Int)
  | later
deriving DecidableEq, Repr

/-- Adds a piece to the request of its block; a piece that a request already carries starts another. -/
def addSpot (parts : List Part) (p : Spot) : List Part :=
  let fits (x : Part) : Bool := x.stack == p.stack && x.block == p.block && x.pieces.all (fun q => q.1 != p.piece)
  if parts.any fits then modFirst fits (fun x => { x with pieces := x.pieces ++ [(p.piece, p.pos)] }) parts
  else parts ++ [{ stack := p.stack, block := p.block, pieces := [(p.piece, p.pos)], va := p.va }]

/-- The spot of a piece at an address. -/
def spotAt (stack a pos : Nat) (va : Int) : Spot :=
  { stack := stack, block := a / 256 * 256, piece := a % 256 / 64, pos := pos, va := va }

/-- Translates the pieces of a transaction, from piece `j` on. -/
def State.planFrom (s : State) (n asid : Nat) (d : List Byte) (u t : Nat) (js : List Nat) (parts : List Part) : State × Plan :=
  match js with
  | [] => (s, .ok parts)
  | j :: r =>
    let va := pieceVa d u (memPieces d * t + j)
    let pos := j * pieceWidth d
    if va < 0 || 2 ^ 48 ≤ va then (s, .bad causePermission va)
    else if atPeerMemory d then s.planFrom n asid d u t r (addSpot parts (spotAt atPeer va.toNat pos va))
    else match s.locate (seInit n) asid va.toNat (descDir d == 1) with
      | (s, none) => (s, .later)
      | (s, some (.bad c)) => (s, .bad c va)
      | (s, some (.hbm m o)) => s.planFrom n asid d u t r (addSpot parts (spotAt m o pos va))
      | (s, some (.host q a)) => s.planFrom n asid d u t r (addSpot parts (spotAt (atHost q) a pos va))
      | (s, some (.partner a)) => s.planFrom n asid d u t r (addSpot parts (spotAt atPartner a pos va))

/-- The parts of transaction `t` of a stream: of one that failed, those that did not retire (R185). -/
def State.plan (s : State) (n : Nat) (v : Ctx) (t : Nat) : State × Plan :=
  if sendsToRing v.desc then (s, .ok [{ stack := atPeer, block := 0, pieces := [(0, 0), (1, 64), (2, 128), (3, 192)] }])
  else
    let js := List.range (memPieces v.desc)
    let lost := v.unfinished.get [] t
    let js := if lost.isEmpty then js else js.filter (fun j => lost.contains (j * pieceWidth v.desc))
    s.planFrom n (s.en (s.ensOf v.ub)).asid v.desc v.use t js []

/-- Tags of the shared pool in use: what each context holds beyond its FLOOR (R171). -/
def State.sharedUsed (s : State) (n : Nat) : Nat :=
  ((List.range 8).map (fun c =>
    let v := s.ctx n c
    if v.st == .active || v.st == .halted then v.outs.length - descFloor v.desc else v.outs.length)).sum

/-- The transactions outstanding across an engine's contexts (R157). -/
def State.outstanding (s : State) (n : Nat) : Nat := ((List.range 8).map (fun c => (s.ctx n c).outs.length)).sum

/-- Whether a context may take a tag, of the engine's 384 (R157, R170, R171). -/
def State.tagFree (s : State) (n : Nat) (v : Ctx) : Bool :=
  s.outstanding n < 384 && (v.outs.length < descFloor v.desc
    || (v.outs.length < descCeil v.desc && s.sharedUsed n < 384 - s.floorSum n))

/-- Whether an engine issues nothing for a context: its position is handed to a spare, at a sparing point or with no ensemble running,
or a walk-through is due, which goes between issues (R296, R297, R311). -/
def State.atRest (s : State) (n : Nat) (v : Ctx) : Bool :=
  s.rst.pllLost || v.parked || ((s.sserv.get {} n).awaiting && !s.runs v.ub) || s.otherDue 3 n

/-- The transaction a context issues next, and whether it is a new one; none where it may not issue (R170). -/
def State.candidate (s : State) (n : Nat) (v : Ctx) : Option (Nat × Bool) :=
  if v.st != .active || s.atRest n v || descDir v.desc == 4 || !s.tagFree n v then none
  else match v.redo with
    | t :: _ => some (t, false)
    | [] =>
      if v.next < descTotal v.desc && (!landsInRing v.desc || 0 < v.freeSlots) && (!sendsToRing v.desc || 0 < v.held?)
      then some (v.next, true) else none

/-- The tile and bank of a context's accumulator source. -/
def Ctx.tileUb (v : Ctx) (n : Nat) : Nat := selTile n v.tsel + 1024 * bankOf v.ub

/-- How an accumulator read may begin (R89, R167, R188, R284). -/
inductive ReadStart where
  | go (pending : Bool)
  | wait
  | fault (code : Nat)
deriving DecidableEq, Repr

/-- Whether the rows of a block are in the accumulator: no pass fired into it before PSEQ `p` is still to run (R284). A pass of the model
brings all its rows at once. -/
def State.rowsThere (s : State) (u b p : Nat) : Bool :=
  !(s.firedAll u).any (fun f => unacted 0x11 f && (mxpOf f.q.word).acc == b && firedBefore f.pseq p)

/-- The blocks that a context has sent and that are not settled, four at most (R284). -/
def Ctx.unsettledCount (v : Ctx) : Nat := (v.unsettled.filter (fun x => !x.failed || x.owed != [])).length

/-- Whether a stream's accumulator read may begin now: the block is releasable when it is not FAILED and no pass fired before the
read was asked for is PENDING (R87); a fifth block that would not be settled waits (R284). -/
def State.readStart (s : State) (n : Nat) (v : Ctx) : ReadStart :=
  let u := selTile n v.tsel
  let b := (s.tile u).block v.acc
  if b.empty then .fault cAccEmptyRead
  else if b.epoch != (s.bk (v.tileUb n)).epoch then .fault cEpochMismatch
  else if b.failed || 4 ≤ v.unsettledCount then .wait
  else if !s.pendingBefore u v.acc v.asked then .go false
  else if v.early && s.rowsThere u v.acc v.asked then .go true
  else .wait

/-- A read begins: READING, and for a block sent early with verdicts pending, the block to settle. -/
def State.beginRead (s : State) (n c : Nat) (pending : Bool) : State :=
  let v := s.ctx n c
  let u := selTile n v.tsel
  let t := s.tile u
  let s := s.setTile u (t.setBlock v.acc { t.block v.acc with reading := (t.block v.acc).reading + 1 })
  let x : Unsettled := { tile := u, ub := v.ub, acc := v.acc, amask := v.amask, free := v.accFree, asked := v.asked, desc := v.desc,
                         count := descTotal v.desc }
  s.setCtx n c { v with began := true, pendMode := pending, unsettled := if pending then v.unsettled ++ [x] else v.unsettled }

/-- A stream that is not executed: its context is IDLE again, its step ends, and its ensemble stops (R188). -/
def State.streamFault (s : State) (n c code : Nat) : State :=
  let v := s.ctx n c
  let s := s.haltRecord n c code
  let s := s.setCtx n c { v with st := .idle }
  let e := s.ensOf v.ub
  (s.abandonStep v.ub (isStreamOf c)).stopOn e code

/-- The 256 bytes a WRITE or SEND carries as transaction `t`, and which of their four lines are poisoned: held since the first issue,
a row of the accumulator block, or a slot of the source ring (R163, R166, R167, R172). -/
def State.sourceData (s : State) (n : Nat) (v : Ctx) (t : Nat) : BitVec 4 × List Byte :=
  let u := selTile n v.tsel
  let h := v.held.get (0, []) t
  if h.2 != [] then h
  else if accSource v.desc then (0, (s.tile u).streamRow v.acc v.amask t)
  else
    let at' := v.slotByte (v.slotFor t)
    ((List.range 4).foldl (fun m i => putBit m i (s.tsBad u (at' + 64 * i) 64)) 0, s.tsRead u at' 256)

/-- A stream's step reads poison for the first time: TS_UNCORRECTABLE, with the ensemble's stop; the step is not to complete (R133).
The data go on with their poison (R172). -/
def State.streamSpoiled (s : State) (n c : Nat) (fresh : Bool) : State :=
  let v := s.ctx n c
  if v.spoiled then s
  else
    let s := s.setCtx n c { v with spoiled := true }
    match s.firedStep v.ub (isStreamOf c) with
    | none => s
    | some f => (s.tsRecord (selTile n v.tsel) v.ub f fresh).stopOn f.q.ens cTsUncorrectable

/-- The tile-store lines of the source slot of transaction `t` are read by the step, through the code of the store (R132, R133); data
held since the first issue is not read again. -/
def State.loadSource (s : State) (n c t : Nat) : State :=
  let v := s.ctx n c
  if accSource v.desc || (v.held.get (0, []) t).2 != [] then s
  else
    let u := s.tsLoad (selTile n v.tsel) (v.slotByte (v.slotFor t)) 256 true
    if u.tsBad (selTile n v.tsel) (v.slotByte (v.slotFor t)) 256 then u.streamSpoiled n c (u.tpoison != s.tpoison) else u

/-- What transaction `t` of a WRITE or SEND brings, with its poisoned lines; nothing for any other stream. -/
def State.issueData (s : State) (n : Nat) (v : Ctx) (t : Nat) : BitVec 4 × List Byte :=
  if descDir v.desc = 1 || descDir v.desc = 2 then s.sourceData n v t else (0, [])

/-- Whether a piece of a transaction, `w` bytes from `pos` on, lies in a poisoned line. -/
def pieceBad (bads : BitVec 4) (w pos : Nat) : Bool :=
  (List.range 4).any (fun i => bitOf bads i && 64 * i < pos + w && pos < 64 * i + 64)

/-- Whether a part carries poison. -/
def Part.bad (p : Part) (bads : BitVec 4) (w : Nat) : Bool := p.pieces.any (fun q => pieceBad bads w q.2)

/-- A part with its clean pieces and its poisoned ones apart: a request or a frame carries one VSTATE (R172, R273). A ring slot is one
part, and poisoned as a whole. -/
def Part.split (p : Part) (bads : BitVec 4) (w : Nat) (ring : Bool) : List Part :=
  if ring || !p.bad bads w then [p]
  else
    let (b, g) := p.pieces.partition (fun q => pieceBad bads w q.2)
    (if g.isEmpty then [] else [{ p with pieces := g }]) ++ [{ p with pieces := b }]

/-- Write data of one part, laid out by piece. -/
def partData (w : Nat) (p : Part) (data : List Byte) : List Byte :=
  p.pieces.foldl (fun l q => overlay l (q.1 * w) ((data.drop q.2).take w)) (zeros (4 * w))

/-- The piece mask of a part. -/
def Part.mask (p : Part) : BitVec 4 := p.pieces.foldl (fun m q => putBit m q.1 true) 0

/-- The memory request of a part in HBM (R233, R234, R272, R294). -/
def hbmRequest (n c t : Nat) (v : Ctx) (p : Part) (epoch : Byte) (bad : Bool) (data : List Byte) : Req :=
  { stack := p.stack, block := p.block,
    kind := if descDir v.desc = 0 then .read else if field v.desc 0x60 1 = 2 then .add else .write,
    mask := p.mask, cls := if descDir v.desc = 0 then 1 else 2, vcrit := t < v.critical,
    init := BitVec.ofNat 12 (seInit n), sub := BitVec.ofNat 4 c, seq := BitVec.ofNat 32 t, epoch := epoch, poisoned := bad,
    first := 0, last := 255, data := if descDir v.desc = 0 then [] else partData (pieceWidth v.desc) p data,
    xform := xformOf v.desc v.mode }

/-- The acknowledgement of a part. -/
def ackFor (n c t : Nat) (p : Part) (st : AckStatus) : Ack :=
  { init := BitVec.ofNat 12 (seInit n), sub := BitVec.ofNat 4 c, seq := BitVec.ofNat 32 t, stack := p.stack,
    block := p.block, status := st }

/-- A part behind a host port (R176, R180, R422): a read brings the host's bytes, a write is posted. Host memory has no
memory-side engine: what a transform does there is not stated, and its bytes are free. -/
def State.sendHost (s : State) (n c t : Nat) (v : Ctx) (p : Part) (bad : Bool) (data : List Byte) : State :=
  let q := p.stack - 64
  let w := pieceWidth v.desc
  let plain := field v.desc 0x60 1 == 0
  let s := s.countReq (seInit n) c t (if descDir v.desc = 0 then 0 else 64 * p.pieces.length)
  if !s.portHere q then s.send (.ack (ackFor n c t p .hostErr))
  else if descDir v.desc = 0 then
    let (s, l) := if plain then (s, s.hostRead q p.block 256) else s.drawBytes (4 * w)
    s.send (.resp { init := BitVec.ofNat 12 (seInit n), sub := BitVec.ofNat 4 c, seq := BitVec.ofNat 32 t, stack := p.stack,
                    block := p.block, mask := p.mask, epoch := 0, vstate := 0, data := l })
  else
    let s := p.pieces.foldl (fun s x =>
      if bad || !plain then
        let (s, l) := s.drawBytes 64
        s.hostWrite q (p.block + 64 * x.1) l
      else s.hostWrite q (p.block + 64 * x.1) ((data.drop x.2).take 64)) s
    s.send (.ack (ackFor n c t p .ok))

/-- A part at the partner leaves as a MEMORY frame, with the poison of its data (R172, R180, R465). -/
def State.sendPartner (s : State) (n c t : Nat) (v : Ctx) (p : Part) (bad : Bool) (data : List Byte) : State :=
  let s := s.countReq (seInit n) c t (if descDir v.desc = 0 then 0 else 64 * p.pieces.length)
  { s with partner := { s.partner with memory := s.partner.memory ++
      [.request p.block (descDir v.desc != 0) p.mask (BitVec.ofNat 32 t) (BitVec.ofNat 16 (8 * n + c))
        (if descDir v.desc = 0 then [] else partData (pieceWidth v.desc) p data) bad] } }

/-- The epoch that a transaction's data carry: of an accumulator source the block's, of any other the tile's, which produced them (R64;
DESIGN CHOICE: what a tile store's ring holds counts as its tile's arithmetic data, of the epoch the tile has as they leave). -/
def State.dataEpoch (s : State) (n : Nat) (v : Ctx) : Byte :=
  if accSource v.desc then ((s.tile (selTile n v.tsel)).block v.acc).epoch else (s.bk (v.tileUb n)).epoch

/-- A part at a peer leaves as a PUT, a RING or a GET_REQ frame (R446, R447). -/
def State.sendPeer (s : State) (n c t : Nat) (v : Ctx) (p : Part) (epoch : Byte) (bad : Bool) (data : List Byte) : State :=
  let d := v.desc
  let sid := 8 * n + c
  let own := s.devId
  let vst : BitVec 2 := if bad then 2 else if v.pendMode then 1 else 0
  let s := s.countReq (seInit n) c t (if descDir d = 3 then 0 else 64 * p.pieces.length)
  if descDir d = 3 then s.sendFrame (newFrame own (peerDev d) 1 0x3 0 sid t p.block [])
  else if sendsToRing d then s.sendFrame (ringFrame own n c t d vst epoch data)
  else
    let pieces := (List.range 4).flatMap (fun k => match p.pieces.find? (fun q => q.1 == k) with
      | some q => (data.drop q.2).take 64
      | none => [])
    s.sendFrame { newFrame own (peerDev d) 0 0x0 p.mask.toNat sid t p.block pieces with
      vstate := vst, epoch := epoch, arith := true }

/-- Sends one part of a transaction. -/
def State.sendPart (s : State) (n c t : Nat) (v : Ctx) (x : BitVec 4 × List Byte) (p : Part) : State :=
  let epoch := if descDir v.desc = 1 || descDir v.desc = 2 then s.dataEpoch n v else 0
  let bad := p.bad x.1 (pieceWidth v.desc)
  let data := x.2
  if p.stack < 64 then s.request (hbmRequest n c t v p epoch bad data)
  else if p.stack < atPartner then s.sendHost n c t v p bad data
  else if p.stack = atPartner then s.sendPartner n c t v p bad data
  else s.sendPeer n c t v p epoch bad data

/-- A context after it has issued transaction `t`. -/
def Ctx.issued (v : Ctx) (t : Nat) (fresh : Bool) (parts : List Part) (data : BitVec 4 × List Byte) : Ctx :=
  let d := v.desc
  let again := v.outs.any (fun o => o.t == t)
  let hostW := if descDir d = 1 then (parts.filter (fun p => 64 ≤ p.stack && p.stack < atPartner)).flatMap (fun p => p.pieces.map Prod.snd)
    else []
  { v with
    outs := v.outs ++ [{ t := t, parts := parts, reissued := again }],
    next := if fresh then v.next + 1 else v.next,
    redo := if fresh then v.redo else v.redo.tail,
    slots := if landsInRing d then v.slots.set .free (v.slotFor t) .reserved else v.slots,
    rd := if fresh && !landsInRing d && !accSource d then v.slotFor (t + 1) else v.rd,
    grants := if fresh && sendsToRing d then v.grants.set 0 (peerOf d) (v.held? - 1) else v.grants,
    held := if descDir d = 1 || descDir d = 2 then v.held.set (0, []) t data else v.held,
    flushTs := if hostW.isEmpty then v.flushTs else v.flushTs.set [] t hostW,
    stalled := false }

/-- Issues transaction `t` of a context whose source, if any, may be read. -/
def State.issue (s : State) (n c t : Nat) (fresh : Bool) : State :=
  let v := s.ctx n c
  match s.plan n v t with
  | (_, .later) => s
  | (s, .bad cause va) => s.haltOn n c t cause va
  | (s, .ok parts) =>
    let s := if descDir v.desc = 1 || descDir v.desc = 2 then s.loadSource n c t else s
    let data := s.issueData n v t
    let parts := parts.flatMap (fun p => p.split data.1 (pieceWidth v.desc) (sendsToRing v.desc))
    let w := (s.ctx n c).issued t fresh parts data
    let s := s.setCtx n c w
    let s := parts.foldl (fun s p => s.sendPart n c t w data p) s
    s.releaseRead n c

/-- Whether issuing transaction `t` begins the read of an accumulator source. -/
def Ctx.begins (v : Ctx) (t : Nat) (fresh : Bool) : Bool := accSource v.desc && !v.began && fresh && t == 0

/-- Whether a context competes for issue: it has a transaction that may issue, and its accumulator source, if any, may be
read (R167, R170). -/
def State.competes (s : State) (n c : Nat) : Bool :=
  let v := s.ctx n c
  match s.candidate n v with
  | none => false
  | some (t, fresh) => !v.begins t fresh || s.readStart n v != .wait

/-- The context whose turn it is: the first that competes, from `turn` on (R171). -/
def State.turnOf (s : State) (n : Nat) : Option Nat :=
  ((List.range 8).map (fun i => ((s.se n).turn + i) % 8)).find? (fun c => s.competes n c)

/-- A context takes its turn: it issues its next transaction. An accumulator read has begun before its first transaction is
translated, so a translation that waits or halts finds the block READING (R167; DESIGN CHOICE: the rule does not say when the
read begins). -/
def State.issueNext (s : State) (n c : Nat) : State :=
  let v := s.ctx n c
  match s.candidate n v with
  | none => s
  | some (t, fresh) =>
    if v.begins t fresh then
      match s.readStart n v with
      | .wait => s
      | .fault code => s.streamFault n c code
      | .go pending => (s.beginRead n c pending).issue n c t fresh
    else s.issue n c t fresh

/-- A context issues its next transaction when its turn has come (R170, R171). -/
def execTransactionIssue (se : Nat) (ctx : BitVec 3) (s : State) : Result :=
  if s.turnOf se = some ctx.toNat then
    .next ((s.setSe se { s.se se with turn := (ctx.toNat + 1) % 8 }).issueNext se ctx.toNat)
  else .next s

/-- A walker walks an address for a requester: its translation cache and the walker's take what the walk found (R181). -/
def execTableWalk (requester : Nat) (asid : BitVec 10) (va : BitVec 48) (s : State) : Result :=
  .next (s.walkFor requester asid.toNat va.toNat).1

/-! ## Answers (R158, R172, R176, R184, R186) -/

/-- Where an outstanding transaction waits for a part. -/
def Out.awaits (o : Out) (t stack block : Nat) : Bool :=
  o.t == t && o.parts.any (fun p => p.stack == stack && (p.block == block || stack == atPeer && block == 0))

/-- The part an answer is for. -/
def Out.part? (o : Out) (stack block : Nat) : Option Part :=
  o.parts.find? (fun p => p.stack == stack && (p.block == block || stack == atPeer && block == 0))

/-- An outstanding transaction with no part left: void in a DRAINING context, where its tag and ring slot are refunded (R186); not
retired where it failed, and what did not retire is kept for a resume (R185); retired otherwise. -/
def State.outDone (s : State) (n c : Nat) (o : Out) : State :=
  let v := s.ctx n c
  let s := s.setCtx n c { v with outs := dropFirst v.outs o, stalled := false }
  if v.st = .draining then
    let w := s.ctx n c
    (s.setCtx n c (if landsInRing v.desc then { w with slots := Map.erase w.slots (v.slotFor o.t) } else w)).endDrain n c
  else
    let s := if o.failed then
        let w := s.ctx n c
        s.setCtx n c { w with unfinished := w.unfinished.set [] o.t o.lost }
      else if landsInRing v.desc then s.landed n c o.t
      else s.written n c o.t
    s.settleHalt n c

/-- A part of an outstanding transaction has been answered. -/
def State.partDone (s : State) (n c : Nat) (o : Out) (p : Part) (f : Out → Out) : State :=
  let v := s.ctx n c
  let o' := f { o with parts := dropFirst o.parts p }
  let s := s.setCtx n c { v with outs := modFirst (· == o) (fun _ => o') v.outs }
  if o'.parts.isEmpty then s.outDone n c o' else s

/-- Writes the bytes of a part into the slot of its transaction; `bads` says which of the pieces are poisoned (R172). -/
def State.landBytes (s : State) (n : Nat) (v : Ctx) (t : Nat) (p : Part) (data : List Byte) (bads : BitVec 4) : State :=
  let w := data.length / 4
  let at' := v.slotByte (v.slotFor t)
  p.pieces.foldl (fun s q => s.tsPut (selTile n v.tsel) (at' + q.2) ((data.drop (q.1 * w)).take w) (bitOf bads q.1)) s

/-- A response or acknowledgement that answers nothing outstanding is discarded; the transaction it should have answered,
the context's oldest, is issued again once, and a second failure of it halts the stream with cause SEQ (R158). -/
def State.stray (s : State) (n c : Nat) : State :=
  let v := s.ctx n c
  match v.outs with
  | [] => s
  | o :: r =>
    if v.st != .active then s
    else if o.reissued then
      let s := s.setCtx n c { v with
        outs := r, unfinished := v.unfinished.set [] o.t (o.lost ++ o.parts.flatMap (fun p => p.pieces.map Prod.snd)) }
      s.haltOn n c o.t causeSeq (pieceVa v.desc v.use (memPieces v.desc * o.t))
    else
      let s := s.setCtx n c { v with outs := { o with reissued := true } :: r }
      o.parts.foldl (fun s p => s.sendPart n c o.t v (s.issueData n v o.t) p) s

/-- Whether an initiator is a stream engine, and which. -/
def engineOf (init : Nat) : Option Nat := if 0x200 ≤ init && init < 0x300 then some (init - 0x200) else none

/-- How far the epoch of arithmetic data is ahead of a unit's own (R64). -/
def State.epochGap (s : State) (ub : Nat) (e : Byte) : Nat := (e - (s.bk ub).epoch).toNat

/-- Whether the epoch of a response is one a unit accepts: 0, which a packet without arithmetic data carries and its receiver
ignores, the unit's own, or the next (R64, R273). A request carries no data, and the response to it returns its EPOCH (R272). -/
def State.epochFits (s : State) (ub : Nat) (e : Byte) : Bool := e == 0 || s.epochGap ub e ≤ 1

/-- Arithmetic data of a wrong epoch reach a context: a record, and the ensemble stops (R64). -/
def State.epochStop (s : State) (n c ub : Nat) : State :=
  let e := s.ensOf ub
  (s.haltRecord n c cEpochMismatch).stopOn e cEpochMismatch

/-- Read data for a stream context; data of a wrong epoch land poisoned. -/
def State.streamResp (s : State) (n c : Nat) (r : Resp) : State :=
  let v := s.ctx n c
  let fits := v.st == .draining || s.epochFits v.ub r.epoch
  match v.outs.find? (fun o => o.awaits r.seq.toNat r.stack r.block) with
  | none => s.stray n c
  | some o => match o.part? r.stack r.block with
    | none => s
    | some p =>
      let s := if v.st = .draining then s else s.landBytes n v o.t p r.data (if fits then r.badLines else 15)
      let s := s.partDone n c o p id
      if fits then s else s.epochStop n c v.ub

/-- The halt cause of an acknowledgement (R183, R451). -/
def causeOf (st : AckStatus) : Nat :=
  match st with
  | .permission => causePermission
  | .pcFrozen => causePcFrozen
  | .hostErr => causeHostErr
  | _ => causePeerRefused

/-- A part that did not retire. -/
def State.partLost (s : State) (n c : Nat) (o : Out) (p : Part) : State :=
  match (s.ctx n c).outs.find? (· == o) with
  | none => s
  | some o => s.partDone n c o p (fun o => { o with failed := true, lost := o.lost ++ p.pieces.map Prod.snd })

/-- A request of a context is answered "unit absent": a record, and R15 applies to the ensemble (R16, R264; DESIGN CHOICE: the
transaction does not retire, so the stream does not end before that). -/
def State.unitAbsentAt (s : State) (n c : Nat) : State :=
  let ub := (s.ctx n c).ub
  s.unitAbsent ub ((s.firedStep ub (isStreamOf c)).map (fun f => f.q))

/-- The receiver has acknowledged a transaction of a block that was sent again after its stream had ended; with the last one the block is
settled (R284, R288; DESIGN CHOICE: whatever the acknowledgement says, for no stream is there to halt). -/
def State.resentAck (s : State) (n c t : Nat) : State :=
  let v := s.ctx n c
  match v.unsettled.find? (fun x => x.owed.contains t) with
  | none => s
  | some x =>
    let y := { x with owed := x.owed.filter (· != t) }
    s.setCtx n c { v with unsettled := if y.owed = [] then dropFirst v.unsettled x else modFirst (· == x) (fun _ => y) v.unsettled }

/-- An acknowledgement for a stream context: success and POISONED retire the part, RETRY keeps it to be issued again,
anything else is a halt cause. -/
def State.streamAck (s : State) (n c : Nat) (a : Ack) : State :=
  let v := s.ctx n c
  match v.outs.find? (fun o => o.awaits a.seq.toNat a.stack a.block) with
  | none => if v.unsettled.any (fun x => x.owed.contains a.seq.toNat) then s.resentAck n c a.seq.toNat else s.stray n c
  | some o => match o.part? a.stack a.block with
    | none => s
    | some p => match a.status with
      | .ok => s.partDone n c o p id
      | .poisoned => s.partDone n c o p id
      | .retry =>
        s.setCtx n c { v with outs := modFirst (· == o) (fun o => { o with parts := modFirst (· == p) (fun p => { p with retry := true }) o.parts }) v.outs }
      | .absent => (s.unitAbsentAt n c).partLost n c o p
      | st => (s.haltOn n c o.t (causeOf st) p.va).partLost n c o p

/-- A request that was answered RETRY is issued again (R235). -/
def State.streamRetry (s : State) (n c t : Nat) : State :=
  let v := s.ctx n c
  match v.outs.find? (fun o => o.t == t && o.parts.any (·.retry)) with
  | none => s
  | some o =>
    if v.st = .draining then
      let o' := { o with parts := o.parts.filter (fun p => !p.retry) }
      let s := s.setCtx n c { v with outs := modFirst (· == o) (fun _ => o') v.outs }
      if o'.parts.isEmpty then s.outDone n c o' else s
    else
      let go := o.parts.filter (·.retry)
      let s := s.setCtx n c { v with outs := modFirst (· == o) (fun o => { o with parts := o.parts.map (fun p => { p with retry := false }) }) v.outs }
      go.foldl (fun s p => s.sendPart n c t v (s.issueData n v t) p) s

/-! ## RFREE (R174) -/

/-- Whether the `k` slots from the tail are all LANDED. -/
def Ctx.tailLanded (v : Ctx) (k : Nat) : Bool :=
  k ≤ v.ringSlots && (List.range k).all (fun i => v.slots.get .free ((v.tail + i) % v.ringSlots) == .landed)

/-- The context after its ring's `k` oldest slots are freed. -/
def Ctx.freeTail (v : Ctx) (k : Nat) : Ctx :=
  { v with slots := (List.range k).foldl (fun m i => Map.erase m ((v.tail + i) % v.ringSlots)) v.slots,
           tail := (v.tail + k) % v.ringSlots }

def execRfree (ub : Nat) (s : State) : Result :=
  s.onFired ub 0x62 (fun s f =>
    let n := unitOf ub - 512
    let c := opnd f.q.word 0 3
    let k := opnd f.q.word 4 14
    let v := s.ctx n c
    if v.tailLanded k then
      let w := v.freeTail k
      let recv := descDir v.desc == 4 && (v.st == .active || v.st == .halted)
      let s := s.setCtx n c (if recv then w.reserveFree else w)
      let s := if recv then s.sendGrant n c v.desc k else s
      s.finish ub f
    else
      let s := s.abandon ub f
      let s := s.raise { recStep cRingUnderflow ub f.q (s.bk ub).epoch with detail := c }
      s.stopOn f.q.ens cRingUnderflow)

/-! ## Landings of a RECV context (R168, R286–R289) -/

/-- Sets the slot of transaction `t`. -/
def State.setSlot (s : State) (n c t : Nat) (st : SlotState) : State :=
  let v := s.ctx n c
  s.setCtx n c { v with slots := v.slots.set .free (v.slotFor t) st }

/-- The state of the slot of transaction `t`. -/
def Ctx.slotOf (v : Ctx) (t : Nat) : SlotState := v.slots.get .free (v.slotFor t)

/-- Whether the data of transaction `t` have not landed at a RECV context; data of the next epoch that it holds have not (R64, R287). -/
def Ctx.notArrived (v : Ctx) (t : Nat) : Bool :=
  !(t < v.low || v.done.contains t || v.slotOf t == .pending || v.slotOf t == .poisoned)

/-- Whether a transaction number lies in a verdict's range. -/
def verdictCovers (b : VerdictBody) (t : Nat) : Bool := b.first.toNat ≤ t && t ≤ b.last.toNat

/-- The record of a verdict that poisons slots; DETAIL [3] marks a cancelled block (R288, R290). -/
def State.verdictPoisoned (s : State) (n c : Nat) (cancelled : Bool) : State :=
  s.raise { recOf cVerdictPoisoned 3 n with ens := s.ensOf (s.ctx n c).ub, detail := c + 8 * flag cancelled }

/-- A verdict's outcome for one PENDING slot. -/
def State.resolveSlot (s : State) (n c t : Nat) (outcome : Nat) : State :=
  if outcome = 0 then s.landed n c t else s.setSlot n c t .poisoned

/-- A verdict applied to its slots; it is kept while data it concerns has not arrived, four at most (R287). -/
def State.applyVerdict (s : State) (n c : Nat) (b : VerdictBody) : State :=
  let v := s.ctx n c
  if descDir v.desc != 4 || !(v.st == .active || v.st == .halted) then s
  else
    let last := min b.last.toNat (descTotal v.desc - 1)
    let ts := (List.range (last + 1 - b.first.toNat)).map (· + b.first.toNat)
    let waits := ts.any v.notArrived
    if waits && 4 ≤ v.verdicts.length then s
    else
      let s := if waits then s.setCtx n c { v with verdicts := v.verdicts ++ [b] } else s
      let pend := ts.filter (fun t => v.slotOf t == .pending && !(t < v.low) && !v.done.contains t)
      let s := pend.foldl (fun s t => s.resolveSlot n c t b.outcome.toNat) s
      if b.outcome = 0 then s else s.verdictPoisoned n c (b.outcome == 2)

/-- Drops the kept verdicts all of whose data has arrived. -/
def State.dropVerdicts (s : State) (n c : Nat) : State :=
  let v := s.ctx n c
  s.setCtx n c { v with verdicts := v.verdicts.filter (fun b =>
    ((List.range (b.last.toNat + 1 - b.first.toNat)).map (· + b.first.toNat)).any v.notArrived) }

/-- Data that have landed whole become what their VSTATE says (R286): RELEASED data make the slot LANDED, PENDING data wait for
their verdict. -/
def State.settleSlot (s : State) (n c t : Nat) (vst : BitVec 2) : State :=
  if vst = 1 then
    let s := s.setSlot n c t .pending
    match (s.ctx n c).verdicts.find? (fun b => verdictCovers b t) with
    | none => s
    | some b => (s.resolveSlot n c t b.outcome.toNat).dropVerdicts n c
  else s.landed n c t

/-- Data that a sender's transaction `t` brings to a RECV context (R64, R172, R286). POISONED data poison the slot; arithmetic
data of an epoch outside R64 are poisoned and stop the ensemble; those of the next epoch are held until the unit's own MODE
step. A transaction that has retired is not written again (DESIGN CHOICE: its sender has had no reason to send it). -/
def State.ringLand (s : State) (n c t : Nat) (data : List Byte) (vst : BitVec 2) (epoch : Byte) (arith : Bool) : State :=
  let v := s.ctx n c
  if t < v.low || v.done.contains t then s
  else
    let gap := if arith then s.epochGap v.ub epoch else 0
    let bad := vst == 2 || 1 < gap
    let s := s.setCtx n c { v with stalled := false }
    let s := s.tsPut (selTile n v.tsel) (v.slotByte (v.slotFor t)) data bad
    if bad then
      let s := s.setSlot n c t .poisoned
      if 1 < gap then s.epochStop n c v.ub else s
    else if gap = 1 then
      let w := s.ctx n c
      s.setCtx n c { w with ahead := w.ahead.set 3 t vst }
    else s.settleSlot n c t vst

/-- The data of the next epoch that a unit holds become its own as it adopts that epoch (R64). -/
def State.takeAhead (s : State) (ub : Nat) : State :=
  (List.range 8).foldl (fun s c =>
    let n := unitOf ub - 512
    let v := s.ctx n c
    if v.ub = ub then
      v.ahead.foldl (fun s (p : Nat × BitVec 2) => s.settleSlot n c p.1 p.2) (s.setCtx n c { v with ahead := [] })
    else s) s

/-- A member whose barrier is complete consumes the token in WTK, adopts the mode, and completes the step (R63, R198). -/
def execModeAdopt (ub : Nat) (s : State) : Result :=
  match s.firedStep ub (fun f => opOf f.q.word == 0x01 && f.acted) with
  | none => .next s
  | some f =>
    let o := s.obj (opnd f.q.word 0 15)
    let k := o.wtk.toNat
    let b := s.bk ub
    if k < 16 && 0 < b.tk.get 0 k then
      let mode := BitVec.ofNat 8 (opnd f.q.word 16 8)
      let s := s.setBk ub { b with tk := b.tk.set 0 k (b.tk.get 0 k - 1), mode := mode, epoch := b.epoch + 1 }
      let s := s.adoptTables (unitOf ub)
      let s := s.finish ub f
      .next (if unitKind (unitOf ub) == .stream then s.takeAhead ub else s)
    else .next s

/-- Whether a RECV context takes a frame of a sender: one that a grant of its covers, into a slot reserved for it (R168, R170;
DESIGN CHOICE: a frame that no grant covers is refused). -/
def Ctx.takesFrom (v : Ctx) (dev : Nat) (sid t : Nat) : Bool :=
  descDir v.desc == 4 && (v.st == .active || v.st == .halted) && peerDev v.desc == dev
    && peerUnit v.desc == 512 + sid / 8 && peerCtx v.desc == sid % 8 && t < descTotal v.desc
    && (!v.notArrived t || v.slotOf t == .reserved)

/-! ## The commands of answers, host flushes, resumption and the watchdog -/

def execHostFlush (se : Nat) (ctx : BitVec 3) (ok : Bool) (s : State) : Result :=
  let c := ctx.toNat
  let v := s.ctx se c
  if !s.rst.pllLost && v.st = .active && v.low = descTotal v.desc && v.outs.isEmpty && v.flushTs != [] then
    if ok then .next ((s.setCtx se c { v with flushTs := [], held := [] }).endStream se c)
    else
      let t0 := (nth v.flushTs 0 (0, [])).1
      let again := v.flushTs.map Prod.fst
      let done := ((List.range (v.next - t0)).map (· + t0)).filter (fun t => !again.contains t)
      let v := { v with low := t0, done := done, bytes := v.bytes - 256 * again.length, unfinished := v.flushTs, flushTs := [] }
      let s := s.setCtx se c v
      .next (s.haltOn se c t0 causeHostErr (pieceVa v.desc v.use (memPieces v.desc * t0)))
  else .next s

/-- Whether a virtual function may act on a unit: the unit is in an ensemble a channel of its is bound to (R426). -/
def State.mayTouch (s : State) (h : Issuer) (ub : Nat) : Bool :=
  !s.isVf h.chan || (s.ensOf ub < 8 && s.vfOwns h.chan (s.ensOf ub))

/-- RESUME_STREAM (R185, R229, R435). -/
def execResumeStream (h : Issuer) (unit : BitVec 10) (ctx : BitVec 3) (s : State) : Result :=
  s.command h (fun s =>
    let u := unit.toNat
    let c := ctx.toNat
    match unitKind u with
    | .stream =>
      let n := u - 512
      if (s.sserv.get {} n).unserved then s.answer h 0x0A stUnserved
      else if !s.mayTouch h (s.ctx n c).ub then s.answer h 0x0A stDenied
      else if (s.ctx n c).st = .halted then (s.resumeCtx n c).answer h 0x0A stOk
      else s.answer h 0x0A stNotHalted
    | .memory =>
      let m := u - 768
      let j := c % 4
      if 4 ≤ c then s.answer h 0x0A stMalformed
      else if !s.stackOn m then s.answer h 0x0A stUnserved
      else if !s.mayTouch h (s.job m j).ub then s.answer h 0x0A stDenied
      else if (s.job m j).state = 2 then
        (s.setJob m j { s.job m j with state := 1, cause := 0, addr := 0 }).answer h 0x0A stOk
      else s.answer h 0x0A stNotHalted
    | _ => s.answer h 0x0A stMalformed)

/-- The watchdog (R177): DETAIL holds the context, the ring occupancy and the tags held. -/
def execStreamStalled (se : Nat) (ctx : BitVec 3) (s : State) : Result :=
  let c := ctx.toNat
  let v := s.ctx se c
  if !s.rst.pllLost && v.st = .active && !v.stalled then
    let s := s.setCtx se c { v with stalled := true }
    .next (s.raise { recOf cStreamStalled 3 se with
      ens := s.ensOf v.ub, detail := c + 2 ^ 3 * (v.used % 2 ^ 14) + 2 ^ 17 * (v.outs.length % 2 ^ 9) })
  else .next s

/-- A slot that stays PENDING or POISONED too long (R289). -/
def State.verdictLate (s : State) (n c slot : Nat) : State :=
  let v := s.ctx n c
  if !s.rst.pllLost && v.st = .active && descDir v.desc = 4 && (v.slots.get .free slot == .pending || v.slots.get .free slot == .poisoned) then
    let s := s.haltRecord n c cVerdictTimeout
    s.haltOn n c v.low causeVerdict 0
  else s

/-! ## Waits that a completed command releases (R60, R161, R209) -/

/-- Marks the fetches that wait at an address which `covers` holds for (address space, cause, address): each resumes by
itself. -/
def State.releaseWaits (s : State) (covers : Nat → Nat → Nat → Bool) : State :=
  let freed (x : Ens) : Ens := match x.halt with
    | some h => { x with halt := some { h with released := h.released || covers x.asid h.cause h.addr } }
    | none => x
  let step (f : Fired) : Fired :=
    if f.waiting then { f with released := f.released || covers (s.en f.q.ens).asid f.failCause f.failVa } else f
  { s with ens := s.ens.map (fun (p : Nat × Ens) => (p.1, freed p.2)),
           banks := s.banks.map (fun (p : Nat × Bank) => (p.1, { p.2 with fired := p.2.fired.map step })) }

end Sys2Proof.Machine
end

