-- ==== Sys2Proof/Machine/Vector.lean ====
section
/-! DEFINITION. The vector unit of a tile (R137–R154): reading operands, the arithmetic of each opcode, storing results
through the conversions of R110–R124, the lane generators, and the check of R153. Every opcode has a meaning of its
own over the shared loop `State.vector`. -/

namespace Sys2Proof.Machine

/-! ## Lanes and masks -/

/-- Lane masks and scalars as read: LM0 is all ones and S0 is +0 (R137). -/
def Tile.lmask (t : Tile) (n : Nat) : BitVec 128 := if n = 0 then -1 else t.lmasks.get 0 n
def Tile.sreg (t : Tile) (n : Nat) : W32 := if n = 0 then 0 else t.sregs.get 0 n

/-- A vector as written: 128 words, and whether it is poisoned. -/
structure Vec where
  w   : List W32
  bad : Bool := false
deriving DecidableEq, Repr

/-- A vector as read: 128 values under the mode's input flush (R106), and whether it is poisoned. -/
structure Opd where
  v   : List Num
  bad : Bool := false
deriving DecidableEq, Repr

/-- A vector register (R137). -/
def Tile.vreg (t : Tile) (n : Nat) : Vec :=
  { w := Map.getAll t.vregs 0 (128 * n) 128, bad := t.vpoison.contains n }

/-- Writes the lanes of a vector register that the mask sets (R142); a register takes the poison of what it is given. -/
def Tile.setVreg (t : Tile) (n : Nat) (mask : BitVec 128) (v : Vec) : Tile :=
  let old := (t.vreg n).w
  let ws := (v.w.zip old).zipIdx.map (fun p => if bitOf mask p.2 then p.1.1 else p.1.2)
  { t with vregs := Map.setAll t.vregs 0 (128 * n) ws,
           vpoison := putIdx t.vpoison n (v.bad || (mask != -1 && t.vpoison.contains n)) }

/-- Writes one lane of a vector register. -/
def Tile.setLane (t : Tile) (n lane : Nat) (w : W32) : Tile := { t with vregs := t.vregs.set 0 (128 * n + lane) w }
def Tile.lane (t : Tile) (n lane : Nat) : W32 := t.vregs.get 0 (128 * n + lane)

/-! ## The lane generators (R150) -/

/-- The golden-ratio constant of R150. -/
abbrev golden : W64 := 0x9E3779B97F4A7C15

/-- A generator's state as a draw advances it. -/
def xorshift (s : W64) : W64 :=
  let s := s ^^^ (s <<< 13)
  let s := s ^^^ (s >>> 7)
  s ^^^ (s <<< 17)

/-- The sixteen bits a draw yields from the advanced state. -/
def drawOf (s : W64) : Nat := fld (s * golden) 48 16

/-- The state VSEED gives lane `i` (R150). -/
def seedLane (seed : W64) (i : Nat) : W64 :=
  let s := seed ^^^ (BitVec.ofNat 64 (i + 1) * golden)
  if s = 0 then 1 else s

/-- The state of a lane's generator; one that nothing has seeded since core reset holds the keeper's seed. -/
def genState (gens : Map W64) (era bank i : Nat) : W64 :=
  let v := gens.get 0 i
  if v = 0 then Config.laneSeed era bank i else v

def State.gen (s : State) (u i : Nat) : W64 := genState (s.tile u).gens (s.era + (s.tile u).genEra) u i

/-- The draw lane `i` would give next. -/
def State.peek (s : State) (u i : Nat) : Nat := drawOf (xorshift (s.gen u i))

/-- Lane `i` takes its draw. -/
def State.advance (s : State) (u i : Nat) : State :=
  let g := xorshift (s.gen u i)
  s.setTile u { s.tile u with gens := (s.tile u).gens.set 0 i g }

/-! ## Reading operands (R138–R140) -/

/-- The tensor scale an AXF4 operand uses, TS[AUX] (R139). -/
def State.tscale (s : State) (u aux : Nat) : W32 := (s.tile u).scales.get 0x3F800000 aux

/-- The bytes and scale bytes of vector `i` of a tile-store operand: their places in the store (R139). -/
def storeAt (line fmt i : Nat) : Nat := 64 * (line + vecLines fmt * i)
def scaleAt (line fmt count i : Nat) : Nat := 64 * (line + vecLines fmt * count) + vecScales fmt * i

/-- An element of a tile-store operand, converted to FP32 (R106, R139): a short format's is never flushed. A scaled value that is
no FP32 value (AXF4 beyond 24 bits, MX above the range) is rounded to nearest even and overflows by OVF, and a zero block scale
under an infinite or NaN tensor scale reads as NaN (DESIGN CHOICE: R104 and R139 state neither). -/
def storeElem (mode : Byte) (fmt : Nat) (t : Num) (code scale : Nat) : Num :=
  if blockLen fmt = 0 then readElem mode (elem fmt) code
  else decodeElem fp32 (toF32 (mode ||| 1) ((scaledElem mode fmt code scale).mul t)).toNat

/-- Vector `i` of a tile-store operand. -/
def State.readStore (s : State) (u : Nat) (mode : Byte) (line fmt aux count i : Nat) : Opd :=
  let a := storeAt line fmt i
  let n := 64 * vecLines fmt
  let es := unpack fmt (s.tsRead u a n)
  let sa := scaleAt line fmt count i
  let sn := vecScales fmt
  let scales := s.tsRead u sa sn
  let t := if fmt = 0x13 then readF32 mode (s.tscale u aux) else .one
  { v := es.zipIdx.map (fun p => storeElem mode fmt t p.1 (if sn = 0 then 0 else field scales (p.2 / blockLen fmt) 1)),
    bad := s.tsBad u a n || (sn != 0 && s.tsBad u sa sn) }

/-- Accumulator vector `v` of an array and block (R140); past vector 31 there is no such vector, and its words are free. -/
def State.readAcc (s : State) (u : Nat) (mode : Byte) (b a v free : Nat) : Opd :=
  let t := s.tile u
  let ws := if 32 ≤ v then (List.range 128).map (fun i => Config.freeWord (free + i))
    else t.accRow a b (2 * v) ++ t.accRow a b (2 * v + 1)
  { v := ws.map (fun w => readF32 mode (if (t.block b).isInt && v < 32 then i32ToF32 mode w else w)) }

/-- A vector register as an operand. -/
def Tile.regOpd (t : Tile) (mode : Byte) (n : Nat) : Opd := { v := (t.vreg n).w.map (readF32 mode), bad := (t.vreg n).bad }

/-- Vector `i` of a source operand. -/
def State.source (s : State) (u : Nat) (mode : Byte) (v : VStep) (x i free : Nat) : Opd :=
  let t := s.tile u
  match vop x with
  | .reg n inc => t.regOpd mode (if inc then (n + i) % 32 else n)
  | .store l => s.readStore u mode l v.fmt v.aux v.count i
  | .acc b a f _ => s.readAcc u mode b a (f + i) free
  | .scalar n => { v := List.replicate 128 (readF32 mode (t.sreg n)), bad := t.spoison.contains n }

/-- The old contents of vector `i` of the destination, which VFMA reads as an operand (R141). -/
def State.oldDest (s : State) (u : Nat) (mode : Byte) (v : VStep) (i : Nat) : Opd := s.source u mode v v.dst i 0

/-! ## Storing results (R110–R125, R139, R142, R149) -/

/-- Lane `i` of a mask. -/
def laneOn (mask : BitVec 128) (i : Nat) : Bool := bitOf mask i

/-- The bytes of a vector with the elements of set lanes replaced: bytes of clear lanes are not written (R142). -/
def mergeLanes (fmt : Nat) (old : List Byte) (codes : List Nat) (mask : BitVec 128) : List Byte :=
  match elemBits fmt with
  | 4 =>
    let o := old.flatMap (fun b => [b.toNat % 16, b.toNat / 16])
    let c := (codes.zip o).zipIdx.map (fun p => if laneOn mask p.2 then p.1.1 else p.1.2)
    pack fmt c
  | w =>
    let n := w / 8
    ((codes.map (leBytes n)).zip (chunks n old.length old)).zipIdx.flatMap (fun p =>
      if laneOn mask p.2 then p.1.1 else p.1.2)

/-- Writes one line's worth of a vector: a line whose lanes are all set is wholly written, another keeps its poison. -/
def State.putLines (s : State) (u a : Nat) (bytes : List Byte) (perLine : Nat) (mask : BitVec 128) (bad : Bool) : State :=
  ((chunks 64 bytes.length bytes).zipIdx).foldl (fun s p =>
    let lanes := (List.range perLine).map (fun j => laneOn mask (p.2 * perLine + j))
    if lanes.all id then s.tsPut u (a + 64 * p.2) p.1 bad
    else if lanes.any id then
      let s := s.tsWrite u (a + 64 * p.2) p.1
      if bad then s.tsPoison u (a + 64 * p.2) true else s
    else s) s

/-- A vector's results in a plain format: the codes, the events, and the lanes that drew. -/
def plainCodes (mode : Byte) (fmt : Nat) (xs : List (Num × Nat)) (mask : BitVec 128) : List Nat × Events × List Nat :=
  let cs := xs.map (fun p => convert mode (elem fmt) p.1 p.2)
  let on := cs.zipIdx.filter (fun p => laneOn mask p.2)
  (cs.map Conv.code, on.foldl (fun e p => e.add p.1.events) {}, (on.filter (fun p => p.1.drew)).map Prod.snd)

/-- A vector's results in a block-scaled format, block by block, each scale formed from the set lanes only: the codes,
the scales of the blocks with a set lane, the events, and the lanes that drew. -/
def blockCodes (mode : Byte) (fmt : Nat) (t : W32) (xs : List (Num × Nat)) (mask : BitVec 128) :
    List Nat × List (Option Nat) × Events × List Nat :=
  let len := blockLen fmt
  (chunks len 128 xs).zipIdx.foldl (fun acc p =>
    let on := p.1.zipIdx.filter (fun q => laneOn mask (len * p.2 + q.2))
    if on.isEmpty then (acc.1 ++ p.1.map (fun _ => 0), acc.2.1 ++ [none], acc.2.2.1, acc.2.2.2)
    else
      let (r, drew) := convertBlock mode fmt t (on.map Prod.fst)
      let codes := (List.range len).map (fun j =>
        ((on.zip r.codes).find? (fun q => q.1.2 == j)).map (fun q => q.2) |>.getD 0)
      let lanes := ((on.zip drew).filter (fun q => q.2)).map (fun q => len * p.2 + q.1.2)
      (acc.1 ++ codes, acc.2.1 ++ [some r.scale], acc.2.2.1.add r.events, acc.2.2.2 ++ lanes))
    (([], [], {}, []) : List Nat × List (Option Nat) × Events × List Nat)

/-- Stores vector `i` of a tile-store destination through the conversion of its format (R149). -/
def State.writeStore (s : State) (u : Nat) (mode : Byte) (line fmt aux count i : Nat) (mask : BitVec 128) (v : Vec) :
    State :=
  let xs := v.w.zipIdx.map (fun p => (readF32 mode p.1, s.peek u p.2))
  let a := storeAt line fmt i
  let old := s.tsRead u a (64 * vecLines fmt)
  let per := 128 / vecLines fmt
  let (codes, scales, ev, drew) :=
    if blockLen fmt = 0 then
      let (c, e, d) := plainCodes mode fmt xs mask
      (c, ([] : List (Option Nat)), e, d)
    else blockCodes mode fmt (s.tscale u aux) xs mask
  let bad := v.bad || ((s.tile u).gpoison && !drew.isEmpty)
  let s := s.putLines u a (mergeLanes fmt old codes mask) per mask bad
  let sa := scaleAt line fmt count i
  let s := scales.zipIdx.foldl (fun s p => match p.1 with
    | none => s
    | some c =>
      let s := s.tsPut u (sa + p.2) [BitVec.ofNat 8 c] bad
      s) s
  let s := s.setTile u ((s.tile u).addEvents ev)
  drew.foldl (fun s l => s.advance u l) s

/-- Writes vector `i` of the destination. -/
def State.writeDest (s : State) (u : Nat) (mode : Byte) (v : VStep) (count i : Nat) (mask : BitVec 128) (x : Vec) : State :=
  match vop v.dst with
  | .reg n inc => s.setTile u ((s.tile u).setVreg (if inc then (n + i) % 32 else n) mask x)
  | .store l => s.writeStore u mode l v.fmt v.aux count i mask x
  | _ => s

/-! ## Arithmetic of one lane (R118, R141, R145, R148) -/

/-- Whether a word misses an exact value by at most 1 ulp of it. -/
def withinUlp (v : Num) (w : W32) : Bool :=
  match v with
  | .fin m e =>
    let x := decodeElem fp32 w.toNat
    m != 0 && x.isFin && !(Num.fin 1 (gridExp fp32 false (m.natAbs * pow2 e) (pow2 (-e)))).lt (v.add x.neg).abs
  | _ => false

/-- Product plus addend: one rounding in strict mode; in fast mode the product may be rounded first, where that misses the exact
result by at most 1 ulp (R145). -/
def fma (mode : Byte) (a b d : Num) : W32 :=
  let p := a.mul b
  let w := toF32 mode (p.add d)
  let w' := toF32 mode (p.round24.add d)
  if !strict mode && Config.vfmaSplits (toF32 mode a) (toF32 mode b) (toF32 mode d)
    && withinUlp (p.add d) w' then w' else w

/-- The largest finite value or the infinity of a sign, as OVF says (R109, R148). -/
def overflowWord (mode : Byte) (neg : Bool) : W32 :=
  BitVec.ofNat 32 (if propagate mode then infCode fp32 neg else limitCode fp32 neg)

/-- The condition of a VCMP on two operands (R141). -/
def compare (cond : Nat) (x y : Num) : Bool :=
  if x.isNan || y.isNan then cond == 1 || cond == 6
  else match cond with
    | 0 => x.same y
    | 1 => !x.same y
    | 2 => x.lt y
    | 3 => !y.lt x
    | 4 => y.lt x
    | 5 => !x.lt y
    | _ => false

/-- An FP32 result that misses the value m · 2^e, which is not zero, by at most `bound` (R148): the value missed by `err`, kept
within the bound, is brought to the FP32 grid on the value's side, so that every FP32 value within the bound is possible. Bound
and error are in units of 2^e. -/
def nearBy (mode : Byte) (m e bound err : Int) : W32 :=
  let t := m + max (-bound) (min bound err)
  if t = 0 then 0
  else
    let u := gridExp fp32 false (t.natAbs * pow2 e) (pow2 (-e))
    let x := t * pow2 (e - u)
    let q : Int := pow2 (u - e)
    toF32 mode (.fin (if m ≤ t then x / q else -((-x) / q)) u)

/-- A result within `k` units in the last place of the value m · 2^e (R148). -/
def near (mode : Byte) (k err m e : Int) : W32 :=
  let u := gridExp fp32 false (m.natAbs * pow2 e) (pow2 (-e))
  nearBy mode m e (k * pow2 (u - e)) err

/-- The result of an opcode under tables for which no bound is promised (R148). -/
def unbounded (mode : Byte) (op : Nat) (a : W32) : W32 := toF32 mode (readF32 mode (Config.unboundedResult op a))

/-- 2^x (R148): the special values, and an ordinary result within 2 units in the last place. -/
def exp2N (std : Bool) (mode : Byte) (x : Num) : W32 :=
  let a := toF32 (mode ||| 1) x
  match x with
  | .nan => 0x7FC00000
  | .inf true => 0
  | .inf false => 0x7F800000
  | .fin m e =>
    if !x.lt (.fin 128 0) then overflowWord mode false
    else if !strict mode && x.lt (.fin (-126) 0) then 0
    else if std then
      let p := exp2Fixed m e
      if p.1 = 0 then 0 else near mode 2 (Config.vexp2Error a) p.1 p.2
    else unbounded mode 0x29 a

/-- log₂ of a positive value, missed by at most 2 units in the last place or 2⁻²², whichever is larger (R148). -/
def nearLog2 (mode : Byte) (m : Nat) (e err : Int) : W32 :=
  let v := log2Fixed m e
  nearBy mode v (-64) (max (2 ^ (Nat.log2 v.natAbs - 22)) (2 ^ 42)) err

/-- log₂ A (R148). -/
def log2N (std : Bool) (mode : Byte) (x : Num) : W32 :=
  let a := toF32 (mode ||| 1) x
  match x with
  | .nan => 0x7FC00000
  | .inf true => 0x7FC00000
  | .inf false => 0x7F800000
  | .fin m e =>
    if m = 0 then overflowWord mode true
    else if m < 0 then 0x7FC00000
    else if x.same .one then 0
    else if std then nearLog2 mode m.natAbs e (Config.vlog2Error a)
    else unbounded mode 0x2A a

/-- Whether the standard transcendental tables are in force, under which the bounds of R148 hold; `set` is the table set of the
step, the built-in one where nothing has been loaded (R356). -/
def standardSet (set : List Byte) : Bool := set = [] || Config.standardTables set

/-- 1 ÷ A (R148). -/
def rcpN (std : Bool) (mode : Byte) (x : Num) : W32 :=
  let a := toF32 (mode ||| 1) x
  match x with
  | .nan => 0x7FC00000
  | .inf _ => 0
  | .fin m e =>
    if m = 0 then overflowWord mode false
    else if std then
      let q := quotient (pow2 (-e)) (m.natAbs * pow2 e)
      near mode 1 (Config.vrcpError a) (if m < 0 then -q.1 else q.1) q.2
    else unbounded mode 0x2B a

/-- 1 ÷ √A (R148). -/
def rsqN (std : Bool) (mode : Byte) (x : Num) : W32 :=
  let a := toF32 (mode ||| 1) x
  match x with
  | .nan => 0x7FC00000
  | .inf true => 0x7FC00000
  | .inf false => 0
  | .fin m e =>
    if m = 0 then overflowWord mode false
    else if m < 0 then 0x7FC00000
    else if std then near mode 2 (Config.vrsqError a) (isqrt (2 ^ 220 * pow2 (-e) / (m.natAbs * pow2 e))) (-110)
    else unbounded mode 0x2C a

/-- VPERM's index: the lane a value names, where it names one (R141). -/
def permIndex (b : Num) : Option Nat :=
  match b with
  | .fin m e =>
    if m < 0 then none
    else
      let n := m.natAbs * pow2 e
      let d := pow2 (-e)
      if n % d = 0 && n / d < 128 then some (n / d) else none
  | _ => none

/-! ## Sums whose order is not specified (R146, R147) -/

/-- A sum computed as additions each rounded once, `pick` saying which two terms each adds; `fuel` additions at most. -/
def pickedSum (mode : Byte) (pick : Nat → Nat) (fuel : Nat) (l : List Num) : Num :=
  match fuel with
  | 0 => l.headD .zero
  | k + 1 =>
    match l with
    | [] => .zero
    | [x] => x
    | _ =>
      let i := pick (2 * k) % l.length
      let r := l.eraseIdx i
      let j := pick (2 * k + 1) % r.length
      pickedSum mode pick k (readF32 mode (toF32 mode ((nth l i .zero).add (nth r j .zero))) :: r.eraseIdx j)

/-- A sum of terms in an order that is not specified, each addition rounded once (R146, R215): at most `exact` non-zero
terms leave no choice; a draw orders more. A term that is no FP32 value may be rounded before it is added. -/
def orderSum (mode : Byte) (exact : Nat) (xs : List Num) (free : Nat) : W32 :=
  let total := xs.foldl Num.add .zero
  let live := xs.filter (fun x => !x.isZero)
  if total.isNan then 0x7FC00000
  else if live.length ≤ exact then toF32 mode total
  else
    let terms := if Config.sumSplits free then live.map (fun x => readF32 mode (toF32 mode x)) else live
    toF32 mode (pickedSum mode (Config.sumPick free) live.length terms)

/-- Lanes of a group. -/
def groupSize (g : Nat) : Nat := 16 * 2 ^ (g % 4)

/-! ## The loop of a step -/

/-- The operands of one vector, as its opcode sees them; `bad` says the lane mask is poisoned, or the generators of a draw. -/
structure Lanes where
  a    : Opd
  b    : Opd
  d    : Opd
  mask : BitVec 128
  aux  : Nat
  mode : Byte
  std  : Bool
  bad  : Bool
  i    : Nat
deriving DecidableEq, Repr

/-- Whether a result computed from a vector's operands is poisoned (R133). -/
def Lanes.poisoned (l : Lanes) : Bool := l.a.bad || l.b.bad || l.d.bad || l.bad

/-- What a vector step does with one vector: the state after it. -/
abbrev VBody := State → Nat → VStep → Lanes → State

/-- One vector of a step: its operands are read, then the body has its effect. -/
def State.oneVector (s : State) (u op : Nat) (v : VStep) (f : Fired) (body : VBody) (i : Nat) : State :=
  let t := s.tile u
  let l : Lanes :=
    { a := if usesA op then s.source u f.mode v v.srca i s.free else { v := [] },
      b := if usesB op then s.source u f.mode v v.srcb i (s.free + 128) else { v := [] },
      d := if op = 0x24 then s.oldDest u f.mode v i else { v := [] },
      mask := t.lmask v.lmask, aux := v.aux, mode := f.mode, std := standardSet f.tables,
      bad := t.lpoison.contains v.lmask || (op == 0x31 && t.gpoison), i := i }
  let s := { s with free := s.free + 256 }
  body s u v l

/-- The tile-store lines that a step's sources take, and VFMA's old destination: first line and number. -/
def sourceLines (op : Nat) (v : VStep) : List (Nat × Nat) :=
  let of (x n : Nat) : List (Nat × Nat) := match vop x with
    | .store l => [(l, n)]
    | _ => []
  (if usesA op then of v.srca (if op = 0x32 then 1 else operandLines v.fmt v.count) else [])
    ++ (if usesB op then of v.srcb (operandLines v.fmt v.count) else [])
    ++ (if op = 0x24 then of v.dst (operandLines v.fmt v.count) else [])

/-- The lines a step reads pass their code (R132, R133). -/
def State.loadSources (s : State) (u op : Nat) (v : VStep) : State :=
  (sourceLines op v).foldl (fun s x => s.tsLoad u (64 * x.1) (64 * x.2) true) s

/-- Whether the step reads a poisoned line of the tile store (R133). -/
def State.readsPoison (s : State) (u op : Nat) (v : VStep) : Bool :=
  (sourceLines op v).any (fun x => s.tsBad u (64 * x.1) (64 * x.2))

/-- The accumulator blocks a step reads, each with the arrays and whether a source frees it (R140). -/
def blockReads (w : W128) : List (Nat × Nat × Bool) :=
  let xs := accSources w
  (xs.map (·.1)).eraseDups.map (fun b =>
    let mine := xs.filter (fun x => x.1 == b)
    (b, mine.foldl (fun m x => m ||| 2 ^ x.2.1) 0, mine.any (fun x => x.2.2.2)))

/-- The end of a step's accumulator reads (R89, R140, R300). A step that did not read its last vector frees nothing. -/
def State.endReads (s : State) (ub : Nat) (w : W128) (whole : Bool) : State :=
  (blockReads w).foldl (fun s x => s.release (unitOf ub) ub x.1 x.2.1 0 0 (whole && x.2.2)) s

/-- Free words in place of results that failed their check. -/
def State.spoil (s : State) : State × Vec :=
  ({ s with free := s.free + 128 }, { w := (List.range 128).map (fun i => Config.freeWord (s.free + i)), bad := true })

/-- A record about a step and a health event of its vector unit (R153). -/
def State.vuEvent (s : State) (ub : Nat) (f : Fired) (code : Nat) : State :=
  let s := s.raise (recStep code ub f.q (s.bk ub).epoch)
  s.healthEvent 2 (unitOf ub)

/-- How a step works on its vectors: in `count` parts, of which `upTo` does the first `k`, and `spoil` writes what part `k` was
to write, poisoned (R153). `rest` is the whole step. -/
structure VRun where
  parts : Nat
  upTo  : State → Nat → State
  spoil : State → Nat → State
  rest  : State → State

/-- A vector step's work: its lines pass their code, then its parts run. Each part whose re-execution passed is a corrected event; one
whose re-execution fails is written poisoned, those before it have their effect, the step does not complete, and the ensemble stops
(R153). A step that read a poisoned line works on it, does not complete, and stops its ensemble (R133). -/
def State.vectorStep (s : State) (ub op : Nat) (f : Fired) (chk : VuCheck) (r : VRun) : State :=
  let u := unitOf ub
  let t := s.loadSources u op (vstepOf f.q.word)
  let poison := t.readsPoison u op (vstepOf f.q.word)
  let fresh := t.tpoison != s.tpoison
  let bad := chk.failed.filter (fun k => k < r.parts)
  let s := match bad with
    | none => r.rest t
    | some k => r.spoil (r.upTo t k) k
  let s := s.endReads ub f.q.word (bad.isNone && !poison)
  let s := (List.range (min chk.corrected (bad.getD r.parts))).foldl (fun s _ => s.vuEvent ub f cVuCorrected) s
  let s := if bad.isSome then s.vuEvent ub f cVuCheck else s
  if poison then s.tsFault u ub f fresh
  else if bad.isSome then (s.abandon ub f).stopOn f.q.ens cVuCheck
  else s.markActed ub f

/-- Poisoned free words in place of vector `k` of the destination: a vector, a lane mask for VCMP, a scalar for VSCL. -/
def State.spoilDest (s : State) (u op : Nat) (v : VStep) (mode : Byte) (k : Nat) : State :=
  let (s, x) := s.spoil
  let t := s.tile u
  let n := bits v.dst 0 4
  if op = 0x27 then
    let m : BitVec 128 := BitVec.ofNat 128 (x.w.take 4 |>.foldr (fun w a => w.toNat + 2 ^ 32 * a) 0)
    let on := t.lmask v.lmask
    s.setTile u { t with lmasks := t.lmasks.set 0 n ((t.lmask n &&& ~~~on) ||| (m &&& on)), lpoison := addIdx t.lpoison n }
  else if op = 0x33 then
    s.setTile u { t with sregs := t.sregs.set 0 n (tame mode (nth x.w 0 0)), spoison := addIdx t.spoison n }
  else s.writeDest u mode v (dstCount op v.count) k (t.lmask v.lmask) x

/-- A step that goes vector by vector. -/
def State.vector (s : State) (ub op : Nat) (chk : VuCheck) (body : VBody) : Result :=
  s.onFired ub op (fun s f =>
    let u := unitOf ub
    let v := vstepOf f.q.word
    let upTo (s : State) (k : Nat) : State := (List.range k).foldl (fun s i => s.oneVector u op v f body i) s
    s.vectorStep ub op f chk
      { parts := v.count, upTo := upTo, spoil := fun s k => s.spoilDest u op v f.mode k, rest := fun s => upTo s v.count })

/-- The body of an opcode that computes each lane from A and B. -/
def perLane (f : Lanes → Num → Num → W32) : VBody := fun s u v l =>
  let bs := if l.b.v.isEmpty then l.a.v else l.b.v
  let ws := (l.a.v.zip bs).map (fun p => f l p.1 p.2)
  s.writeDest u l.mode v v.count l.i l.mask { w := ws, bad := l.poisoned }

/-! ## The opcodes (R141)

The residue check covers the significand multipliers and adders of the arithmetic operations and the table check the functions' lookups
(R151, R152): a move, a comparison, a maximum, a selection, a permutation, a draw and a seed have no check to fail. -/

def execVmov (ub : Nat) (_chk : VuCheck) (s : State) : Result :=
  s.vector ub 0x20 {} (perLane (fun l a _ => toF32 l.mode a))

def execVadd (ub : Nat) (chk : VuCheck) (s : State) : Result :=
  s.vector ub 0x21 chk (perLane (fun l a b => toF32 l.mode (a.add b)))

def execVsub (ub : Nat) (chk : VuCheck) (s : State) : Result :=
  s.vector ub 0x22 chk (perLane (fun l a b => toF32 l.mode (a.add b.neg)))

def execVmul (ub : Nat) (chk : VuCheck) (s : State) : Result :=
  s.vector ub 0x23 chk (perLane (fun l a b => toF32 l.mode (a.mul b)))

/-- VFMA: D is read before it is written. -/
def execVfma (ub : Nat) (chk : VuCheck) (s : State) : Result :=
  s.vector ub 0x24 chk (fun s u v l =>
    let ws := ((l.a.v.zip l.b.v).zip l.d.v).map (fun p => fma l.mode p.1.1 p.1.2 p.2)
    s.writeDest u l.mode v v.count l.i l.mask { w := ws, bad := l.poisoned })

def execVmax (ub : Nat) (_chk : VuCheck) (s : State) : Result :=
  s.vector ub 0x25 {} (perLane (fun l a b => toF32 l.mode (extremumN l.mode true a b)))

def execVmin (ub : Nat) (_chk : VuCheck) (s : State) : Result :=
  s.vector ub 0x26 {} (perLane (fun l a b => toF32 l.mode (extremumN l.mode false a b)))

/-- VCMP: the lanes of LMn that LMASK sets take the comparison. -/
def execVcmp (ub : Nat) (_chk : VuCheck) (s : State) : Result :=
  s.vector ub 0x27 {} (fun s u v l =>
    let t := s.tile u
    let n := bits v.dst 0 3
    let m := ((l.a.v.zip l.b.v).zipIdx).foldl (fun m p =>
      if laneOn l.mask p.2 then putBit m p.2 (compare (bits l.aux 0 3) p.1.1 p.1.2) else m)
      (t.lmask n)
    s.setTile u { t with lmasks := t.lmasks.set 0 n m,
                         lpoison := putIdx t.lpoison n (l.poisoned || (l.mask != -1 && t.lpoison.contains n)) })

/-- VSEL: every lane is written, A where LMASK is set and B elsewhere. -/
def execVsel (ub : Nat) (_chk : VuCheck) (s : State) : Result :=
  s.vector ub 0x28 {} (fun s u v l =>
    let ws := ((l.a.v.zip l.b.v).zipIdx).map (fun p => toF32 l.mode (if laneOn l.mask p.2 then p.1.1 else p.1.2))
    s.writeDest u l.mode v v.count l.i (-1) { w := ws, bad := l.poisoned })

def execVexp2 (ub : Nat) (chk : VuCheck) (s : State) : Result := s.vector ub 0x29 chk (perLane (fun l a _ => exp2N l.std l.mode a))

def execVlog2 (ub : Nat) (chk : VuCheck) (s : State) : Result := s.vector ub 0x2A chk (perLane (fun l a _ => log2N l.std l.mode a))

def execVrcp (ub : Nat) (chk : VuCheck) (s : State) : Result := s.vector ub 0x2B chk (perLane (fun l a _ => rcpN l.std l.mode a))

def execVrsq (ub : Nat) (chk : VuCheck) (s : State) : Result := s.vector ub 0x2C chk (perLane (fun l a _ => rsqN l.std l.mode a))

/-- VPERM: lane i takes lane j of A, j the value of B's lane i (R141). -/
def execVperm (ub : Nat) (_chk : VuCheck) (s : State) : Result :=
  s.vector ub 0x30 {} (fun s u v l =>
    let ws := l.b.v.map (fun b => match permIndex b with
      | none => 0
      | some j => toF32 l.mode (nth l.a.v j .zero))
    s.writeDest u l.mode v v.count l.i l.mask { w := ws, bad := l.poisoned })

/-- VRAND: a fresh draw in every set lane, before any draw of the conversion. -/
def execVrand (ub : Nat) (_chk : VuCheck) (s : State) : Result :=
  s.vector ub 0x31 {} (fun s u v l =>
    let ws := (List.range 128).map (fun i =>
      toF32 l.mode (.fin (s.peek u i) (if l.aux % 2 = 1 then 0 else -16)))
    let s := (List.range 128).foldl (fun s i => if laneOn l.mask i then s.advance u i else s) s
    s.writeDest u l.mode v v.count l.i l.mask { w := ws, bad := l.poisoned })

/-- VSCL: a scalar register takes one lane of A; a lane that LMASK clears is not computed (R142). -/
def execVscl (ub : Nat) (_chk : VuCheck) (s : State) : Result :=
  s.vector ub 0x33 {} (fun s u v l =>
    let t := s.tile u
    let n := bits v.dst 0 4
    if laneOn l.mask l.aux then
      s.setTile u { t with sregs := t.sregs.set 0 n (toF32 l.mode (nth l.a.v l.aux .zero)),
                           spoison := putIdx t.spoison n l.poisoned }
    else s)

/-! ## Reductions (R146) -/

/-- The set lanes of group `k` of a list of vectors. -/
def groupLanes {α : Type} (vs : List (List α)) (mask : BitVec 128) (size k : Nat) : List α :=
  vs.flatMap (fun v => ((v.zipIdx).filter (fun p => p.2 / size == k && laneOn mask p.2)).map Prod.fst)

/-- Maximum or minimum of a list (R118); of nothing, a free word: the spec states no result. -/
def extremumOf (mode : Byte) (wantMax : Bool) (xs : List Num) (free : Nat) : W32 :=
  match xs with
  | [] => tame mode (Config.freeWord free)
  | x :: r => toF32 mode (r.foldl (fun x y => extremumN mode wantMax x y) x)

/-- The result of a group reduction; of an empty group, a free word. -/
def reduceGroup (mode : Byte) (how : Nat) (xs : List Num) (free : Nat) : W32 :=
  match how with
  | 0 => if xs.isEmpty then tame mode (Config.freeWord free) else orderSum mode 2 xs free
  | 1 => extremumOf mode true xs free
  | _ => extremumOf mode false xs free

/-- All the vectors of a source operand. -/
def State.allOf (s : State) (u : Nat) (mode : Byte) (v : VStep) (x : Nat) : List Opd :=
  (List.range v.count).map (fun i => s.source u mode v x i (s.free + 128 * i))

/-- VRED (R146): every lane of the destination vector is written, whatever LMASK holds (DESIGN CHOICE: R142 keeps clear lanes,
R146 writes the result lanes and +0 elsewhere; the spec does not say which wins). -/
def State.runVred (s : State) (u : Nat) (v : VStep) (mode : Byte) : State :=
  let vs := s.allOf u mode v v.srca
  let mask := (s.tile u).lmask v.lmask
  let size := groupSize (v.aux / 4)
  let base := s.free + 128 * v.count
  let ws := (List.range 128).map (fun k =>
    if k < 128 / size then reduceGroup mode (v.aux % 4) (groupLanes (vs.map (·.v)) mask size k) (base + k) else 0)
  let s := { s with free := base + 128 }
  s.writeDest u mode v 1 0 (-1) { w := ws, bad := vs.any (·.bad) || (s.tile u).lpoison.contains v.lmask }

def execVred (ub : Nat) (chk : VuCheck) (s : State) : Result :=
  s.onFired ub 0x2D (fun s f =>
    let u := unitOf ub
    let v := vstepOf f.q.word
    s.vectorStep ub 0x2D f (if v.aux % 4 = 0 then chk else {})
      { parts := 1, upTo := fun s _ => s,
        spoil := fun s _ => let (s, x) := s.spoil; s.writeDest u f.mode v 1 0 (-1) x,
        rest := fun s => s.runVred u v f.mode })

/-! ## Softmax (R147) -/

/-- 2^(x − y). -/
def expDiff (std : Bool) (mode : Byte) (x y : Num) : W32 := exp2N std mode (x.add y.neg)

def minusInf : Num := .inf true

/-- A group's maximum with its running one (R118, R147). -/
def groupMax (mode : Byte) (m : Num) (xs : List Num) : Num := xs.foldl (fun x y => extremumN mode true x y) m

/-- The running state of group `k` after a VSMX or VCMB: V29, V30 and V31 (R147). -/
def Tile.softState (t : Tile) (k : Nat) (factor m s : W32) : Tile :=
  ((t.setLane 29 k factor).setLane 31 k s).setLane 30 k m

/-- A lane of a register as an operand. -/
def Tile.laneNum (t : Tile) (mode : Byte) (n k : Nat) : Num := readF32 mode (t.lane n k)

/-- Which of V29, V30 and V31 a softmax step leaves poisoned: all, where a result is computed from poison, and those that were. -/
def Tile.softPoison (t : Tile) (bad : Bool) : Tile :=
  { t with vpoison := [29, 30, 31].foldl (fun l n => if bad then addIdx l n else l) t.vpoison }

/-- The running maxima of a VSMX step's groups with its scores; clear lanes count as −Inf (R147). -/
def State.vsmxMaxima (s : State) (u : Nat) (v : VStep) (mode : Byte) : List Num :=
  let size := groupSize (v.aux / 4)
  let first := (s.allOf u mode v v.srca).map (·.v)
  (List.range (128 / size)).map (fun k =>
    groupMax mode ((s.tile u).laneNum mode 30 k)
      (groupLanes first ((s.tile u).lmask v.lmask) size k ++ groupLanes [List.replicate 128 minusInf] (~~~(s.tile u).lmask v.lmask) size k))

/-- Whether V30 or V31, the lane mask or a source makes a softmax step's results poisoned. -/
def Tile.softBad (t : Tile) (v : VStep) : Bool := t.vpoison.contains 30 || t.vpoison.contains 31 || t.lpoison.contains v.lmask

/-- The first `k` vectors of D of a VSMX step, with its second reading of A; a clear lane writes +0 (R147). -/
def State.vsmxWrite (s : State) (u : Nat) (v : VStep) (f : Fired) (ms : List Num) (k : Nat) : State × List (List W32) × Bool :=
  let size := groupSize (v.aux / 4)
  let mask := (s.tile u).lmask v.lmask
  (List.range k).foldl (fun (p : State × List (List W32) × Bool) i =>
    let s := p.1
    let a := s.source u f.mode v v.srca i s.free
    let ws := a.v.zipIdx.map (fun q =>
      if !laneOn mask q.2 then 0 else expDiff (standardSet f.tables) f.mode q.1 (nth ms (q.2 / size) minusInf))
    let s := { s with free := s.free + 128 }
    let bad := a.bad || (s.tile u).softBad v
    (s.writeDest u f.mode v v.count i (-1) { w := ws, bad := bad }, p.2.1 ++ [ws], p.2.2 || bad)) (s, [], false)

/-- V29, V30 and V31 after a VSMX (R147): a maximum of −Inf keeps a sum of zero and gives the factor 1. -/
def State.vsmxState (s : State) (u : Nat) (v : VStep) (f : Fired) (ms : List Num) (ds : List (List W32)) (bad : Bool) : State :=
  let mode := f.mode
  let size := groupSize (v.aux / 4)
  let groups := 128 / size
  let mask := (s.tile u).lmask v.lmask
  let t := (List.range groups).foldl (fun t k =>
    let m := nth ms k minusInf
    let m0 := (s.tile u).laneNum mode 30 k
    let s0 := (s.tile u).laneNum mode 31 k
    if m = minusInf then t.softState k 0x3F800000 (toF32 mode m) 0
    else
      let factor := expDiff (standardSet f.tables) mode m0 m
      let terms := s0.mul (readF32 mode factor) :: (groupLanes ds mask size k).map (readF32 mode)
      t.softState k factor (toF32 mode m) (orderSum mode 1 terms (s.free + k))) (s.tile u)
  { s.setTile u (t.softPoison bad) with free := s.free + groups }

/-- Poisoned free words in place of V29, V30 and V31. -/
def State.softSpoil (s : State) (u : Nat) : State :=
  [29, 30, 31].foldl (fun (s : State) n =>
    let (s, x) := s.spoil
    s.setTile u ((s.tile u).setVreg n (-1) x)) s

/-- VSMX (R147): A is read for the maxima, then again for D; then the running state. -/
def execVsmx (ub : Nat) (chk : VuCheck) (s : State) : Result :=
  s.onFired ub 0x2E (fun s f =>
    let u := unitOf ub
    let v := vstepOf f.q.word
    let ms (s : State) : List Num := s.vsmxMaxima u v f.mode
    let begun (s : State) : State := { s with free := s.free + 128 * v.count }
    s.vectorStep ub 0x2E f chk
      { parts := v.count + 1, upTo := fun s k => ((begun s).vsmxWrite u v f (ms s) k).1,
        spoil := fun s k => if k = v.count then s.softSpoil u
          else let (s, x) := s.spoil; s.writeDest u f.mode v v.count k (-1) x,
        rest := fun s =>
          let (s', ds, bad) := (begun s).vsmxWrite u v f (ms s) v.count
          s'.vsmxState u v f (ms s) ds bad })

/-- VCMB (R147): one lane a group; clear lanes write +0, and set lanes past the groups are not written (DESIGN CHOICE: they hold
no group). -/
def State.runVcmb (s : State) (u : Nat) (v : VStep) (f : Fired) : State :=
  let mode := f.mode
  let groups := 128 / groupSize (v.aux / 4)
  let mask := (s.tile u).lmask v.lmask
  let a := s.source u mode v v.srca 0 s.free
  let b := s.source u mode v v.srcb 0 (s.free + 128)
  let base := s.free + 256
  let t := s.tile u
  let std := standardSet f.tables
  let one (k : Nat) : W32 × W32 × W32 × W32 :=
    let m := t.laneNum mode 30 k
    let mo := if laneOn mask k then nth a.v k minusInf else minusInf
    let so := if laneOn mask k then nth b.v k .zero else .zero
    let m' := extremumN mode true m mo
    let d := if laneOn mask k then expDiff std mode mo m' else 0
    if m' = minusInf then (d, 0x3F800000, toF32 mode m', 0)
    else
      let f := expDiff std mode m m'
      (d, f, toF32 mode m', orderSum mode 1 [(t.laneNum mode 31 k).mul (readF32 mode f), so.mul (readF32 mode d)] (base + k))
  let rs := (List.range groups).map one
  let s := { s with free := base + 128 }
  let live : BitVec 128 := BitVec.ofNat 128 (2 ^ groups - 1)
  let bad := a.bad || b.bad || t.softBad v
  let s := s.writeDest u mode v 1 0 (live ||| ~~~mask) { w := fit 0 128 (rs.map (·.1)), bad := bad }
  s.setTile u ((rs.zipIdx.foldl (fun t p => t.softState p.2 p.1.2.1 p.1.2.2.1 p.1.2.2.2) (s.tile u)).softPoison bad)

def execVcmb (ub : Nat) (chk : VuCheck) (s : State) : Result :=
  s.onFired ub 0x2F (fun s f =>
    let u := unitOf ub
    let v := vstepOf f.q.word
    s.vectorStep ub 0x2F f chk
      { parts := 1, upTo := fun s _ => s,
        spoil := fun s _ => let (s, x) := s.spoil; (s.writeDest u f.mode v 1 0 (-1) x).softSpoil u,
        rest := fun s => s.runVcmb u v f })

/-! ## Seeding (R150) -/

/-- The first eight bytes of a source, as they stand. -/
def State.seedOf (s : State) (u : Nat) (v : VStep) : W64 :=
  let t := s.tile u
  let two (a b : W32) : W64 := BitVec.ofNat 64 (a.toNat + 2 ^ 32 * b.toNat)
  match vop v.srca with
  | .reg n _ => two (t.lane n 0) (t.lane n 1)
  | .store l => BitVec.ofNat 64 (ofLe (s.tsRead u (64 * l) 8))
  | .acc b a f _ => two (nth (t.accRow a b (2 * f)) 0 0) (nth (t.accRow a b (2 * f)) 1 0)
  | .scalar n => two (t.sreg n) (t.sreg n)

/-- Whether the seed comes from a poisoned place (R133). -/
def State.seedBad (s : State) (u : Nat) (v : VStep) : Bool :=
  match vop v.srca with
  | .reg n _ => (s.tile u).vpoison.contains n
  | .store l => s.tsBad u (64 * l) 8
  | .acc .. => false
  | .scalar n => (s.tile u).spoison.contains n

/-- VSEED seeds every lane generator; a poisoned seed poisons them (R133). -/
def execVseed (ub : Nat) (_chk : VuCheck) (s : State) : Result :=
  s.onFired ub 0x32 (fun s f =>
    let u := unitOf ub
    let v := vstepOf f.q.word
    let seeded (s : State) (bad : Bool) (seed : W64) : State :=
      s.setTile u { s.tile u with gens := Map.setAll [] 0 0 ((List.range 128).map (seedLane seed)), gpoison := bad }
    s.vectorStep ub 0x32 f {}
      { parts := 1, upTo := fun s _ => s, spoil := fun s _ => s,
        rest := fun s => seeded s (s.seedBad u v) (s.seedOf u v) })

end Sys2Proof.Machine
end

