-- ==== Sys2Proof/Machine/Transform.lean ====
section
/-! DEFINITION. The arithmetic of the memory-side clusters (R203, R214, R221–R224, R226, R228): which cluster serves a
pseudo-channel, conversions with the cluster's generators and counters, additions into memory, and the residue check. -/

namespace Sys2Proof.Machine

/-- The cluster, 8 × stack + c, that serves a pseudo-channel; its neighbour once it is RETIRED (R232, R306). -/
def State.clusterFor (s : State) (stack p : Nat) : Nat :=
  if (s.hl (3328 + (8 * stack + p / 8))).st == .retired then 8 * stack + (p / 8 ^^^ 1) else 8 * stack + p / 8

/-- The generator bank of a cluster: after the tiles' 512. -/
def clusterBank (g : Nat) : Nat := 512 + g

/-- One element converted to format `f` by a cluster: element `x.1` of its piece draws from lane x.1 mod 64 (R228). -/
def Cluster.convertOne (c : Cluster) (era g : Nat) (mode : Byte) (f : Elem) (x : Nat × Num) : Cluster × Nat :=
  let lane := x.1 % 64
  let next := xorshift (genState c.gens era (clusterBank g) lane)
  let r := convert mode f x.2 (drawOf next)
  let c := c.addEvents r.events
  (if r.drew then { c with gens := c.gens.set 0 lane next } else c, r.code)

/-- Elements converted one after another. -/
def Cluster.convertAll (c : Cluster) (era g : Nat) (mode : Byte) (f : Elem) (xs : List (Nat × Num)) : Cluster × List Nat :=
  match xs with
  | [] => (c, [])
  | x :: r =>
    let (c, k) := c.convertOne era g mode f x
    let (c, ks) := c.convertAll era g mode f r
    (c, k :: ks)

/-- Elements converted by cluster `g`. -/
def State.clusterConvert (s : State) (g : Nat) (mode : Byte) (fmt : Nat) (xs : List (Nat × Num)) : State × List Nat :=
  let (c, ks) := (s.cluster g).convertAll s.era g mode (elem fmt) xs
  (s.setCluster g c, ks)

/-- Bytes of one format converted to another, from element `k` of their piece on (R222, R228). -/
def State.convertBytes (s : State) (g : Nat) (mode : Byte) (src dst k : Nat) (l : List Byte) : State × List Byte :=
  let xs := (unpack src l).zipIdx.map (fun p => (k + p.2, readElem mode (elem src) p.1))
  let (s, ks) := s.clusterConvert g mode dst xs
  (s, pack dst ks)

/-- A word of a sum in FP32 (R214). -/
def sumWord (mode : Byte) (x y : Num) : W32 := toF32 mode (x.add y)

/-- Elements added to what memory holds, in FP32; a BF16 element goes back through the conversion of R110 (R214). They
are the elements of their piece from element `k` on. -/
def State.addBytes (s : State) (g : Nat) (mode : Byte) (fmt k : Nat) (old new : List Byte) : State × List Byte :=
  let xs := unpack fmt old
  let ys := unpack fmt new
  if fmt = 0x1C then
    (s, pack fmt ((xs.zip ys).map (fun p => (sumWord mode (readElem mode fp32 p.1) (readElem mode fp32 p.2)).toNat)))
  else
    let sums := (xs.zip ys).zipIdx.map (fun p =>
      (k + p.2, readF32 mode (sumWord mode (readElem mode (elem fmt) p.1.1) (readElem mode (elem fmt) p.1.2))))
    let (s, ks) := s.clusterConvert g mode fmt sums
    (s, pack fmt ks)

/-- What a mismatch of a cluster's residue leaves (R226): a corrected piece, or a failed one; either is a health event.
A transform's failure is no stop, so its record has severity HEALTH (R516). -/
def State.clusterCheck (s : State) (g : Nat) (chk : Check) : State :=
  let count (s : State) : State :=
    s.setCluster g { s.cluster g with residues := satAdd 32 (s.cluster g).residues 1 }
  match chk with
  | .passed => s
  | .corrected => ((count s).raise (recOf cMseCorrected 5 g)).healthEvent 5 g
  | .failed => ((count s).raise { recOf cMseCheck 5 g with sev := 2 }).healthEvent 5 g

/-! ## The transform of one request (R222–R224) -/

/-- Whether a request carries a transform. -/
def xfOn (x : XForm) : Bool := match x with | .none => false | _ => true

/-- The first element of 64-byte piece `j` of a block in a format. -/
def firstElem (fmt : BitVec 5) (j : Nat) : Nat := 512 / elemBits fmt.toNat * j

/-- Memory piece `j` of a block as a READ answers it. -/
def State.pieceOut (s : State) (g : Nat) (x : XForm) (j : Nat) (l : List Byte) : State × List Byte :=
  match x with
  | .convert fmt mfmt mode => s.convertBytes g mode mfmt.toNat fmt.toNat (firstElem mfmt j) l
  | _ => (s, l)

/-- Bytes of the initiator's format that a memory piece carries. -/
def xfWidth (x : XForm) : Nat :=
  match x with
  | .convert fmt mfmt _ => 64 * elemBits fmt.toNat / elemBits mfmt.toNat
  | _ => 64

/-- What write piece `j` of a block stores over `old`. -/
def State.pieceIn (s : State) (g : Nat) (x : XForm) (j : Nat) (old new : List Byte) : State × List Byte :=
  match x with
  | .convert fmt mfmt mode => s.convertBytes g mode fmt.toNat mfmt.toNat (firstElem mfmt j) new
  | .scatterAdd fmt mode => s.addBytes g mode fmt.toNat (firstElem fmt j) old new
  | .none => (s, new)

end Sys2Proof.Machine
end

