-- ==== Sys2Proof/Machine/Hbm.lean ====
section
/-! DEFINITION. HBM controllers (R231–R261): queues and the choice of the next request, page policy and row
disturbance, error correction and poison, freezing, retirement to the refuge, refresh, and training. -/

namespace Sys2Proof.Machine

/-! ## Acceptance (R233–R235, R246, R251) -/

/-- Whether a request finds no entry: its queue is full, or a throttled initiator has four in it (R235, R246). -/
def Pc.full (v : Pc) (r : Req) : Bool :=
  v.fullFor (isRead r.kind) r.init

/-- A pseudo-channel with a request accepted; the write queue reaching 48 enters DRAIN mode (R238). -/
def Pc.enqueue (v : Pc) (r : Req) : Pc :=
  let x : Queued := { req := r, order := v.accepted, promoted := false }
  if isRead r.kind then { v with reads := v.reads ++ [x], accepted := v.accepted + 1 }
  else
    let w := v.writes ++ [x]
    { v with writes := w, accepted := v.accepted + 1, drain := v.drain || 48 ≤ w.length }

/-- Whether a packet is a request of the same source to the same pseudo-channel as `r` (R240), or of the same initiator to the same port
on the same virtual channel, reads and scrubs on the narrow network, writes and adds on the wide one (R263, R266, R269). -/
def State.sameSource (s : State) (r : Req) (p : Packet) : Bool :=
  let pc (x : Req) : Nat := s.servingPc x.stack x.block
  match p with
  | .req x => x.init == r.init && x.stack == r.stack
      && ((x.sub == r.sub && pc x == pc r) || (isRead x.kind == isRead r.kind && pc x / 16 == pc r / 16))
  | _ => false

/-- A request reaches its controller; one that an earlier request of its source to the pseudo-channel is still ahead of does not
arrive yet (R240). A port of an absent stack answers "unit absent", with a record (R16, R264, R279); write data whose flit failed its CRC are poisoned (R274). -/
def State.acceptReq (s : State) (r : Req) : State :=
  if s.overtakes (s.sameSource r) (.req r) then s
  else
  let s := s.takeReq r
  if !s.stackOn r.stack then (s.send (ackReq r .absent)).raise (recOf cUnitAbsent 4 r.stack)
  else if 0 < (s.stk r.stack).accepted && inRefuge r.block then s.send (ackReq r .permission)
  else
    let p := (s.homeOf r.stack r.block).1
    let v := s.pc r.stack p
    match v.st with
    | .training => s.send (ackReq r .retry)
    | .frozen => s.send (ackReq r .pcFrozen)
    | .evacuating => s.send (ackReq r .pcFrozen)
    | _ => if v.full r || s.resetting 2 (64 * r.stack + p) then s.send (ackReq r .retry) else s.setPc r.stack p (v.enqueue r)

def execRdReq (r : Req) (s : State) : Result := if isRead r.kind then .next (s.acceptReq r) else .next s
def execWrReq (r : Req) (s : State) : Result := if r.kind = .write then .next (s.acceptReq r) else .next s
def execAddReq (r : Req) (s : State) : Result := if r.kind = .add then .next (s.acceptReq r) else .next s

/-! ## The choice of a request (R236–R238, R240, R242, R246) -/

/-- The eligible requests of a pseudo-channel; `ready` says which banks are. -/
def State.eligible (s : State) (stack p : Nat) (ready : BitVec 64) : List Queued :=
  let v := s.pc stack p
  if v.st != .serving || 8 ≤ v.owed then [] else v.free ready (v.reads ++ v.writes)

/-- The request the controller issues next (R237). -/
def State.pickReq (s : State) (stack p : Nat) (ready : BitVec 64) : Option Queued := s.pickFrom stack p (s.eligible stack p ready)

/-! ## Performing a request (R172, R214, R233, R241, R250) -/

/-- Whether a write's acknowledgement waits: its range is mirrored and the 64 MiB mirror queue is full (R468). -/
def State.mirrorFull (s : State) (stack off : Nat) : Bool :=
  s.mirrors && (s.mirrorOf (s.address stack off)).isSome && 2 ^ 20 ≤ s.partner.queue.length

/-- Acknowledges a write, or holds the acknowledgement. -/
def State.ackWrite (s : State) (r : Req) (st : AckStatus) : State :=
  if s.mirrorFull r.stack r.block then
    { s with partner := { s.partner with held := s.partner.held ++
      [{ init := r.init, sub := r.sub, seq := r.seq, epoch := r.epoch, stack := r.stack, block := r.block, status := st }] } }
  else s.send (ackReq r st)

/-- The pieces a request concerns. -/
def piecesOf (r : Req) : List Nat := onesOf r.mask.toNat 4

/-- A READ's answer: every piece of its mask, through the transform it carries. -/
def State.doRead (s : State) (g : Nat) (r : Req) (chk : Check) : State :=
  let w := xfWidth r.xform
  let (s, data) := (piecesOf r).foldl (fun (a : State × List Byte) j =>
    let (s, l) := a.1.pieceOut g r.xform j (a.1.hbmRead r.stack (r.block + 64 * j) 64)
    (s, overlay a.2 (w * j) l)) (s, zeros (4 * w))
  let bads := if xfOn r.xform && chk == .failed then 15
    else (piecesOf r).foldl (fun (m : BitVec 4) j => putBit m j (s.hbmBad r.stack (r.block + 64 * j))) 0
  s.send (.resp { init := r.init, sub := r.sub, seq := r.seq, stack := r.stack, block := r.block, mask := r.mask,
                  epoch := r.epoch, vstate := if bads = 0 then 0 else 2, data := data, bads := if bads = 0 then 15 else bads })

/-- One piece of a WRITE or ADD. A poisoned line that an ADD reads stays as it is; a partial write stores its bytes only. -/
def State.doPiece (s : State) (g : Nat) (r : Req) (failed : Bool) (j : Nat) : State :=
  let o := r.block + 64 * j
  let w := xfWidth r.xform
  let new := (r.data.drop (w * j)).take w
  if r.kind = .add && s.hbmBad r.stack o then s
  else
    let (s, l) := s.pieceIn g r.xform j (s.hbmRead r.stack o 64) new
    let lo := max r.first (64 * j) - 64 * j
    let hi := min (r.last + 1) (64 * j + 64) - 64 * j
    s.storeLine r.stack (o + lo) ((l.drop lo).take (hi - lo)) (r.poisoned || failed)

/-- The lines a request reads, checked by the code: every piece of a READ, an ADD and a SCRUB, and the pieces that a WRITE covers
only in part (R233). -/
def checkedLines (r : Req) : List Nat :=
  let cut (j : Nat) : Bool := 64 * j < r.first && r.first < 64 * j + 64 || 64 * j ≤ r.last && r.last < 64 * j + 63
  ((piecesOf r).filter (fun j => r.kind != .write || cut j)).map (fun j => r.block + 64 * j)

/-- A WRITE or ADD, and its acknowledgement; a failed transform leaves its pieces poisoned (R226). -/
def State.doWrite (s : State) (stack p g : Nat) (r : Req) (chk : Check) : State :=
  let failed := xfOn r.xform && chk == .failed
  let s := (piecesOf r).foldl (fun s j => s.doPiece g r failed j) s
  (s.noteWrite stack p (snapOf r)).ackWrite r (if failed then .poisoned else .ok)

/-- Takes a request out of its queue as its last column command is issued; a write queue at 16 ends DRAIN mode. -/
def Pc.dequeue (v : Pc) (q : Queued) : Pc :=
  if isRead q.req.kind then { v with reads := dropFirst v.reads q }
  else
    let w := dropFirst v.writes q
    { v with writes := w, drain := v.drain && 16 < w.length }

/-- The bank of a request is accessed, and the lines it reads pass the code; false where one froze the pseudo-channel. -/
def State.checkedFor (s : State) (stack p : Nat) (q : Queued) (found : Ecc) : State × Bool :=
  let r := q.req
  (s.access stack p (dbankOf r.block) (s.homeOf stack r.block).2 r.init).readChecks stack p (checkedLines r) found (some (snapOf r))

/-- A line that a SCRUB has read and corrected is written back. -/
def State.scrubbed (s : State) (stack off : Nat) : State :=
  if s.hfixed.contains (hbmLine stack off) then s.fixLine stack off else s

/-- Performs a request: its bank is accessed, what it reads is checked (`found` is what the interface adds to the first line), and
it is answered. A SCRUB writes back the pieces it has corrected. -/
def State.performReq (s : State) (stack p : Nat) (q : Queued) (found : Ecc) (chk : Check) : State :=
  let r := q.req
  let (s, ok) := s.checkedFor stack p q found
  if !ok then s
  else
    let s := s.setPc stack p ((s.pc stack p).dequeue q)
    let g := s.clusterFor stack p
    let s := if xfOn r.xform then s.clusterCheck g chk else s
    let n := 64 * (piecesOf r).length
    let s := s.moved stack (if isRead r.kind then n else 0) (if isRead r.kind then 0 else n)
    match r.kind with
    | .read => s.doRead g r chk
    | .scrub => ((checkedLines r).foldl (fun s o => s.scrubbed stack o) s).send (ackReq r .ok)
    | _ => s.doWrite stack p g r chk

def execRequestIssue (stack pc : Nat) (ready : BitVec 64) (found : Ecc) (chk : Check) (s : State) : Result :=
  if !s.stackRuns stack || 64 ≤ pc then .next s
  else match s.pickReq stack pc ready with
    | some q =>
    if xfOn q.req.xform && s.otherDue 5 (s.clusterFor stack pc) then .next s else .next (s.performReq stack pc q found chk)
    | none =>
      if (s.pc stack pc).st = .serving && (s.pc stack pc).owed < 8 then .next (s.writeBack stack pc found) else .next s

/-- A request older than the age limit becomes class 0 (R236). -/
def execAgePromotion (stack pc : Nat) (init : BitVec 12) (seq : W32) (s : State) : Result :=
  let mine (q : Queued) : Bool := q.req.init == init && q.req.seq == seq && !q.promoted
  let up (q : Queued) : Queued := { q with promoted := true }
  if !s.stackRuns stack || 64 ≤ pc then .next s
  else
    let v := s.pc stack pc
    if v.reads.any mine then .next (s.setPc stack pc { v with reads := modFirst mine up v.reads })
    else .next (s.setPc stack pc { v with writes := modFirst mine up v.writes })

/-- An open row with no pending access is closed (R239). -/
def execRowClose (stack pc bank : Nat) (s : State) : Result :=
  if !s.stackRuns stack || 64 ≤ pc || 64 ≤ bank then .next s
  else
    let v := s.pc stack pc
    let wanted := (v.reads ++ v.writes).any (fun q => dbankOf q.req.block == bank && s.rowHit stack pc q)
    if wanted then .next s
    else .next (s.setPc stack pc { v with banks := v.banks.set {} bank { v.banks.get {} bank with openRow := none } })

/-! ## Refresh (R242, R243, R247) -/

/-- A per-bank refresh falls due and is postponed, while at most eight are owed; where it cannot be, it is performed and what is
owed stays. Without `postpone` a refresh goes ahead: an owed one where there is one (R242, R243; a due one that is performed while
some are owed is a postponed one and an owed one). -/
def execRefresh (stack pc bank : Nat) (postpone : Bool) (s : State) : Result :=
  if !s.stackRuns stack || 64 ≤ pc || 64 ≤ bank then .next s
  else
    let v := s.pc stack pc
    if postpone && v.owed < 8 && !v.firstWindow then .next (s.setPc stack pc { v with owed := v.owed + 1 })
    else .next (s.setPc stack pc { v with
      owed := if postpone then v.owed else v.owed - 1, banks := v.banks.set {} bank { v.banks.get {} bank with openRow := none } })

/-- Whether a stack refreshes at double rate: a die has been hot, or a pseudo-channel is in its first window. -/
def State.doubleRate (s : State) (stack : Nat) : Bool :=
  (s.stk stack).doubled || (List.range 64).any (fun p =>
    let v := s.pc stack p
    v.st != .retired && v.st != .training && v.firstWindow)

/-- Logs the entry or exit of the double rate where it changed. -/
def State.rateRecord (s : State) (stack : Nat) (before : Bool) : State :=
  if s.doubleRate stack = before then s
  else s.raise { recOf cRefreshDoubled 4 stack with detail := flag (s.doubleRate stack) }

/-- The end of a bank's refresh window: its counts are halved, and the first window after training is over. -/
def execRefreshWindowEnd (stack pc bank : Nat) (s : State) : Result :=
  if !s.stackRuns stack || 64 ≤ pc || 64 ≤ bank then .next s
  else
    let before := s.doubleRate stack
    let v := s.pc stack pc
    let b := v.banks.get {} bank
    let hot := (List.range 32).foldl (fun m i => let h := Map.get m {} i; Map.set m {} i { h with count := h.count / 2 }) b.hot
    let s := s.setPc stack pc { v with firstWindow := false, banks := v.banks.set {} bank { b with hot := hot } }
    .next (s.rateRecord stack before)

def execThrottleCooldown (stack pc : Nat) (init : BitVec 12) (s : State) : Result :=
  if !s.stackRuns stack || 64 ≤ pc then .next s
  else .next (s.setPc stack pc { s.pc stack pc with throttled := dropFirst (s.pc stack pc).throttled init })

/-- The steward reads every DRAM die (R231, R242, R260); temperatures are in 1/16 °C. -/
def execDramTempRead (stack : Nat) (dies : List Int) (s : State) : Result :=
  if !s.stackRuns stack then .next s
  else
    let before := s.doubleRate stack
    let v := s.stk stack
    let doubled := dies.any (fun t => 16 * 85 ≤ t) || (v.doubled && dies.any (fun t => 16 * 80 ≤ t))
    let top := dies.foldl max (dies.headD 0)
    let s := s.setStk stack { v with dies := dies, doubled := doubled }
    let temps := dies.zipIdx.foldl (fun (m : Map Int) (x : Int × Nat) => m.set 0 (1024 + 16 * stack + x.2) x.1) s.gov.temps
    let s := { s with gov := { s.gov with temps := temps } }.endTrip
    let s := (List.range 64).foldl (fun s p => s.setPc stack p { s.pc stack p with curTemp := top }) s
    .next (s.rateRecord stack before)

/-! ## The scrubber and parity alerts (R249, R252) -/

/-- The controller's scrubber reads a line at class 3, once no queued request goes before it; a corrected line is written back as any
other is, and an error that cannot be corrected freezes the pseudo-channel with the scrub as the failing command (R252). -/
def execHbmScrub (stack : Nat) (line : Nat) (found : Ecc) (s : State) : Result :=
  let off := 64 * line
  if !s.stackRuns stack || 2 ^ 30 ≤ line then .next s
  else
    let p := s.servingPc stack off
    if (s.pc stack p).st != .serving || s.keepsWaiting (0x3A0 + stack) stack off 3 false then .next s
    else .next (((s.reach (0x3A0 + stack) stack off 64).moved stack 64 0).readCheck stack p off found
      (some (snapAt (0x3A0 + stack) off .scrub))).1

/-- An uncorrectable error met by an evacuation poisons the line concerned, which the completion counts and the snapshot lists (R254,
R258). -/
def State.evacuationError (s : State) (stack p off : Nat) : State :=
  if inRefuge off || 2 ^ 36 ≤ off then s
  else
    let s := s.hbmPoison stack (off / 64 * 64) true
    s.setPc stack p { s.pc stack p with listed := addIdx (s.pc stack p).listed (off / 64 * 64) }

/-- The address of a command whose parity the DRAM reports. On a pseudo-channel that is being evacuated the alert poisons the line
concerned and stops nothing (R258). -/
def execParityAlert (stack pc : Nat) (offset : Nat) (s : State) : Result :=
  if !s.stackRuns stack || 64 ≤ pc then .next s
  else match (s.pc stack pc).st with
    | .serving => .next (s.freeze stack pc 2 offset 0)
    | .retraining => .next (s.freeze stack pc 2 offset 0)
    | .evacuating => .next (s.evacuationError stack pc offset)
    | _ => .next s

/-! ## UNFREEZE and retirement (R253–R258) -/

/-- Whether an address of an address space is no longer behind a frozen pseudo-channel. -/
def State.nowServed (s : State) (asid va : Nat) : Bool :=
  match (s.walk 0 asid va).2 with
  | .leaf pte big => match s.leafPlace pte big va false with
    | .hbm m o => s.avail m o == .ok
    | _ => true
  | .bad c => c != causePcFrozen
  | .later => false

/-- Fetches that wait for a frozen pseudo-channel resume where their address is served again (R60, R161). -/
def State.thaw (s : State) : State :=
  s.releaseWaits (fun asid cause va => cause == causePcFrozen && s.nowServed asid va)

/-- The lines of the blocks that writes in the snapshot's alert window addressed. -/
def Pc.windowLines (v : Pc) : List Nat :=
  v.snapWindow.foldl (fun l x => [0, 64, 128, 192].foldl (fun l k => addIdx l (x.offset / 256 * 256 + k)) l) []

/-- Poisons lines of a stack and lists them in the snapshot. -/
def State.poisonLines (s : State) (stack p : Nat) (offs : List Nat) : State :=
  let s := offs.foldl (fun s o => s.hbmPoison stack o true) s
  s.setPc stack p { s.pc stack p with listed := offs, poisoned := offs.length }

/-- Whether a pseudo-channel of a stack is accepted for retirement. -/
def State.acceptedPc (s : State) (stack p : Nat) : Bool := (s.stk stack).retires.contains p

def execUnfreeze (h : Issuer) (stack : BitVec 4) (pc : BitVec 6) (s : State) : Result :=
  s.command h (fun s =>
    let n := stack.toNat
    let p := pc.toNat
    let v := s.pc n p
    if s.isVf h.chan then s.answer h 0x0B stDenied
    else if !s.stackOn n then s.answer h 0x0B stRange
    else if v.st != .frozen then s.answer h 0x0B stNotFrozen
    else if s.acceptedPc n p then s.answer h 0x0B stBusy
    else
      let lines := if v.cause = 1 then [v.failOffset / 64 * 64] else if v.cause = 2 then v.windowLines else []
      let s := s.poisonLines n p lines
      let s := s.setPc n p { s.pc n p with st := .serving }
      s.thaw.answer h 0x0B stOk)

/-- Whether an evacuation of a stack is running. -/
def State.evacuates (s : State) (stack : Nat) : Option Nat :=
  (List.range 64).find? (fun p => (s.pc stack p).st == .evacuating)

/-- The pseudo-channels an evacuation of `p` deals rows to, in cyclic order after `p` (R256). -/
def State.dealTo (s : State) (stack p : Nat) : List Nat :=
  ((List.range 63).map (fun i => (p + 1 + i) % 64)).filter (fun q => !s.acceptedPc stack q)

/-- The next accepted pseudo-channel whose turn it is starts its evacuation, with the pseudo-channels that receive its rows (R256). -/
def State.nextEvacuation (s : State) (stack : Nat) : State :=
  if (s.evacuates stack).isSome then s
  else match (s.stk stack).retires.find? (fun p => (s.pc stack p).st == .frozen) with
    | none => s
    | some p => s.setPc stack p { s.pc stack p with st := .evacuating, receivers := s.dealTo stack p, cuts := [], listed := [] }

/-- A pseudo-channel accepted for retirement receives no further rows of the evacuation that runs; how far that has come in each bank
is free (R256, R258). -/
def State.cutReceiver (s : State) (stack q : Nat) : State :=
  match s.evacuates stack with
  | none => s
  | some p =>
    let v := s.pc stack p
    { s with free := s.free + 64 }.setPc stack p { v with cuts := v.cuts ++ [(s.free, q)] }

def execRetirePc (h : Issuer) (stack : BitVec 4) (pc : BitVec 6) (s : State) : Result :=
  s.command h (fun s =>
    let n := stack.toNat
    let p := pc.toNat
    let v := s.pc n p
    let k := s.stk n
    if s.isVf h.chan then s.answer h 0x0C stDenied
    else if !s.stackOn n then s.answer h 0x0C stRange
    else if s.acceptedPc n p && v.st != .retired then s.answer h 0x0C stBusy
    else if v.st != .frozen then s.answer h 0x0C stNotFrozen
    else if 3 ≤ k.accepted then s.answer h 0x0C stNoRefuge
    else
      let s := s.setStk n { k with retires := k.retires ++ [p], accepted := k.accepted + 1 }
      let s := s.setPc n p { v with retiring := some h, retireNo := some k.accepted }
      (s.cutReceiver n p).nextEvacuation n)

/-- The offsets of the data of pseudo-channel `p` whose cells hold an error, of one symbol or of more as `many` says (R248, R254): the
refuge holds no data. -/
def State.errorLines (s : State) (stack p : Nat) (many : Bool) : List Nat :=
  ((s.herr.filter (fun x => x.1 / 2 ^ 30 == stack && (2 ≤ x.2.length) == many)).map (fun x => 64 * x.1 % 2 ^ 36)).filter
    (fun o => !inRefuge o && s.servingPc stack o == p)

/-- The lines that an evacuation cannot read: those whose cells hold the error, those whose reading finds it (`unreadable`), and those
that an alert has concerned meanwhile; of a pseudo-channel frozen by a parity alert, also the blocks of its window (R254, R258). -/
def State.evacuationLost (s : State) (stack p : Nat) (unreadable : List Nat) : List Nat :=
  let v := s.pc stack p
  let found := (unreadable.filter (fun o => !inRefuge o && s.servingPc stack o == p)) ++ s.errorLines stack p true
  (found.map (fun o => o / 64 * 64) ++ (if v.cause = 2 then v.windowLines else [])).foldl addIdx v.listed

/-- A bank row of 1 KiB is copied: four blocks read from pseudo-channel `p` and written to their place in the refuge (R239, R244,
R254). -/
def State.copyRow (s : State) (stack p bank row : Nat) : State :=
  let init := BitVec.ofNat 12 (0x3A0 + stack)
  let (q, to') := s.servedAt stack bank 4 p row
  (List.range 4).foldl (fun s _ => (s.access stack p bank row init).access stack q bank to' init) s

/-- The refuge rows of a bank of pseudo-channel `p` that its retirement relocates, ascending (R256). -/
def State.refugeRows (s : State) (stack bank p : Nat) : List Nat :=
  let k := (s.pc stack p).retireNo.getD 0
  (List.range k).flatMap (fun b => (List.range (s.bandRows stack bank p b)).map (fun i => 15360 + 256 * b + i))
    ++ (List.range (s.bandThree stack bank p k)).map (fun i => 15360 + 768 + i)

/-- The copying of a pseudo-channel's rows to the refuge, bank by bank, first those it holds for others (R254, R256): every row is
accessed, and the traffic is the controller's own (R276, R277, R512). -/
def State.copyRows (s : State) (stack p : Nat) : State :=
  (List.range 64).foldl (fun s bank =>
    let rows := s.refugeRows stack bank p ++ List.range 15360
    let n := 4 * rows.length
    ((rows.foldl (fun s row => s.copyRow stack p bank row) s).tally (0x3A0 + stack) (2 * n) (512 * n)).moved stack (256 * n) (256 * n)) s

/-- The evacuation of a stack ends, unless a receiver is frozen; a line that cannot be read is poisoned, and one with a single-symbol
error is copied corrected and counted (R249, R254). The contents of HBM stay at their offsets, from wherever they are served. -/
def execEvacuation (stack : Nat) (unreadable : List Nat) (s : State) : Result :=
  match s.evacuates stack with
  | none => .next s
  | some p =>
    if !s.stackRuns stack || (s.dealTo stack p).any (fun q => (s.pc stack q).st == .frozen) then .next s
    else
      let lines := s.evacuationLost stack p unreadable
      let s := (s.errorLines stack p false).foldl (fun s o => (s.hbmCorrected stack p o).lineFixed (hbmLine stack o)) s
      let s := s.poisonLines stack p lines
      let v := s.pc stack p
      let s := (s.setPc stack p { v with st := .retired, retiring := none }).copyRows stack p
      let s := s.setHealth 6 (64 * stack + p) .retired
      let s := s.raise { recPc cPcRetired stack p with detail := lines.length }
      let s := match v.retiring with
        | none => s
        | some h => s.complete h 0x0C stOk (BitVec.ofNat 128 lines.length)
      .next ((s.nextEvacuation stack).thaw)

/-! ## Training (R259, R260) -/

/-- The steward's helpers of a pseudo-channel (R259). -/
inductive Helper where
  | pattern | readVref | writeVref | timing | readDeskew (bit : Nat) | writeDeskew (bit : Nat) | errors (bit : Nat)
deriving DecidableEq, Repr

/-- What the last training of a pseudo-channel set a helper to, or left in it. -/
def Pc.setting (v : Pc) (h : Helper) : W32 :=
  Config.trainingSetting v.trained (match h with
    | .pattern => 0
    | .readVref => 1
    | .writeVref => 2
    | .timing => 3
    | .readDeskew b => 4 + 3 * b
    | .writeDeskew b => 5 + 3 * b
    | .errors b => 6 + 3 * b)

/-- The patterns of the generator (R259). -/
inductive Pattern where
  | prbs7 | prbs15 | prbs31 | walkingOne | walkingZero
deriving DecidableEq, Repr

/-- The pattern that a pseudo-channel's generator gives. -/
def Pc.pattern (v : Pc) : Pattern :=
  match (v.setting .pattern).toNat % 5 with
  | 0 => .prbs7
  | 1 => .prbs15
  | 2 => .prbs31
  | 3 => .walkingOne
  | _ => .walkingZero

/-- A pseudo-channel is trained: its helpers are set. -/
def State.trainPc (s : State) (stack p : Nat) : State :=
  let (s, i) := s.draw
  s.setPc stack p { s.pc stack p with trained := i }

/-- Initial training of a stack ends, in no reset and after the option-load phase, whose repair map it follows (R385, R388): each
pseudo-channel in TRAINING serves, with the rows of the repair map under soft repair, or freezes with cause TRAINING (R259). -/
def execInitialTraining (stack : Nat) (failed : List Nat) (temp : Int) (s : State) : Result :=
  if !s.stackRuns stack || s.rst.level != .none || s.rst.loading then .next s
  else
    let before := s.doubleRate stack
    let s := (List.range 64).foldl (fun s p =>
      let v := s.pc stack p
      if v.st = .training then
        let s := s.setPc stack p { v with st := .serving, temp := temp, curTemp := temp, firstWindow := true, owed := 0,
                                          repaired := v.mapped }
        let s := s.trainPc stack p
        if failed.contains p then s.freeze stack p 3 0 0 else s
      else s) s
    .next ((s.rateRecord stack before).thaw)

/-- A row whose corrected errors recur and that is not under soft repair (R260; DESIGN CHOICE: twice is recurring). -/
def Pc.badRow (v : Pc) : Option Nat := (v.rowErrs.find? (fun x => 2 ≤ x.2 && !v.repaired.contains x.1)).map Prod.fst

/-- A live piece begins (R260), of a retraining, which begins where the temperature has moved by 10 °C and then goes on, or of the soft repair of a row whose
corrected errors recur: fewer than four refreshes are owed, fewer than eight pseudo-channels of the stack are in a piece,
and not the other one of the channel. -/
def execRetrainingPiece (stack pc : Nat) (s : State) : Result :=
  let v := s.pc stack pc
  let at' := (List.range 64).filter (fun p => (s.pc stack p).st == .retraining)
  let drift : Bool := 0 < v.retrains || 160 ≤ (v.curTemp - v.temp).natAbs
  if s.stackRuns stack && pc < 64 && v.st = .serving && (drift || v.badRow.isSome) && v.owed < 4
      && at'.length < 8 && !at'.contains (pc ^^^ 1) then
    .next (s.setPc stack pc { v with
      st := .retraining, retrains := v.retrains + flag drift, repairing := if drift then none else v.badRow })
  else .next s

/-- A piece ends: of a soft repair, with its row repaired; the retraining is complete by its 32nd piece. An eye without the steward's margin freezes the
pseudo-channel. The new eye margins that RETRAIN_DONE reports are free. -/
def execRetrainingPieceEnds (stack pc : Nat) (done marginOk : Bool) (s : State) : Result :=
  let v := s.pc stack pc
  if !s.stackRuns stack || 64 ≤ pc || v.st != .retraining then .next s
  else if !marginOk then .next (s.freeze stack pc 3 0 0)
  else match v.repairing with
  | some row =>
    .next ((s.setPc stack pc { v with
      st := .serving, repairing := none, repaired := addIdx v.repaired row, mapped := addIdx v.mapped row, rowErrs := v.rowErrs.erase row }).thaw)
  | none =>
  if done || 32 ≤ v.retrains then
    let s := s.setPc stack pc { v with st := .serving, retrains := 0, temp := v.curTemp }
    let s := s.trainPc stack pc
    let (s, i) := s.draw
    .next ((s.raise { recPc cRetrainDone stack pc with detail := (Config.freeWord i).toNat }).thaw)
  else .next ((s.setPc stack pc { v with st := .serving }).thaw)

end Sys2Proof.Machine
end

