-- ==== Sys2Proof/Machine/Mse.lean ====
section
/-! DEFINITION. Memory-side engines (R203–R230): work descriptors, the MLOAD and MRUN steps, the ten work operations,
and the pieces of a job. A job reads its operands when the command of its operation runs, and its results wait as pieces
that JOB_PIECE writes one by one; MEM_REGION and AST_BASE are written here too. -/

namespace Sys2Proof.Machine

/-! ## Work descriptors (R210, R213, R216) -/

def workOp (d : List Byte) : Nat := field d 0 1
def workFmt (d : List Byte) : Nat := field d 1 1
def workFmt2 (d : List Byte) : Nat := field d 2 1
def workAccum (d : List Byte) : Bool := bit (field d 3 1) 0
def workN (d : List Byte) : Nat := field d 4 4
def workN2 (d : List Byte) : Nat := field d 8 4
def workRow (d : List Byte) : Nat := field d 0xC 4
def workSrc (d : List Byte) : Nat := field d 0x10 8
def workSrc2 (d : List Byte) : Nat := field d 0x18 8
def workDst (d : List Byte) : Nat := field d 0x20 8
def workAuxA (d : List Byte) : Nat := field d 0x28 8
def workAuxB (d : List Byte) : Nat := field d 0x30 8
def workP0 (d : List Byte) : W32 := BitVec.ofNat 32 (field d 0x38 4)
def workP1 (d : List Byte) : Nat := field d 0x3C 4

/-- The fields of a descriptor, as (offset, size) in the order FMT, FMT2, FLAGS, N, N2, ROWLEN, SRC, SRC2, DST, AUXA, AUXB,
PARAM0, PARAM1 (R210). -/
def workFields : List (Nat × Nat) :=
  [(1, 1), (2, 1), (3, 1), (4, 4), (8, 4), (0xC, 4), (0x10, 8), (0x18, 8), (0x20, 8), (0x28, 8), (0x30, 8), (0x38, 4), (0x3C, 4)]

/-- The offsets of the fields an operation names (R213). -/
def workUses (op : Nat) : List Nat :=
  match op with
  | 0x01 => [4, 0xC, 0x10, 0x20, 0x28]
  | 0x02 => [1, 4, 0xC, 0x10, 0x20, 0x28]
  | 0x03 => [1, 3, 4, 8, 0xC, 0x10, 0x20, 0x3C]
  | 0x04 => [1, 2, 4, 0x10, 0x20, 0x28, 0x30, 0x38]
  | 0x05 => [4, 0x10, 0x20]
  | 0x06 => [4, 0x20, 0x38]
  | 0x07 => [1, 4, 8, 0x10, 0x20, 0x28]
  | 0x08 => [4, 0x10]
  | 0x09 => [1, 2, 3, 4, 8, 0xC, 0x10, 0x18, 0x20, 0x30, 0x38]
  | 0x0A => [1, 2, 4, 8, 0x10, 0x18, 0x20, 0x28, 0x30, 0x38, 0x3C]
  | _ => []

/-- Whether a code is a defined format without block scales, and one of any kind. -/
def plainFmt (f : Nat) : Bool := f < 32 && (elemOf f).isSome && blockLen f == 0
def anyFmt (f : Nat) : Bool := f < 32 && (elemOf f).isSome

/-- The rules of each operation (R213, R216, R218, R219). SRC, SRC2, DST, AUXA and AUXB may be any address (DESIGN CHOICE: R210 and
R213 align counts and lengths and name no alignment of an address); a line that a piece covers in part keeps its other bytes. -/
def workRules (d : List Byte) : Bool :=
  let f := workFmt d
  let f2 := workFmt2 d
  let n := workN d
  let n2 := workN2 d
  let row := workRow d
  match workOp d with
  | 0x01 => 0 < n && 0 < row && row % 64 == 0
  | 0x02 => (f == 0x1C || f == 0x18) && 0 < n && 0 < row && row % 64 == 0
  | 0x03 => plainFmt f && 0 < n && 0 < n2 && 0 < row && row % 64 == 0 && workP1 d ≤ 2 && (!workAccum d || workP1 d == 0)
  | 0x04 => anyFmt f && anyFmt f2 && 0 < n && n * elemBits f % 512 == 0 && n * elemBits f2 % 512 == 0
  | 0x05 => 0 < n && n % 64 == 0
  | 0x06 => 0 < n && n % 64 == 0
  | 0x07 => plainFmt f && 0 < n && 1 ≤ n2 && n2 ≤ 1024 && n2 ≤ n
  | 0x08 => 0 < n && n % 64 == 0
  | 0x09 => [0x00, 0x01, 0x10, 0x05, 0x12, 0x13].contains f && (f2 == 0x18 || f2 == 0x1C) && 0 < n && 0 < n2
      && 0 < row && row % 64 == 0 && n * elemBits f % 512 == 0 && n * elemBits f / 8 ≤ row
  | 0x0A => [0x18, 0x00, 0x01].contains f && (f2 == 0x18 || f2 == 0x1C) && 1 ≤ n2 && n2 ≤ 16
      && (workP1 d == 64 || workP1 d == 128)
  | _ => false

/-- Whether a work descriptor is valid (R210). -/
def workOk (d : List Byte) : Bool :=
  checkOk d 0x7C && 1 ≤ workOp d && workOp d ≤ 0x0A && field d 3 1 < 2 && zeroAt d 0x40 60
    && workFields.all (fun p => (workUses (workOp d)).contains p.1 || zeroAt d p.1 p.2)
    && workRules d

/-! ## MLOAD and MRUN (R208, R209, R212) -/

/-- The initiator of an engine's own traffic, and its translation cache (R211, R276). -/
def mseInit (m : Nat) : Nat := 0x330 + m

/-- A fetched work descriptor fills its slot, or is refused. -/
def State.workFetched (s : State) (ub : Nat) (f : Fired) : State :=
  let m := unitOf ub - 768
  if f.poisoned then s.refuseDesc ub f cWorkInvalid 1
  else if !workOk f.data then s.refuseDesc ub f cWorkInvalid 0
  else (s.setMse m { s.mse m with work := (s.mse m).work.set [] (opnd f.q.word 0 6) f.data }).finish ub f

/-- A fired MLOAD fetches its descriptor and checks it. -/
def State.mload (s : State) (ub : Nat) (f : Fired) : State :=
  let s := s.fetchDesc ub f (mseInit (unitOf ub - 768)) cWorkWait cWorkInvalid
  match s.firedStep ub (fun g => opOf g.q.word == 0x90 && g.acted && g.q == f.q) with
  | none => s
  | some g => s.workFetched ub g

def execMload (ub : Nat) (s : State) : Result :=
  match s.firedStep ub (fun f => unacted 0x90 f && !f.waiting) with
  | none => .next s
  | some f => .next (s.mload ub f)

/-- A DLOAD or MLOAD whose fetch waited resumes once a command covering its address has completed (R161, R209). -/
def execDloadResume (ub : Nat) (s : State) : Result :=
  match s.firedStep ub (fun f => unacted 0x60 f && f.waiting && f.released) with
  | some f => .next (s.fetchDesc ub f (seInit (unitOf ub - 512)) cDescWait cDescInvalid)
  | none => match s.firedStep ub (fun f => unacted 0x90 f && f.waiting && f.released) with
    | some f => .next (s.mload ub f)
    | none => .next s

/-- MRUN: the job slot runs the work slot as it was when the step fired. -/
def execMrun (ub : Nat) (s : State) : Result :=
  s.onFired ub 0x91 (fun s f =>
    let m := unitOf ub - 768
    let s := s.setJob m (opnd f.q.word 6 2) {
      state := 1, ub := ub, slot := opnd f.q.word 0 6, desc := f.data, mode := f.mode }
    s.markActed ub f)

/-! ## What a job may touch (R211, R229) -/

/-- Where a job's access goes: an offset of its own stack's local part, or what ends or halts the job. -/
inductive JobPlace where
  | here (off : Nat)
  | foreign
  | bad (cause : Nat)
  | later
deriving DecidableEq, Repr

/-- The record of a job. -/
def State.jobRec (s : State) (m j code : Nat) : State :=
  let v := s.job m j
  match s.firedStep v.ub (isRunOf j) with
  | some f => s.raise { recStep code v.ub f.q (s.bk v.ub).epoch with detail := j }
  | none => s.raise { recOf code 4 m with ens := s.ensOf v.ub, detail := j }

/-- The initiator of a job's traffic (R276). -/
def jobInit (m j : Nat) : Nat := 0x300 + 4 * m + j

/-- The place of an address for a job, where the controller takes its request now. -/
def State.jobPlace (s : State) (m j va : Nat) (write : Bool) : State × JobPlace :=
  match s.locate (mseInit m) (s.en (s.ensOf (s.job m j).ub)).asid va write with
  | (s, none) => (s, .later)
  | (s, some (.hbm k o)) =>
    if k = m && 2 ^ 30 * (64 - s.localGib) ≤ o then
      match s.availFor (jobInit m j) k o write with
      | .ok => (s, .here o)
      | .bad c => (s, .bad c)
      | .later => (s, .later)
    else (s, .foreign)
  | (s, some (.bad c)) => (s, .bad c)
  | (s, some _) => (s, .foreign)

/-- A fault ends a job (R211, R226, R227): it writes nothing more, its step does not complete, its ensemble stops. -/
def State.jobFault (s : State) (m j code : Nat) : State :=
  let v := s.job m j
  let e := s.ensOf v.ub
  let s := s.jobRec m j code
  let s := s.setJob m j {}
  (s.abandonStep v.ub (isRunOf j)).stopOn e code

/-- A job halts where it stands (R229). -/
def State.jobHalt (s : State) (m j cause va : Nat) : State :=
  let s := s.jobRec m j cMseHalted
  s.setJob m j { s.job m j with state := 2, cause := cause, addr := va }

/-- A job reads poison (R227): its results are poisoned, it will not complete, and its ensemble stops. -/
def State.jobPoisoned (s : State) (m j : Nat) : State :=
  let v := s.job m j
  if v.spoiled then s
  else ((s.jobRec m j cMsePoison).setJob m j { v with spoiled := true }).stopOn (s.ensOf v.ub) cMsePoison

/-- What a job's reads brought: bytes, and the lines of virtual addresses that were poisoned. -/
inductive JobGot where
  | bytes (l : List Byte) (lost : List Nat)
  | foreign
  | bad (cause va : Nat)
  | later
deriving DecidableEq, Repr

/-- The lines, by virtual address, of the `n` bytes at `va` that are poisoned at the offset they lie at. -/
def State.lostLines (s : State) (m o va n : Nat) : List Nat :=
  ((linesOf o n).filter (s.hbmBad m)).map (fun x => (va + x - o) / 64)

/-- Reads `n` bytes for a job, block by block, as requests of class 1 (R212); a poisoned line is reported as it is read (R227). -/
def State.jobRead (s : State) (m j : Nat) (fuel va n : Nat) : State × JobGot :=
  match fuel with
  | 0 => (s, .bytes [] [])
  | k + 1 =>
    if n = 0 then (s, .bytes [] [])
    else
      let w := blockRun va n
      match s.jobPlace m j va false with
      | (s, .later) => (s, .later)
      | (s, .foreign) => (s, .foreign)
      | (s, .bad c) => (s, .bad c va)
      | (s, .here o) => match s.hbmFetch (jobInit m j) m o w with
        | (s, none) => (s, .bad causePcFrozen va)
        | (s, some (l, _)) =>
          let lost := s.lostLines m o va w
          let s := if lost.isEmpty then s else s.jobPoisoned m j
          match s.jobRead m j k (va + w) (n - w) with
          | (s, .bytes l' b) => (s, .bytes (l ++ l') (lost ++ b))
          | x => x

/-- Reads several ranges (address, length) for a job: the bytes of each and the poisoned lines, or what stops it. -/
def State.jobReads (s : State) (m j : Nat) (rs : List (Nat × Nat)) : State × JobGot × List (List Byte) :=
  match rs with
  | [] => (s, .bytes [] [], [])
  | (va, n) :: r => match s.jobRead m j (blockFuel n) va n with
    | (s, .bytes l b) => match s.jobReads m j r with
      | (s, .bytes _ b', ls) => (s, .bytes [] (b ++ b'), l :: ls)
      | x => x
    | (s, x) => (s, x, [])

/-! ## Pieces -/

/-- Bytes at an address, cut into pieces at 256-byte boundaries (R209). -/
def cutPieces (fuel va : Nat) (l : List Byte) (mk : Nat → List Byte → Piece) : List Piece :=
  match fuel with
  | 0 => []
  | k + 1 => match l with
    | [] => []
    | _ =>
      let n := 256 - va % 256
      mk va (l.take n) :: cutPieces k (va + n) (l.drop n) mk

/-- The pieces that store bytes. -/
def piecesFor (va : Nat) (l : List Byte) (arith : Bool) : List Piece :=
  cutPieces (l.length / 256 + 2) va l (fun a d => { va := a, data := d, arith := arith })

/-- A job's results stand ready to be written, as numbered pieces. -/
def State.jobReady (s : State) (m j : Nat) (ps : List Piece) : State :=
  s.setJob m j { s.job m j with read := true, pieces := ps.zipIdx.map (fun p => { p.1 with num := p.2 }) }

/-- Whether a range of virtual addresses touches a poisoned line. -/
def touches (lost : List Nat) (r : Nat × Nat) : Bool := lost.any (fun l => 64 * l < r.1 + r.2 && r.1 < 64 * l + 64)

/-- A piece with the lines poisoned that are computed from poison (R227): `source` gives the ranges that the results in the line at
an address come from. -/
def Piece.spoil (lost : List Nat) (source : Nat → List (Nat × Nat)) (p : Piece) : Piece :=
  let base := p.va / 256 * 256
  { p with bads := (List.range 4).foldl (fun (b : BitVec 4) i =>
      if (source (base + 64 * i)).any (touches lost) then putBit b i true else b) 0 }

/-- How an operation works: the ranges it reads, how it computes its results, and the ranges that the results in the line at an
address come from. -/
structure WorkOp where
  ranges  : List Byte → List (Nat × Nat)
  compute : State → List Byte → Byte → List (List Byte) → State × List Piece
  source  : List Byte → Nat → List (Nat × Nat)

/-- Runs operation `op` of a job that has not read yet: reads its ranges, computes, and makes the results ready; results computed
from poison are poisoned (R227). `lost` are the poisoned lines read before. -/
def State.runJob (s : State) (m j op : Nat) (w : WorkOp) (lost : List Nat := []) : State :=
  let v := s.job m j
  if v.state != 1 || v.read || workOp v.desc != op || !s.stackRuns m then s
  else match s.jobReads m j (w.ranges v.desc) with
    | (s, .later, _) => s
    | (s, .foreign, _) => s.jobFault m j cNotLocal
    | (s, .bad c va, _) => s.jobHalt m j c va
    | (s, .bytes _ b, ls) =>
      let lost := lost ++ b
      let (s, ps) := w.compute s v.desc v.mode ls
      s.jobReady m j (if lost.isEmpty then ps else ps.map (Piece.spoil lost (w.source v.desc)))

/-- The same, where what a job reads depends on indices it reads first: `first` is the range of the indices. -/
def State.runIndexed (s : State) (m j op : Nat) (first : List Byte → Nat × Nat) (w : List Nat → WorkOp) : State :=
  let v := s.job m j
  if v.state != 1 || v.read || workOp v.desc != op || !s.stackRuns m then s
  else match s.jobReads m j [first v.desc] with
    | (s, .later, _) => s
    | (s, .foreign, _) => s.jobFault m j cNotLocal
    | (s, .bad c va, _) => s.jobHalt m j c va
    | (s, .bytes _ lost, ls) =>
      s.runJob m j op (w ((chunks 4 ((ls.headD []).length) (ls.headD [])).map ofLe)) lost

/-- The cluster of results at an address: that of the channel that holds it, whether its controller takes a request now or not
(R203). -/
def State.jobCluster (s : State) (m j va : Nat) : Nat :=
  match (s.locate (mseInit m) (s.en (s.ensOf (s.job m j).ub)).asid va true).2 with
  | some (.hbm k o) => s.clusterFor k (s.servingPc k o)
  | _ => 8 * m

/-- What keeps a job from dealing the bytes from `va` on, block by block, to the clusters of their channels: an address that is
absent, not permitted or not this stack's. -/
def State.unplaced (s : State) (m : Nat) (asid : Nat) (fuel va n : Nat) : Option JobGot :=
  match fuel with
  | 0 => none
  | k + 1 =>
    if n = 0 then none
    else match (s.locate (mseInit m) asid va true).2 with
      | none => some .later
      | some (.bad c) => some (.bad c va)
      | some (.hbm x o) =>
        if x = m && 2 ^ 30 * (64 - s.localGib) ≤ o then s.unplaced m asid k (va + blockRun va n) (n - blockRun va n)
        else some .foreign
      | some _ => some .foreign

/-! ## GATHER, SCATTER_ADD, COPY, FILL, SCRUB (R214, R215, R217) -/

/-- GATHER: row i of DST takes row idx[i] of SRC. -/
def execGather (stack : Nat) (job : BitVec 2) (s : State) : Result :=
  .next (s.runIndexed stack job.toNat 0x01 (fun d => (workAuxA d, 4 * workN d)) (fun idx => {
    ranges := fun d => idx.map (fun i => (workSrc d + i * workRow d, workRow d))
    compute := fun s d _ ls => (s, ls.zipIdx.flatMap (fun p => piecesFor (workDst d + p.2 * workRow d) p.1 false))
    source := fun d a =>
      let i := (a - workDst d) / workRow d
      [(workAuxA d + 4 * i, 4), (workSrc d + nth idx i 0 * workRow d + (a - workDst d) % workRow d, 64)] }))

/-- SCATTER_ADD: row i of SRC is added to row idx[i] of DST. -/
def execScatterAdd (stack : Nat) (job : BitVec 2) (s : State) : Result :=
  .next (s.runIndexed stack job.toNat 0x02 (fun d => (workAuxA d, 4 * workN d)) (fun idx => {
    ranges := fun d => (List.range (workN d)).map (fun i => (workSrc d + i * workRow d, workRow d))
    compute := fun s d _ ls => (s, (idx.zip ls).flatMap (fun p =>
      cutPieces (p.2.length / 256 + 2) (workDst d + p.1 * workRow d) p.2
        (fun a l => { va := a, data := l, add := true, bf16 := workFmt d == 0x18 })))
    source := fun d a =>
      let row := (a - workDst d) / workRow d
      let mine := (idx.zipIdx).filter (fun p => p.1 == row)
      mine.flatMap (fun p =>
        [(workAuxA d + 4 * p.2, 4), (workSrc d + p.2 * workRow d + (a - workDst d) % workRow d, 64)]) }))

/-- Whether the ranges of a COPY overlap. -/
def overlaps (a b n : Nat) : Bool := a < b + n && b < a + n

/-- WORK_COPY: an overlap of the ranges leaves the overlapping bytes of DST unspecified, and they are free. -/
def execWorkCopy (stack : Nat) (job : BitVec 2) (s : State) : Result :=
  .next (s.runJob stack job.toNat 0x05 {
    ranges := fun d => [(workSrc d, workN d)]
    compute := fun s d _ ls =>
      let l := ls.headD []
      let src := workSrc d
      let dst := workDst d
      if overlaps src dst l.length then
        let lo := max src dst
        let hi := min src dst + l.length
        let (s, free) := s.drawBytes (hi - lo)
        (s, piecesFor dst (overlay l (lo - dst) free) false)
      else (s, piecesFor dst l false)
    source := fun d a => [(workSrc d + a - workDst d, 64)] })

/-- FILL: PARAM0 over and over, little-endian. -/
def execFill (stack : Nat) (job : BitVec 2) (s : State) : Result :=
  .next (s.runJob stack job.toNat 0x06 {
    ranges := fun _ => []
    compute := fun s d _ _ =>
      (s, piecesFor (workDst d) ((List.range (workN d / 4)).flatMap (fun _ => leBytes 4 (workP0 d).toNat)) false)
    source := fun _ _ => [] })

/-- One line that a SCRUB reads, with what the interface adds to it: a corrected line is written back at once, by the controller;
false where it froze the pseudo-channel. -/
def State.scrubLine (s : State) (m j off : Nat) (found : Ecc) : State × Bool :=
  let s := s.reach (jobInit m j) m off 64
  match s.readCheck m (s.servingPc m off) off found (some (snapAt (jobInit m j) off .scrub)) with
  | (s, true) => (s.scrubbed m off, true)
  | x => x

/-- Scrubs a range line by line from `va` on; `found` is what the interface adds, by stack offset. Answers how far it came; a
poisoned line makes the job one that does not complete (R227). -/
def State.scrubRange (s : State) (m j : Nat) (found : List (Nat × Ecc)) (fuel va n : Nat) : State × JobGot × Nat :=
  match fuel with
  | 0 => (s, .bytes [] [], va)
  | k + 1 =>
    if n = 0 then (s, .bytes [] [], va)
    else match s.jobPlace m j va false with
      | (s, .later) => (s, .later, va)
      | (s, .foreign) => (s, .foreign, va)
      | (s, .bad c) => (s, .bad c va, va)
      | (s, .here o) =>
        if s.keepsWaiting (jobInit m j) m o 3 false then (s, .later, va)
        else
          let line := o / 64 * 64
          let hit := (found.find? (fun p => p.1 / 64 * 64 == line)).map Prod.snd
          let s := if s.hbmBad m line then s.jobPoisoned m j else s
          match s.scrubLine m j line (hit.getD .clean) with
          | (s, false) => (s, .bad causePcFrozen va, va)
          | (s, true) => s.scrubRange m j found k (va + lineRun va n) (n - lineRun va n)

/-- SCRUB: a line that froze its pseudo-channel halts the job there, and a resumed job goes on from it. -/
def execScrub (stack : Nat) (job : BitVec 2) (found : List (Nat × Ecc)) (s : State) : Result :=
  let j := job.toNat
  let v := s.job stack j
  if v.state != 1 || v.read || workOp v.desc != 0x08 || !s.stackRuns stack then .next s
  else
    let (s, got, va) := s.scrubRange stack j found (workN v.desc / 64 + 2) (workSrc v.desc + v.bytes) (workN v.desc - v.bytes)
    let s := s.setJob stack j { s.job stack j with bytes := va - workSrc v.desc }
    match got with
    | .later => .next s
    | .foreign => .next (s.jobFault stack j cNotLocal)
    | .bad c va => .next (s.jobHalt stack j c va)
    | .bytes _ _ => .next (s.jobReady stack j [])

/-! ## REDUCE (R215) -/

/-- One element of a reduction. -/
def reduceOne (mode : Byte) (how : Nat) (xs : List Num) (acc : List Num) (free : Nat) : W32 :=
  match how with
  | 0 => orderSum mode 2 (xs ++ acc) free
  | 1 => extremumOf mode true xs free
  | _ => extremumOf mode false xs free

/-- The vectors of a REDUCE, and the accumulated results where ACCUM is set. -/
def reduceRanges (d : List Byte) : List (Nat × Nat) :=
  (List.range (workN2 d)).map (fun v => (workSrc d + v * workRow d, (workN d * elemBits (workFmt d) + 7) / 8))
    ++ (if workAccum d then [(workDst d, 4 * workN d)] else [])

/-- Words as little-endian bytes. -/
def wordBytes (ws : List W32) : List Byte := ws.flatMap (fun w => leBytes 4 w.toNat)

/-- Where the 16 results in a line of DST come from. -/
def reduceSource (d : List Byte) (a : Nat) : List (Nat × Nat) :=
  let i := (a - workDst d) / 4
  let bits := elemBits (workFmt d)
  (List.range (workN2 d)).map (fun v => (workSrc d + v * workRow d + i * bits / 8, (16 * bits + 7) / 8))
    ++ (if workAccum d then [(a, 64)] else [])

def execReduce (stack : Nat) (job : BitVec 2) (s : State) : Result :=
  .next (s.runJob stack job.toNat 0x03 { ranges := reduceRanges, source := reduceSource, compute := fun s d mode ls =>
    let vs := (ls.take (workN2 d)).map (fun l => (unpack (workFmt d) l).map (readElem mode (elem (workFmt d))))
    let acc := (unpack 0x1C ((ls.drop (workN2 d)).headD [])).map (readElem mode fp32)
    let ws := (List.range (workN d)).map (fun i =>
      reduceOne mode (workP1 d) (vs.map (fun v => nth v i .zero)) (if workAccum d then [nth acc i .zero] else []) (s.free + i))
    ({ s with free := s.free + workN d }, piecesFor (workDst d) (wordBytes ws) (workP1 d == 0)) })

/-! ## CONVERT (R215, R222, R228) -/

/-- The values of a source span with its block scales and the tensor scale of AXF4 (R103, R104): exact, and a zero block scale under
an infinite or NaN tensor scale reads as NaN (DESIGN CHOICE: R104 has the block read as zero and multiplies it by the tensor
scale). -/
def sourceNums (mode : Byte) (fmt : Nat) (t : W32) (l scales : List Byte) : List Num :=
  (unpack fmt l).zipIdx.map (fun p =>
    if blockLen fmt = 0 then readElem mode (elem fmt) p.1
    else
      let x := scaledElem mode fmt p.1 (field scales (p.2 / blockLen fmt) 1)
      if fmt = 0x13 then x.mul (readF32 mode t) else x)

/-- One block converted to a block-scaled format, element `k` of its piece first. -/
def Cluster.convertScaled (c : Cluster) (era g : Nat) (mode : Byte) (fmt : Nat) (t : W32) (k : Nat) (xs : List Num) :
    Cluster × List Nat × Nat :=
  let next (i : Nat) : W64 := xorshift (genState c.gens era (clusterBank g) ((k + i) % 64))
  let (r, drew) := convertBlock mode fmt t (xs.zipIdx.map (fun p => (p.1, drawOf (next p.2))))
  let gens := drew.zipIdx.foldl (fun (m : Map W64) p => if p.1 then m.set 0 ((k + p.2) % 64) (next p.2) else m) c.gens
  ({ c.addEvents r.events with gens := gens }, r.codes, r.scale)

/-- Blocks converted one after another. -/
def Cluster.convertBlocks (c : Cluster) (era g : Nat) (mode : Byte) (fmt : Nat) (t : W32) (k : Nat) (bs : List (List Num)) :
    Cluster × List Nat × List Nat :=
  match bs with
  | [] => (c, [], [])
  | b :: r =>
    let (c, codes, sc) := c.convertScaled era g mode fmt t k b
    let (c, codes', scs) := c.convertBlocks era g mode fmt t (k + b.length) r
    (c, codes ++ codes', sc :: scs)

/-- One piece of a CONVERT: the element codes and, in a block-scaled format, the scale codes. -/
def State.convertPiece (s : State) (g : Nat) (mode : Byte) (fmt : Nat) (t : W32) (xs : List Num) : State × List Nat × List Nat :=
  if blockLen fmt = 0 then
    let (s, ks) := s.clusterConvert g mode fmt (xs.zipIdx.map (fun p => (p.2, p.1)))
    (s, ks, [])
  else
    let (c, ks, scs) := (s.cluster g).convertBlocks s.era g mode fmt t 0 (chunks (blockLen fmt) xs.length xs)
    (s.setCluster g c, ks, scs)

/-- The pieces of a CONVERT, each within a 256-byte block of the destination and so in one pseudo-channel, whose cluster converts
it (R203). -/
def State.convertPieces (s : State) (m j : Nat) (mode : Byte) (fmt : Nat) (t : W32) (fuel dst : Nat) (xs : List Num) :
    State × List Byte × List Byte :=
  match fuel with
  | 0 => (s, [], [])
  | k + 1 =>
    if xs.isEmpty then (s, [], [])
    else
      let w := 256 - dst % 256
      let n := 8 * w / elemBits fmt
      let (s, ks, scs) := s.convertPiece (s.jobCluster m j dst) mode fmt t (xs.take n)
      let (s, l, l') := s.convertPieces m j mode fmt t k (dst + w) (xs.drop n)
      (s, pack fmt ks ++ l, scs.map (BitVec.ofNat 8) ++ l')

/-- The source bytes and scales of `n` elements of a CONVERT from element `e` on. -/
def convertSpan (d : List Byte) (e n : Nat) : List (Nat × Nat) :=
  let f := workFmt d
  (workSrc d + e * elemBits f / 8, n * elemBits f / 8)
    :: (if blockLen f = 0 then [] else [(workAuxA d + e / blockLen f, (n + blockLen f - 1) / blockLen f)])

/-- Where the elements in a line of DST, or the scales in a line of AUXB, come from. -/
def convertSource (d : List Byte) (a : Nat) : List (Nat × Nat) :=
  let f2 := workFmt2 d
  (if workDst d ≤ a && a < workDst d + workN d * elemBits f2 / 8 then
    convertSpan d ((a - workDst d) * 8 / elemBits f2) (512 / elemBits f2) else [])
  ++ (if blockLen f2 != 0 && workAuxB d < a + 64 && a < workAuxB d + workN d / blockLen f2 then
    convertSpan d ((a - workAuxB d) * blockLen f2) (64 * blockLen f2) else [])

/-- CONVERT. Its results are dealt to the clusters that convert them, so a job whose DST is not all there halts or ends before it
converts. -/
def execConvert (stack : Nat) (job : BitVec 2) (s : State) : Result :=
  let n (d : List Byte) : Nat := workN d * elemBits (workFmt d) / 8
  let v := s.job stack job.toNat
  let out := workN v.desc * elemBits (workFmt2 v.desc) / 8
  if v.state != 1 || v.read || workOp v.desc != 0x04 || !s.stackRuns stack then .next s
  else match s.unplaced stack (s.en (s.ensOf v.ub)).asid (blockFuel out) (workDst v.desc) out with
  | some .later => .next s
  | some (.bad c va) => .next (s.jobHalt stack job.toNat c va)
  | some _ => .next (s.jobFault stack job.toNat cNotLocal)
  | none => .next (s.runJob stack job.toNat 0x04 {
    ranges := fun d =>
      [(workSrc d, n d), (workAuxA d, if blockLen (workFmt d) = 0 then 0 else workN d / blockLen (workFmt d))]
    source := convertSource
    compute := fun s d mode ls =>
      let xs := sourceNums mode (workFmt d) (workP0 d) (nth ls 0 []) (nth ls 1 [])
      let (s, l, scs) := s.convertPieces stack job.toNat mode (workFmt2 d) (workP0 d) (xs.length / 8 + 2) (workDst d) xs
      (s, piecesFor (workDst d) l true ++ piecesFor (workAuxB d) scs true) })

/-! ## TOPK (R216) -/

/-- Whether element x ranks above y: larger value first, NaN above every number in strict mode and below in fast mode,
equal values in ascending index. -/
def ranksAbove (mode : Byte) (x y : Num × Nat) : Bool :=
  if x.1.isNan && y.1.isNan then x.2 < y.2
  else if x.1.isNan then strict mode
  else if y.1.isNan then !strict mode
  else if y.1.lt x.1 then true
  else if x.1.lt y.1 then false
  else x.2 < y.2

/-- Puts an element in its place among those above it. -/
def insertRank (mode : Byte) (x : Num × Nat) (l : List (Num × Nat)) : List (Num × Nat) :=
  match l with
  | [] => [x]
  | y :: r => if ranksAbove mode x y then x :: y :: r else y :: insertRank mode x r

/-- The K best elements, best first. -/
def topK (mode : Byte) (k : Nat) (l : List (Num × Nat)) : List (Num × Nat) :=
  l.foldl (fun best x => (insertRank mode x best).take k) []

def execTopk (stack : Nat) (job : BitVec 2) (s : State) : Result :=
  let whole (d : List Byte) : List (Nat × Nat) := [(workSrc d, (workN d * elemBits (workFmt d) + 7) / 8)]
  .next (s.runJob stack job.toNat 0x07 { ranges := whole, source := fun d _ => whole d, compute := fun s d mode ls =>
      let xs := ((unpack (workFmt d) (ls.headD [])).take (workN d)).map (readElem mode (elem (workFmt d)))
      let best := topK mode (workN2 d) xs.zipIdx
      (s, piecesFor (workDst d) (wordBytes (best.map (fun p => toF32 mode p.1))) false
            ++ piecesFor (workAuxA d) (best.flatMap (fun p => leBytes 4 p.2)) false) })

/-! ## GEMV (R218) -/

/-- Bytes of weight scales a row has. -/
def rowScales (fmt n : Nat) : Nat := if blockLen fmt = 0 then 0 else n / blockLen fmt

def gemvRanges (d : List Byte) : List (Nat × Nat) :=
  let f := workFmt d
  let n := workN d
  [(workSrc2 d, n * elemBits (workFmt2 d) / 8), (workAuxB d, rowScales f n * workN2 d)]
    ++ (List.range (workN2 d)).map (fun r => (workSrc d + r * workRow d, n * elemBits f / 8))
    ++ (if workAccum d then [(workDst d, 4 * workN2 d)] else [])

/-- Where the 16 results in a line of DST come from: the vector, their rows and scales, and the old words under ACCUM. -/
def gemvSource (d : List Byte) (a : Nat) : List (Nat × Nat) :=
  let f := workFmt d
  let n := workN d
  let r := (a - workDst d) / 4
  let per := rowScales f n
  (workSrc2 d, n * elemBits (workFmt2 d) / 8) :: (workAuxB d + per * r, 16 * per)
    :: (List.range 16).map (fun i => (workSrc d + (r + i) * workRow d, n * elemBits f / 8))
    ++ (if workAccum d then [(a, 64)] else [])

def execGemv (stack : Nat) (job : BitVec 2) (s : State) : Result :=
  .next (s.runJob stack job.toNat 0x09 { ranges := gemvRanges, source := gemvSource, compute := fun s d mode ls =>
    let f := workFmt d
    let rows := workN2 d
    let per := rowScales f (workN d)
    let x := (unpack (workFmt2 d) (nth ls 0 [])).map (readElem mode (elem (workFmt2 d)))
    let old := (unpack 0x1C (nth ls (2 + rows) [])).map (readElem mode fp32)
    let t := readF32 mode (workP0 d)
    let ys := (List.range rows).map (fun r =>
      let scales := ((nth ls 1 []).drop (per * r)).take per
      let w := (unpack f (nth ls (2 + r) [])).zipIdx.map (fun p =>
        operand mode f p.1 (if blockLen f = 0 then 0 else field scales (p.2 / blockLen f) 1))
      floatOut mode t (if workAccum d then nth old r .zero else .zero) w x (s.free + r))
    ({ s with free := s.free + rows }, piecesFor (workDst d) (wordBytes ys) true) })

/-! ## ADEC (R219, R220) -/

/-- Bytes of one K or V row. -/
def adecRow (d : List Byte) : Nat := workP1 d * elemBits (workFmt d) / 8

def adecRanges (d : List Byte) (idx : List Nat) : List (Nat × Nat) :=
  let row (base t : Nat) : Nat × Nat := (base + (nth idx (t / 64) 0 * 64 + t % 64) * adecRow d, adecRow d)
  if workN d = 0 then []
  else (workSrc d, workN2 d * workP1 d * elemBits (workFmt2 d) / 8)
    :: (List.range (workN d)).map (row (workSrc2 d)) ++ (List.range (workN d)).map (row (workAuxB d))

/-- 2^(x − m) of an ADEC: a power of two exactly where the difference is an integer; otherwise within the bound that the exponentials
of VSMX and VCMB carry, whose triples it is to match (R147, R148). -/
def adecExp (mode : Byte) (x m : Num) : Num :=
  let y := x.add m.neg
  readF32 mode (match y with
    | .fin k e =>
      let d := pow2 (-e)
      let i := k * pow2 e
      if i % d = 0 && -160 ≤ i / d && i / d ≤ 0 then toF32 mode (.fin 1 (i / d)) else exp2N true mode y
    | _ => exp2N true mode y)

/-- A partial of some tokens: its maximum, its sum, and P (R219). -/
structure Triple where
  m : Num
  s : Num
  p : List Num
deriving DecidableEq, Repr

/-- The partial of no token (R220). -/
def Triple.empty (dim : Nat) : Triple := { m := minusInf, s := .zero, p := List.replicate dim .zero }

/-- The triple a cluster forms over scores and their V rows; draws from `free` on order the sums. -/
def Triple.over (mode : Byte) (l : List (Num × List Num)) (dim free : Nat) : Triple :=
  match l with
  | [] => .empty dim
  | x :: r =>
    let m := groupMax mode x.1 (r.map Prod.fst)
    if m = minusInf then .empty dim
    else
      let es := l.map (fun x => (adecExp mode x.1 m, x.2))
      { m := m, s := readF32 mode (orderSum mode 1 (es.map Prod.fst) free),
        p := (List.range dim).map (fun i =>
          readF32 mode (orderSum mode 1 (es.map (fun e => e.1.mul (nth e.2 i .zero))) (free + 1 + i))) }

/-- Two partials merged by VCMB's rule (R147, R220). -/
def Triple.merge (mode : Byte) (a b : Triple) (dim free : Nat) : Triple :=
  let m := extremumN mode true a.m b.m
  if m = minusInf then .empty dim
  else
    let f := adecExp mode a.m m
    let d := adecExp mode b.m m
    { m := m, s := readF32 mode (orderSum mode 1 [a.s.mul f, b.s.mul d] free),
      p := (List.range dim).map (fun i =>
        readF32 mode (orderSum mode 1 [(nth a.p i .zero).mul f, (nth b.p i .zero).mul d] (free + 1 + i))) }

/-- The cluster that takes a page of the list. A page lies in more channels than one cluster's, and the spec does not say which
cluster holds it: free. -/
def pageCluster (base page : Nat) : Nat := (Config.freeWord (base + page)).toNat % 8

/-- Draws of one query: its scores, and the sums of eight triples and of their merges. -/
def adecDraws (n dim : Nat) : Nat := n + 16 * (dim + 1)

/-- One query's record (R219, R220): each cluster's triple over its pages, merged; `pages` numbers the draws that deal the pages,
`free` the query's own. -/
def adecQuery (mode : Byte) (scale : W32) (q : List Num) (ks vs : List (List Num)) (dim pages free : Nat) : Triple :=
  let score (k : List Num × Nat) : Num :=
    readF32 mode (toF32 mode ((readF32 mode scale).mul (readF32 mode (floatOut mode .one .zero q k.1 (free + k.2)))))
  let tokens := ((ks.zipIdx.map score).zip vs).zipIdx
  let base := free + ks.length
  (List.range 8).foldl (fun a c =>
    let mine := (tokens.filter (fun x => pageCluster pages (x.2 / 64) == c)).map Prod.fst
    a.merge mode (.over mode mine dim (base + c * (dim + 1))) dim (base + (8 + c) * (dim + 1))) (.empty dim)

/-- A record as it is written (R220). -/
def Triple.words (mode : Byte) (t : Triple) : List Byte :=
  leBytes 4 (toF32 mode t.m).toNat ++ leBytes 4 (toF32 mode t.s).toNat ++ zeros 56 ++ wordBytes (t.p.map (toF32 mode))

/-- Where a query's record comes from: its query, and every page. -/
def adecSource (idx : List Nat) (d : List Byte) (a : Nat) : List (Nat × Nat) :=
  let q := (a - workDst d) / (64 + 4 * workP1 d)
  let len := workP1 d * elemBits (workFmt2 d) / 8
  if workN d = 0 then []
  else (workSrc d + q * len, len) :: (workAuxA d, 4 * ((workN d + 63) / 64)) :: (adecRanges d idx).drop 1

def execAdec (stack : Nat) (job : BitVec 2) (s : State) : Result :=
  .next (s.runIndexed stack job.toNat 0x0A (fun d => (workAuxA d, 4 * ((workN d + 63) / 64))) (fun idx => {
    ranges := fun d => adecRanges d idx
    source := adecSource idx
    compute := fun s d mode ls =>
      let f := workFmt d
      let dim := workP1 d
      let n := workN d
      let nums (fmt : Nat) (l : List Byte) : List Num := (unpack fmt l).map (readElem mode (elem fmt))
      let qs := chunks dim (workN2 d) (nums (workFmt2 d) (nth ls 0 []))
      let ks := ((ls.drop 1).take n).map (nums f)
      let vs := ((ls.drop (1 + n)).take n).map (nums f)
      let pages := (n + 63) / 64
      let recs := (List.range (workN2 d)).map (fun q =>
        adecQuery mode (workP0 d) (nth qs q []) ks vs dim s.free (s.free + pages + q * adecDraws n dim))
      ({ s with free := s.free + pages + workN2 d * adecDraws n dim },
       recs.zipIdx.flatMap (fun p => piecesFor (workDst d + p.2 * (64 + 4 * dim)) (p.1.words mode) true)) }))

/-! ## The pieces of a job and its end (R212, R226, R229) -/

/-- One line of a piece: stored, or added to what is there; a poisoned line that it is added to stays as it is. -/
def State.writeLine (s : State) (m g : Nat) (mode : Byte) (p : Piece) (o k : Nat) (l : List Byte) (bad : Bool) : State :=
  if p.add then
    if s.hbmBad m o then s
    else
      let (s, w) := s.addBytes g mode (if p.bf16 then 0x18 else 0x1C) (k / (if p.bf16 then 2 else 4)) (s.hbmRead m o l.length) l
      s.storeLine m o w bad
  else s.storeLine m o l bad

/-- The lines of a piece from byte `k` of it on, at stack offset `o`. -/
def State.writeLines (s : State) (m g : Nat) (mode : Byte) (p : Piece) (whole : Bool) (fuel o k : Nat) : State :=
  match fuel with
  | 0 => s
  | f + 1 =>
    if p.data.length ≤ k then s
    else
      let w := lineRun (p.va + k) (p.data.length - k)
      (s.writeLine m g mode p (o + k) k ((p.data.drop k).take w)
        (whole || bitOf p.bads ((p.va + k) / 64 % 4))).writeLines m g mode p whole f o (k + w)

/-- Writes one piece of a job as one request of class 2 (R212, R233): what it adds to, and the lines it covers only in part, are
read and checked; false where that froze the pseudo-channel, and nothing is written. A poisoned line that is added to is read
poisoned (R227). -/
def State.writePiece (s : State) (m j g : Nat) (p : Piece) (whole : Bool) (o : Nat) : State × Bool :=
  let n := p.data.length
  let c := snapAt (jobInit m j) o (if p.add then .add else .write)
  let s := if p.add && (linesOf o n).any (s.hbmBad m) then s.jobPoisoned m j else s
  let s := s.reach (jobInit m j) m o n
  match s.readChecks m (s.servingPc m o) (if p.add then linesOf o n else partLines o n) .clean (some c) with
  | (s, true) =>
    let s := (s.noteWrite m (s.servingPc m o) c).moved m (if p.add then n else 0) n
    (s.writeLines m g (s.job m j).mode p whole 5 o 0, true)
  | x => x

/-- The piece a cluster does next: the first of a job, within 384 of the first that has not retired (R184, R229), that lies in one of
its channels, or whose address halts or ends the job. -/
def State.pieceFor (s : State) (m j cluster : Nat) : Option Piece :=
  let v := s.job m j
  v.pieces.find? (fun p => p.num ≤ v.index + 384 && match (s.jobPlace m j p.va true).2 with
    | .here o => s.clusterFor m (s.servingPc m o) % 8 == cluster
    | .later => false
    | _ => true)

/-- A job with one of its pieces retired: `index` numbers the first that has not, and `retired` the later ones that have. -/
def Job.retire (v : Job) (p : Piece) : Job :=
  let rest := v.pieces.erase p
  let index := ((rest.head?).map (·.num)).getD (v.index + v.pieces.length)
  { v with pieces := rest, index := index, retired := (v.retired ++ [p.num]).filter (index < ·), bytes := v.bytes + p.data.length }

/-- A cluster does the next piece of a job in its channels (R203): the piece passes its residue check and is written; a second
mismatch writes it poisoned and ends the job. A walk-through that is due goes before it (R296, R297). A piece that meets a halt
cause stays, while other clusters' pieces may have retired (R229). -/
def execJobPiece (stack : Nat) (job : BitVec 2) (cluster : BitVec 3) (chk : Check) (s : State) : Result :=
  let j := job.toNat
  if (s.job stack j).state != 1 || !s.stackRuns stack || s.otherDue 5 (8 * stack + cluster.toNat) then .next s
  else match s.pieceFor stack j cluster.toNat with
  | none => .next s
  | some p =>
    match s.jobPlace stack j p.va true with
    | (s, .later) => .next s
    | (s, .foreign) => .next (s.jobFault stack j cNotLocal)
    | (s, .bad c) => .next (s.jobHalt stack j c p.va)
    | (u, .here o) =>
      let g := u.clusterFor stack (u.servingPc stack o)
      let chk := if p.arith then chk else .passed
      match u.writePiece stack j g p (chk == .failed) o with
      | (s, false) => .next (s.jobHalt stack j causePcFrozen p.va)
      | (s, true) =>
        let s := s.setJob stack j ((s.job stack j).retire p)
        match chk with
        | .failed =>
          let s := s.setCluster g { s.cluster g with residues := satAdd 32 (s.cluster g).residues 1 }
          .next ((s.healthEvent 5 g).jobFault stack j cMseCheck)
        | chk => .next (s.clusterCheck g chk)

/-- A job all of whose pieces are written completes: its step emits, and the slot is idle. One that read poison ends without
completing its step (R227). -/
def execJobComplete (stack : Nat) (job : BitVec 2) (s : State) : Result :=
  let j := job.toNat
  let v := s.job stack j
  if v.state = 1 && v.read && v.pieces.isEmpty && !s.rst.pllLost then
    let s := s.setJob stack j {}
    .next (if v.spoiled then s.abandonStep v.ub (isRunOf j) else s.finishStep v.ub (isRunOf j))
  else .next s

/-! ## MEM_REGION and AST_BASE (R205, R206, R545) -/

/-- Whether every ensemble is IDLE and no stream context is ACTIVE, HALTED or DRAINING. -/
def State.allQuiet (s : State) : Bool :=
  s.ens.all (fun p => p.2.st == .idle) && s.ses.all (fun p => p.2.ctxs.all (fun q => q.2.st == .idle))

/-- A write of MEM_REGION: LOCAL_GIB under R206, REJECTED cleared by a one. -/
def State.writeMemRegion (s : State) (v : W32) : State :=
  let s := { s with memRej := s.memRej && !(bitOf v 8 && s.clears 0 8) }
  if min (fld v 0 7) 64 = s.localGib then s
  else if s.allQuiet then { s with memRegion := fld v 0 7 }
  else { s.mark 0 8 with memRej := true }

def execMemRegionWrite (v : W32) (s : State) : Result := .next (s.writeMemRegion v)

/-- A write of AST_BASE (R545): under the same conditions; a change drops every cached translation. -/
def State.writeAstBase (s : State) (v : W64) : State :=
  let s := { s with astRej := s.astRej && !(bitOf v 0 && s.clears 1 0) }
  if fld v 14 26 = s.astBase then s
  else if s.allQuiet then { s with astBase := fld v 14 26 }.dropAll
  else { s.mark 1 0 with astRej := true }

def execAstBaseWrite (v : W64) (s : State) : Result := .next (s.writeAstBase v)

end Sys2Proof.Machine
end

