-- ==== Sys2Proof/Machine/Sync.lean ====
section
/-! DEFINITION. Sync objects (R189–R202): the SYNC step and command, the operations as an object's home applies them,
waiters, barriers, refusals and their records, configuration, and arrivals across chips. -/

namespace Sys2Proof.Machine

/-! ## The remote sync map (R202) -/

def mapLocal (e : W64) : Nat := fld e 0 15
def mapOut (e : W64) : Bool := bitOf e 15
def mapDev (e : W64) : Nat := fld e 16 14
def mapObj (e : W64) : Nat := fld e 31 15
def mapValid (e : W64) : Bool := bitOf e 46

/-- The VALID entry of an object in a direction. -/
def State.mapEntry (s : State) (obj : Nat) (out : Bool) : Option (Nat × W64) :=
  s.remote.find? (fun p => mapValid p.2 && mapLocal p.2 == obj && mapOut p.2 == out)

/-! ## Who asks (R199, R200) -/

/-- The ensemble an agent belongs to; 8 for none. -/
def State.agentEns (s : State) (a : Agent) : Nat :=
  match a with
  | .unit ub _ => s.ensOf ub
  | .caller e => e
  | .stream se c => s.ensOf (s.ctx se c).ub
  | _ => 8

/-- Whether an agent whose ensemble is `e` may do operation `op` on an object (R200): 0 ARRIVE, 1 WAIT, 2 SET, 3 RESET, 4 READ. A
link only arrives, and a unit or a stream does not read. -/
def State.mayOp (s : State) (a : Agent) (e obj op : Nat) : Bool :=
  let o := s.obj obj
  match a with
  | .host h => !s.isVf h.chan || (o.owner.toNat < 8 && s.vfOwns h.chan o.owner.toNat)
  | .link dev _ => op == 0 && (match s.mapEntry obj false with
    | some (_, m) => mapDev m == dev.toNat
    | none => false)
  | .caller _ => e < 8 && o.openTo e
  | _ => op < 4 && e < 8 && o.openTo e

/-- Whether an agent may do an operation on an object now. -/
def State.allowed (s : State) (a : Agent) (obj op : Nat) : Bool := s.mayOp a (s.agentEns a) obj op

/-- The source that an agent's operations come from, whose order on one object is kept (R193): a unit whatever its MODE arrivals add,
and a channel of the host whatever command it is. -/
def sourceOf (a : Agent) : Agent :=
  match a with
  | .unit ub _ => .unit ub false
  | .host h => .host { chan := h.chan, tag := 0, fence := false, quiet := false, irq := false }
  | a => a

/-- Whether a packet is an operation of a source on an object, or one of the same virtual channel to the object's home, an ARRIVE where
`arrives` is set (R193, R266, R269). -/
def operates (a : Agent) (obj : Nat) (arrives : Bool) (p : Packet) : Bool :=
  match p with
  | .arrive b o _ _ => sourceOf b == sourceOf a && (o == obj || (arrives && o / 64 == obj / 64))
  | .syncOp b o _ _ _ => sourceOf b == sourceOf a && (o == obj || (!arrives && o / 64 == obj / 64))
  | _ => false

/-- Whether an arrival is that of a MODE step. -/
def isModeArrival (a : Agent) : Bool := match a with | .unit _ m => m | _ => false

/-- Whether an object can be the barrier of a MODE step of ensemble `e` (R198). -/
def SyncObj.modeBarrier (o : SyncObj) (e : Nat) : Bool := o.tree && o.owner.toNat == e && e < 8 && o.wtk.toNat < 16

/-- The record of an overflow or refusal (R199). -/
def State.syncRec (s : State) (a : Agent) (obj code : Nat) (step : StepRef) : Rec :=
  let e := if step.ens < 8 then step.ens else s.agentEns a
  let local' (cls unit epoch : Nat) : Rec :=
    { recOf code cls unit with sev := 4, ens := e, bar := step.bar, slot := step.slot, opcode := step.opcode,
                               epoch := epoch, detail := obj }
  match a with
  | .unit ub _ => local' (unitClass (unitOf ub)).1 (unitClass (unitOf ub)).2 (s.bk ub).epoch.toNat
  | .caller e => local' 8 e (s.en e).epoch.toNat
  | .stream se c => local' 3 se (s.bk (s.ctx se c).ub).epoch.toNat
  | .host _ => { recOf code 14 (obj / 64) with sev := 1, detail := obj }
  | .link dev _ => { recOf code 14 (obj / 64) with sev := 1, detail := obj + 2 ^ 16 * dev.toNat }

/-- An overflow or refusal: the record, and for a unit or the Caller the stop of the ensemble that sent it. -/
def State.syncEvent (s : State) (a : Agent) (obj code : Nat) (step : StepRef) : State :=
  let r := s.syncRec a obj code step
  let e := if step.ens < 8 then step.ens else s.agentEns a
  let s := s.raise r
  match a with
  | .host _ => s
  | .link _ _ => s
  | _ => s.stopOn e code

/-- A refusal (R199): the object is unchanged; the host's command completes with a status. -/
def State.syncRefuse (s : State) (a : Agent) (obj code status : Nat) (step : StepRef) : State :=
  match a with
  | .link _ _ => s.syncEvent a obj (if code = cSyncDenied then cRemoteSyncDenied else code) step
  | .host h => (s.syncEvent a obj code step).answer h 0x06 status
  | _ => s.syncEvent a obj code step

/-! ## Completion (R192, R196, R197) -/

/-- The answer a waiter or an acknowledged operation gets. -/
def State.respondTo (s : State) (a : Agent) (obj : Nat) : State := s.send (.syncResp a obj)

/-- How many times an object completes now, and the object after it. -/
def SyncObj.settle (o : SyncObj) : Nat × SyncObj :=
  if o.complete || o.count < o.target then (0, o)
  else if o.auto && o.target != 0 then
    let k := o.count.toNat / o.target.toNat
    (k, { o with count := BitVec.ofNat 32 (o.count.toNat % o.target.toNat), gen := o.gen + BitVec.ofNat 8 k, waiters := [] })
  else (1, { o with complete := true, gen := o.gen + 1, waiters := [] })

/-- The multicast of one completion of a TREE object: a token to WTK of every member (R197). -/
def State.multicast (s : State) (obj : Nat) (o : SyncObj) : State :=
  let e := o.owner.toNat
  if o.tree && o.wtk.toNat < 16 && e < 8 then
    s.sendAll ((s.en e).ubs.map (fun ub => .token (homeSource obj) ub o.wtk.toNat))
  else s

/-- The forward of one completion: ARRIVE(1) to the mapped object of a peer (R202). -/
def State.forwardOut (s : State) (obj : Nat) : State :=
  match s.mapEntry obj true with
  | none => s
  | some (_, e) => s.sendFrame (newFrame s.devId (mapDev e) 1 0x6 0 obj 0 (mapObj e) [])

/-- A sparing point of an ensemble (R308, R311): a member that awaits sparing fires nothing further, and a stream engine's
ACTIVE contexts stop issuing. -/
def State.sparingPoint (s : State) (e : Nat) : State :=
  (s.en e).units.foldl (fun s u =>
    match unitKind u with
    | .tile =>
      let v := s.tserv.get {} u
      if v.awaiting then { s with tserv := s.tserv.set {} u { v with settling := true } } else s
    | .stream =>
      let n := u - 512
      let v := s.sserv.get {} n
      if v.awaiting then
        let s := { s with sserv := s.sserv.set {} n { v with settling := true } }
        (List.range 8).foldl (fun s c =>
          if (s.ctx n c).st = .active then s.setCtx n c { s.ctx n c with parked := true } else s) s
      else s
    | _ => s) s

/-- The barrier that a TREE object with a token is for the ensemble that owns it: it ends in FAULTED after a UNIT_ABSENT
record (R15), and is a sparing point (R308). -/
def State.treeDone (s : State) (o : SyncObj) : State :=
  if o.tree && o.wtk.toNat < 16 && o.owner.toNat < 8 then (s.barrier o.owner.toNat).sparingPoint o.owner.toNat else s

/-- The completion check after COUNT or TARGET changed (R192). -/
def State.settleObj (s : State) (obj : Nat) : State :=
  let o := s.obj obj
  let (k, o') := o.settle
  if k = 0 then s
  else
    let s := s.setObj obj o'
    let s := o.waiters.foldl (fun s a => s.respondTo a obj) s
    ((List.range k).foldl (fun s _ => (s.multicast obj o).forwardOut obj) s).treeDone o

/-- ARRIVE(n) applied: the count saturates at 2³² − 1 with OVF and a record (R199). -/
def State.applyArrive (s : State) (a : Agent) (obj n : Nat) (step : StepRef) : State :=
  let o := s.obj obj
  let sum := o.count.toNat + n
  let past := 2 ^ 32 ≤ sum
  let s := s.setObj obj { o with count := BitVec.ofNat 32 (min sum (2 ^ 32 - 1)), ovf := o.ovf || decide past }
  let s := s.settleObj obj
  if past then s.syncEvent a obj cSyncOverflow step else s

/-! ## The SYNC step and command (R194) -/

/-- An operation other than ARRIVE leaves for its object; a READ travels as operation 4. -/
def State.sendSync (s : State) (a : Agent) (o : SyncOps) : State := s.sendOp a o.obj (min o.op 4) o.value o.auto

/-- A fired SYNC step sends its operation; an ARRIVE is posted and the step completes, the others wait for their answer. -/
def State.syncStep (s : State) (ub : Nat) (f : Fired) : State :=
  let o := syncOf (opnd f.q.word 0 80)
  let a := Agent.unit ub false
  if o.op = 0 then (s.send (.arrive a o.obj o.value f.q.ref)).finish ub f
  else (s.markActed ub f).sendSync a o

def execSync (i : SyncIssuer) (s : State) : Result :=
  match i with
  | .step ub => s.onFired ub 0x03 (fun s f => s.syncStep ub f)
  | .host h ops =>
    s.command h (fun s =>
      let o := syncOf ops.toNat
      if syncBad ops.toNat true then s.answer h 0x06 stMalformed
      else if o.op = 0 then s.send (.arrive (.host h) o.obj o.value {})
      else s.sendSync (.host h) o)

/-! ## The operations at the home (R192, R193) -/

/-- The packet of an arrival on its way, with the step it comes from. -/
def State.arrivalStep (s : State) (a : Agent) (obj n : Nat) : StepRef :=
  (s.net.findSome? (fun p => match p with
    | .arrive b o m st => if b == a && o == obj && m == n then some st else none
    | _ => none)).getD {}

/-- An ARRIVE reaches the object's home, behind the operations that its source sent to the object before (R193). It is judged by
the ensemble of the step that sent it, so that a stop does not undo it on its way (R191). -/
def execArrive (a : Agent) (obj : BitVec 15) (n : W32) (s : State) : Result :=
  let k := obj.toNat
  let step := s.arrivalStep a k n.toNat
  let p := Packet.arrive a k n.toNat step
  let late := s.overtakes (operates a k true) p
  let s := if late then s else s.take p
  let e := if step.ens < 8 then step.ens else s.agentEns a
  let o := s.obj k
  if late then .next s
  else if !s.mayOp a e k 0 || (isModeArrival a && !o.modeBarrier e) then
    .next (s.syncRefuse a k cSyncDenied stDenied step)
  else if o.tree && (s.en o.owner.toNat).st != .running then .next (s.syncRefuse a k cSyncTreeIdle stNotIdle step)
  else
    let s := s.applyArrive a k n.toNat step
    match a with
    | .host h => .next (s.answer h 0x06 stOk)
    | _ => .next s

/-- The step of a unit that waits for an answer. -/
def State.waitingStep (s : State) (a : Agent) : StepRef :=
  match a with
  | .unit ub _ => ((s.firedStep ub (fun f => opOf f.q.word == 0x03 && f.acted)).map (fun f => f.q.ref)).getD {}
  | .caller e => (((s.en e).fetched).map (fun b => ({ bar := b.index } : StepRef))).getD {}
  | .stream se c => ((s.firedStep (s.ctx se c).ub (isStreamOf c)).map (fun f => f.q.ref)).getD {}
  | _ => {}

/-- The unit's SYNC step that waits at an object. -/
def waitsAt (obj : Nat) (f : Fired) : Bool :=
  opOf f.q.word == 0x03 && f.acted && (syncOf (opnd f.q.word 0 80)).obj == obj

/-- The SYNC step whose operation is refused gets no answer: it ends without completing (R67, R199). -/
def State.endRefused (s : State) (a : Agent) (obj : Nat) : State :=
  match a with
  | .unit ub _ => s.abandonStep ub (waitsAt obj)
  | _ => s

/-- Takes an operation off the network and applies it where its source may do it; one that an earlier operation of its source on
the object is still ahead of does not arrive yet (R193). -/
def State.atHome (s : State) (a : Agent) (obj op value : Nat) (auto : Bool) (f : State → State) : State :=
  let p := Packet.syncOp a obj op value auto
  if s.overtakes (operates a obj false) p then s
  else
  let s := s.take p
  if s.allowed a obj op then f s
  else ((s.opAnswered a obj).syncRefuse a obj cSyncDenied stDenied (s.waitingStep a)).endRefused a obj

/-- A WAIT at the home (R196): released at once on a COMPLETE object, else one of four slots, else the answer SLOTS_FULL. -/
def State.applyWait (s : State) (a : Agent) (obj : Nat) : State :=
  let o := s.obj obj
  if o.complete then s.respondTo a obj
  else if o.waiters.length < 4 then s.setObj obj { o with waiters := o.waiters ++ [a] }
  else
    let s := s.opAnswered a obj
    match a with
    | .host h => s.answer h 0x06 stBusy
    | a => { s with slotWaits := s.slotWaits ++ [(a, obj)] }

def execWait (a : Agent) (obj : BitVec 15) (s : State) : Result :=
  .next (s.atHome a obj.toNat 1 0 false (fun s => s.applyWait a obj.toNat))

def execSet (a : Agent) (obj : BitVec 15) (v : W32) (s : State) : Result :=
  let k := obj.toNat
  .next (s.atHome a k 2 v.toNat false (fun s =>
    ((s.setObj k { s.obj k with count := v }).settleObj k).respondTo a k))

def execReset (a : Agent) (obj : BitVec 15) (target : W32) (auto : Bool) (s : State) : Result :=
  let k := obj.toNat
  .next (s.atHome a k 3 target.toNat auto (fun s =>
    ((s.setObj k { s.obj k with count := 0, target := target, auto := auto, complete := false }).settleObj k).respondTo a k))

/-- The image of an object (R190). -/
def State.imageOf (s : State) (obj : Nat) : BitVec 128 :=
  let o := s.obj obj
  let n := o.count.toNat + 2 ^ 32 * o.target.toNat + 2 ^ 64 * o.gen.toNat + 2 ^ 72 * flag o.complete + 2 ^ 73 * flag o.auto
    + 2 ^ 74 * flag o.tree + 2 ^ 75 * flag o.ovf + 2 ^ 76 * o.owner.toNat + 2 ^ 80 * o.wtk.toNat
    + 2 ^ 85 * (2 ^ o.waiters.length - 1)
    + 2 ^ 89 * flag (s.mapEntry obj true).isSome + 2 ^ 90 * flag (s.mapEntry obj false).isSome
  BitVec.ofNat 128 n

/-- A READ at the home: its image is on its way back; only the host reads by a packet (R194, R200). -/
def execRead (a : Agent) (obj : BitVec 15) (s : State) : Result :=
  let k := obj.toNat
  .next (s.atHome a k 4 0 false (fun s => s.send (.image a k (s.imageOf k))))

/-! ## Answers (R194, R196) -/

/-- The image on its way to an agent. -/
def State.imageFor (s : State) (a : Agent) (obj : Nat) : Option (BitVec 128) :=
  s.net.findSome? (fun p => match p with
    | .image b o v => if b == a && o == obj then some v else none
    | _ => none)

/-- Whether a packet is an answer of an object's home to an agent. -/
def answersOf (a : Agent) (obj : Nat) (p : Packet) : Bool :=
  match p with
  | .syncResp b o => b == a && o / 64 == obj / 64
  | .image b o _ => b == a && o / 64 == obj / 64
  | _ => false

/-- A release, acknowledgement or image reaches the agent that asked, behind what the home sent it before (R269). -/
def execSyncResp (a : Agent) (obj : BitVec 15) (s : State) : Result :=
  let k := obj.toNat
  if s.overtakes (answersOf a k) ((s.imageFor a k).elim (.syncResp a k) (.image a k)) then .next s
  else match s.imageFor a k with
  | some v =>
    let s := (s.take (.image a k v)).opAnswered a k
    (match a with
    | .host h => .next (s.complete h 0x06 stOk v)
    | _ => .next s)
  | none =>
    if !s.net.contains (.syncResp a k) then .next s
    else
      let s := (s.take (.syncResp a k)).opAnswered a k
      match a with
      | .unit ub _ => .next (s.finishStep ub (waitsAt k))
      | .caller e => .next (s.setEn e { s.en e with brRelease := true, brWaiting := false })
      | .stream se c => .next (s.resumeCtx se c)
      | .host h => .next (s.answer h 0x06 stOk)
      | .link _ _ => .next s

/-- A WAIT that found all four slots occupied is sent again (R196). -/
def execWaitRetry (a : Agent) (obj : BitVec 15) (s : State) : Result :=
  let k := obj.toNat
  if s.slotWaits.contains (a, k) && !s.rst.pllLost then
    let s := { s with slotWaits := dropFirst s.slotWaits (a, k) }
    .next (s.sendOp a k 1 0 false)
  else .next s

/-! ## Configuration (R201, R202) -/

/-- SYNC_CONFIG. The status of a refused change is the model's choice of DENIED. -/
def execSyncConfig (h : Issuer) (obj : BitVec 15) (owner : BitVec 4) (tree : Bool) (wtk : BitVec 5) (s : State) : Result :=
  s.command h (fun s =>
    let k := obj.toNat
    let o := s.obj k
    let n := owner.toNat
    if s.isVf h.chan then s.answer h 0x07 stDenied
    else if 9 ≤ n && n ≤ 14 then s.answer h 0x07 stMalformed
    else if o.owner = owner && o.tree = tree && o.wtk = wtk then s.answer h 0x07 stOk
    else if tree && 8 ≤ n then s.answer h 0x07 stDenied
    else if o.owner.toNat < 8 && ((s.en o.owner.toNat).st == .loaded || (s.en o.owner.toNat).st == .running) then
      s.answer h 0x07 stDenied
    else (s.setObj k { o with owner := owner, tree := tree, wtk := wtk }).answer h 0x07 stOk)

def execRemoteMap (h : Issuer) (index : BitVec 12) (entry : W64) (s : State) : Result :=
  s.command h (fun s =>
    if s.isVf h.chan then s.answer h 0x08 stDenied
    else if bitOf entry 30 || fld entry 47 17 != 0 then s.answer h 0x08 stMalformed
    else if !mapValid entry then { s with remote := Map.erase s.remote index.toNat }.answer h 0x08 stOk
    else match s.mapEntry (mapLocal entry) (mapOut entry) with
      | some (i, _) =>
        if i = index.toNat then { s with remote := s.remote.set 0 index.toNat entry }.answer h 0x08 stOk
        else s.answer h 0x08 stConflict
      | none => { s with remote := s.remote.set 0 index.toNat entry }.answer h 0x08 stOk)

/-! ## The end of an arrival across chips: the frame itself is Zegus' (ARRIVE_FRAME) -/

/-- An ARRIVE frame delivered by link die `die` becomes one TOKEN packet on the floor (R202). -/
def State.arriveFromLink (s : State) (die : Nat) (f : Frame) : State :=
  s.send (.arrive (.link f.src die) (fld f.addr 0 15) 1 {})

end Sys2Proof.Machine
end

