-- ==== Sys2Proof/Machine/Integrity.lean ====
section
/-! DEFINITION. Result integrity and unit health (R285–R289, R308–R316, R430, R549): trailing verdicts, sparing, and how
records reach the log and the event rings. -/

namespace Sys2Proof.Machine

/-! ## Trailing verdicts (R287, R289) -/

def execVerdictTimeout (se : Nat) (ctx : BitVec 3) (slot : Nat) (s : State) : Result :=
  .next (s.verdictLate se ctx.toNat slot)

/-! ## Sparing (R308–R311) -/

/-- Whether a bank of a position that awaits sparing is at its sparing point: its ensemble is not RUNNING, or its sparing point has come
(R308). -/
def State.atSparing (s : State) (ub : Nat) (settling : Bool) : Bool := !s.runs ub || settling

/-- Whether a tile that awaits sparing has come to rest: both its banks are at the sparing point and their fired steps are complete,
but for passes whose FAILED block the spare is to replay (R308, R309). -/
def State.mayMigrate (s : State) (u : Nat) (settling : Bool) : Bool :=
  s.atSparing u settling && s.atSparing (u + 1024) settling && (s.firedAll u).all (·.replay)

/-- Whether a stream sends early from a tile a block that is not settled (R284, R308). -/
def State.sendsEarly (s : State) (u : Nat) : Bool :=
  (List.range 8).any (fun c => (s.ctx (pairSe u) c).unsettled.any (fun x => x.tile == u))

/-- The state a spare tile takes over (R309): everything but the weights and the column map; its generators are seeded
again, and its journal, its PSEQ and its walk-through interval belong to the position. -/
def spareTile (t : Tile) : Tile :=
  { t with active := {}, shadow := {}, spares := [], gens := [], gpoison := false, genEra := t.genEra + 1,
           blocks := t.blocks.filter (fun p => !p.2.empty), family := 0 }

/-- A unit's health state as a spare starts: PROBATION, with nothing counted (R309); its walk-through interval goes on (R297, R311). -/
def State.freshHealth (s : State) (cls unit : Nat) : State :=
  match healthIdx cls unit with
  | none => s
  | some i => s.setHl i { walked := (s.hl i).walked }

/-- Whether a locate re-run is at work or due, which a migration does not interrupt (R292). -/
def Tile.locating (t : Tile) : Bool :=
  match t.repair with
  | .locate .. => true
  | _ => false

/-- A retired tile's position goes to the spare of its tier die that its retirement was promised, or becomes unserved where it was
promised none (R309, R310). TILE_SPARED names in DETAIL[0] a column sparing that the tile's retirement abandoned; of a position with no
spare, HEALTH_CHANGED does (R24). -/
def execTileMigration (tile : Nat) (s : State) : Result :=
  let v := s.tserv.get {} tile
  let t := s.tile tile
  if 512 ≤ tile || s.rst.pllLost || !v.awaiting || t.locating || s.sendsEarly tile || !s.mayMigrate tile v.settling then .next s
  else match v.next with
    | none =>
      let s := { s with tserv := s.tserv.set {} tile { unserved := true, spare := v.spare } }
      .next (if v.dropped then s.raise { recOf cHealthChanged 0 tile with before := 3, after := 3, detail := 1 } else s)
    | some k =>
      let s := { s with tserv := s.tserv.set {} tile { spare := some k } }
      let s := s.setTile tile (spareTile t)
      let s := (s.freshHealth 0 tile).freshHealth 2 tile
      let s := [0, 1, 2, 3].foldl (fun s a => s.freshHealth 1 (4 * tile + a)) s
      .next (s.raise { recOf cTileSpared 0 tile with detail := flag v.dropped })

/-- Whether an engine's contexts are at rest: none drains, none has a transaction outstanding (R311). -/
def Se.atRest (v : Se) : Bool := v.ctxs.all (fun p => p.2.st != .draining && p.2.outs.isEmpty)

/-- A retired engine's position goes to the spare of its row pair that its retirement was promised, whose contexts go on, or becomes
unserved; translations are not copied, and the walk-through counter is (R311). -/
def execSeMigration (se : Nat) (s : State) : Result :=
  let v := s.sserv.get {} se
  if 256 ≤ se || s.rst.pllLost || !v.awaiting || !(s.se se).atRest || !(s.atSparing (512 + se) v.settling && s.atSparing (1536 + se) v.settling) then .next s
  else match v.next with
    | none => .next { s with sserv := s.sserv.set {} se { unserved := true, spare := v.spare } }
    | some k =>
      let s := { s with sserv := s.sserv.set {} se { spare := some k }, tlbs := s.tlbs.set [] (seInit se) [] }
      let s := s.setSe se { s.se se with ctxs := (s.se se).ctxs.map (fun (p : Nat × Ctx) => (p.1, { p.2 with parked := false })) }
      .next ((s.freshHealth 3 se).raise (recOf cSeSpared 3 se))

/-! ## Records (R312, R316, R549) -/

/-- A record from the part's own logic reaches the keeper; the unit it is about has sent it as a packet (R277). -/
def execRecord (code cls sev unit detail : Nat) (s : State) : Result :=
  .next (s.raise { recOf code cls unit with sev := if sev ≤ 5 then sev else sevOf code, detail := detail })

/-- A period of one second for a COUNTED code ends (R549). -/
def execCountPeriod (cls unit code : Nat) (s : State) : Result :=
  let mine (f : Nat × Nat × Nat × Fold) : Bool := f.1 == cls && f.2.1 == unit && f.2.2.1 == code
  let k := s.keeper
  match k.folds.find? mine with
  | none => .next s
  | some f =>
    let n := f.2.2.2.count
    let r := f.2.2.2.last
    if n = 0 then .next { s with keeper := { k with folds := remFirst mine k.folds } }
    else
      let s := { s with keeper := { k with folds := modFirst mine (fun f => (f.1, f.2.1, f.2.2.1, ({} : Fold))) k.folds } }
      .next (s.emit { r with detail := r.detail % 256 + n * 256 })

/-- The 64 bytes of a record (R312). -/
def recBytes (r : Rec) : List Byte :=
  let l := leBytes 2 r.code ++ leBytes 1 r.cls ++ leBytes 1 r.sev ++ leBytes 4 r.unit ++ leBytes 8 r.ltc
    ++ leBytes 4 r.bar ++ leBytes 2 r.slot ++ leBytes 1 r.opcode ++ leBytes 1 r.ens ++ leBytes 4 r.pseq
    ++ leBytes 2 r.device ++ leBytes 1 (r.before + r.after * 4 + flag r.changed * 16) ++ leBytes 1 r.epoch
    ++ leBytes 2 (patt 16 r.temp) ++ leBytes 2 r.volt ++ leBytes 2 r.sensor
    ++ leBytes 2 (flag r.window + flag r.truncated * 2)
    ++ leBytes 4 r.winFirst ++ leBytes 4 r.winLast ++ leBytes 8 r.winLtc ++ leBytes 4 r.detail
  l ++ leBytes 4 (crc32c (l ++ zeros 4))

/-- The bus address of a channel's event ring (R423, R424). -/
def State.eqBase (s : State) (c : Nat) : Nat :=
  if 4096 ≤ c then 4096 * fld (s.fn (64 * (c - 4096))).adminEq 12 52 else field (s.chan c).entry 0x18 8

/-- Whether an event ring has room (R427). -/
def State.eqRoom (s : State) (c : Nat) : Bool :=
  let v := s.chan c
  s.eqLog2 c != 0 && (v.eqTail - v.eqHead).toNat < 2 ^ s.eqLog2 c - 1

/-- Writes a record into an event ring. -/
def State.putEvent (s : State) (c : Nat) (r : Rec) : State :=
  let v := s.chan c
  let a := s.eqBase c + 64 * (v.eqTail.toNat % 2 ^ s.eqLog2 c)
  (s.hostWrite (s.chanPort c) a (recBytes r)).setChan c { v with eqTail := v.eqTail + 1, unsignalled := v.unsignalled + 1 }

/-- CHANNEL_ERROR, and for a channel its end (R425, R427); the admin ring stops fetching. -/
def State.channelError (s : State) (c : Nat) : State :=
  let v := s.chan c
  let s := if 4096 ≤ c then s.setChan c { v with stopped := true } else s.setChan c { v with enabled := false }
  s.raise { recOf cChannelError 10 (s.chanPort c / 2) with detail := c }

/-- A held record is delivered once its ring has room; a ring that missed records gets EVENTS_DROPPED with their number. -/
def execEventDelivery (chan : Nat) (s : State) : Result :=
  let v := s.chan chan
  if s.rst.pllLost || !s.eqRoom chan || (v.events.isEmpty && v.dropped = 0) then .next s
  else if !(s.port (s.chanPort chan)).up then
    if 4096 ≤ chan then .next s else .next (s.channelError chan)
  else match v.events with
    | r :: rest => .next ((s.setChan chan { v with events := rest }).putEvent chan r)
    | [] =>
      let r := s.dress { recOf cEventsDropped 11 0 with detail := v.dropped }
      .next (((s.setChan chan { v with dropped := 0 }).logRec r).putEvent chan r)

end Sys2Proof.Machine
end

