-- ==== Sys2Proof/Machine/Fabric.lean ====
section
/-! DEFINITION. The logic fabric as the rest of the part sees it (R325, R340–R349) and its DSP blocks (R328–R334): the
global nets' divisors, the network gateways, and the DSP instructions. What the user's logic computes is the user's. -/

namespace Sys2Proof.Machine

/-! ## Global nets (R325, R326) -/

/-- FAB_CLKk after reset: DIV 8, and EN for net 0 only. -/
def fclkReset (k : Nat) : W32 := if k = 0 then 0x2008 else 8

/-- FAB_CLKk without REJECTED; the state lists what differs from the reset value. -/
def State.fclk (s : State) (k : Nat) : W32 := s.loader.fclks.get 0 k ^^^ fclkReset k

/-- Sets a net's divisor and enable. -/
def State.setFclk (s : State) (k : Nat) (v : W32) : State :=
  { s with loader := { s.loader with fclks := s.loader.fclks.set 0 k (v ^^^ fclkReset k) } }

/-- Whether global net `k` runs (R325, R326, R398). -/
def State.netRuns (s : State) (k : Nat) : Bool := k < 32 && bitOf (s.fclk k) 13 && !s.rst.pllLost

/-- DIV in its range (R325). -/
def divOk (v : W32) : Bool := 8 ≤ fld v 0 13 && fld v 0 13 ≤ 4096

/-- A write of FAB_CLKk: a DIV outside its range is ignored and sets REJECTED; net 0 always runs. -/
def State.writeFclk (s : State) (n : Nat) (v : W32) : State :=
  let rej := putBit s.fclkRej n (!divOk v || (bitOf s.fclkRej n && !(bitOf v 14 && s.clears (32 + n) 14)))
  let div := if divOk v then fld v 0 13 else fld (s.fclk n) 0 13
  let en := if n = 0 then true else bitOf v 13
  { (if divOk v then s else s.mark (32 + n) 14) with fclkRej := rej }.setFclk n (BitVec.ofNat 32 (div + 2 ^ 13 * flag en))

def execFabClkWrite (k : BitVec 5) (v : W32) (s : State) : Result := .next (s.writeFclk k.toNat v)

/-! ## Gateways (R340–R349) -/

/-- The initiator of a gateway (R276, R340). -/
def gwInit (g : Nat) : Nat := 0x380 + g

/-- Whether a gateway's region is absent: isolated (R347, R364). -/
def State.regionAbsent (s : State) (g : Nat) : Bool := (s.region (s.gw g).region).isolated

def gwMask (w : W128) : Nat := fld w 4 4
def gwAddr (w : W128) : Nat := fld w 20 48

/-- Whether a command word is malformed (R341, R342); `busy` are the tags outstanding. -/
def gwBad (w : W128) (busy : List Byte) : Bool :=
  let op := fld w 0 3
  6 ≤ op || bitOf w 19 || fld w 68 60 != 0
    || (if op = 5 then gwMask w != 0 else gwMask w == 0)
    || (op ≤ 2 && (fld w 16 2 == 0 || fld w 20 8 != 0))
    || ((op == 3 || op == 4) && fld w 29 16 % 4 != 0)
    || busy.contains (BitVec.ofNat 8 (fld w 8 8))

/-- The status of a halt cause. -/
def gwStatusOf (cause : Nat) : Nat :=
  if cause = causeAbsent then gwAbsent else if cause = causePcFrozen then gwPcFrozen
  else if cause = causeHostErr then gwHostErr else gwPermission

/-- The memory request of a gateway command (R233, R343, R346). -/
def gwRequest (g m o : Nat) (c : GwCmd) : Req :=
  let w := c.word
  { stack := m, block := o, kind := if c.op = 0 then .read else if c.op = 1 then .write else .add,
    mask := BitVec.ofNat 4 (gwMask w), cls := BitVec.ofNat 2 (fld w 16 2), vcrit := false, init := BitVec.ofNat 12 (gwInit g),
    sub := 0, seq := BitVec.ofNat 32 c.seq, epoch := 0, poisoned := c.op == 1 && bitOf w 18 || c.op == 2 && bitOf w 18,
    first := 0, last := 255, data := if c.op = 0 then [] else c.data,
    xform := if c.op = 2 then .scatterAdd (if bitOf w 3 then 0x18 else 0x1C) (BitVec.ofNat 8 (fld c.ctl 16 8)) else .none }

/-- The stream ID by which a gateway's traffic to the partner is told from a stream engine's. -/
def gwSid (g : Nat) : Nat := 2048 + g

/-- Issues a READ, WRITE or ADD (R343): to HBM as a request, to a host page through its port, to the partner as a frame. -/
def State.gwIssue (s : State) (g : Nat) (c : GwCmd) : State :=
  let w := c.word
  let asid := fld c.ctl 1 10
  match s.locate (gwInit g) asid (gwAddr w) (c.op != 0) with
  | (s, none) => s
  | (s, some (.bad e)) => s.gwDone g c (gwStatusOf e) []
  | (s, some (.hbm m o)) => s.request (gwRequest g m o c)
  | (s, some (.host q a)) =>
    if c.op = 2 then s.gwDone g c gwPermission []
    else if c.op = 0 then match s.hostFetch (gwInit g) q a 256 with
      | (s, some l) => s.gwDone g c 0 l
      | (s, none) => s.gwDone g c gwHostErr []
    else if !s.portHere q then s.gwDone g c gwHostErr []
    else
      let s := (onesOf (gwMask w) 4).foldl (fun s j =>
        if bitOf w 18 then
          let (s, l) := s.drawBytes 64
          s.hostWrite q (a + 64 * j) l
        else s.hostWrite q (a + 64 * j) ((c.data.drop (64 * j)).take 64)) s
      (s.tally (gwInit g) 1 (64 * (onesOf (gwMask w) 4).length)).gwDone g c 0 []
  | (s, some (.partner a)) =>
    if c.op = 2 then s.gwDone g c gwPermission []
    else
      let s := s.countReq (gwInit g) 0 c.seq 0
      { s with partner := { s.partner with memory := s.partner.memory ++
          [.request a (c.op != 0) (BitVec.ofNat 4 (gwMask w)) (BitVec.ofNat 32 c.seq) (BitVec.ofNat 16 (gwSid g))
            (if c.op = 0 then [] else c.data) (c.op != 0 && bitOf w 18)] } }

/-- A write that is not acknowledged yet. -/
def GwCmd.unacked (c : GwCmd) : Bool := (c.op == 1 || c.op == 2 || c.op == 4) && c.status.isNone

/-- The TOKEN of command `c` leaves for its unit, which answers for it (R345); while TOKEN_EN is 0 it is discarded. -/
def State.gwTokenNow (s : State) (g : Nat) (c : GwCmd) : State :=
  if bitOf c.ctl 14 then
    let s := s.setGw g { s.gw g with cmds := modFirst (· == c) (fun c => { c with sent := true }) (s.gw g).cmds }
    s.send (.token (gwSource g) (fld c.word 20 10 + 1024 * (s.en (fld c.ctl 11 3)).bank) (fld c.word 30 4))
  else s.gwTokenRefused g c

/-- Sends every TOKEN that no earlier write holds back. -/
def State.gwTokens (s : State) (g : Nat) (l : List GwCmd) : State :=
  match l with
  | [] => s
  | c :: r =>
    if c.unacked then s
    else if c.op == 5 && c.status.isNone && !c.sent then (s.gwTokenNow g c).gwTokens g r
    else s.gwTokens g r

/-- TS_READ and TS_WRITE (R344). A tile store is not reached while TS_EN is 0: the model answers PERMISSION. -/
def State.gwTile (s : State) (g : Nat) (c : GwCmd) : State :=
  let w := c.word
  let tile := fld w 20 9
  let line := fld w 29 16
  if !bitOf c.ctl 15 || 57344 ≤ line then s.gwDone g c gwPermission []
  else if !s.unitHere tile then (s.tally (gwInit g) 1 (if c.op = 3 then 0 else 64 * (onesOf (gwMask w) 4).length)).gwDone g c gwUnitAbsent []
  else
    let ks := onesOf (gwMask w) 4
    let s := s.tally (gwInit g) 1 (64 * ks.length)
    if c.op = 3 then
      let s := ks.foldl (fun s k => s.tsLoad tile (64 * (line + k)) 64) s
      let l := [0, 1, 2, 3].flatMap (fun k => if ks.contains k then s.tsRead tile (64 * (line + k)) 64 else zeros 64)
      s.gwDone g c (if ks.any (fun k => s.tsBad tile (64 * (line + k)) 64) then gwPoisoned else 0) l
    else
      let s := ks.foldl (fun s k => s.tsPut tile (64 * (line + k)) ((c.data.drop (64 * k)).take 64) (bitOf w 18)) s
      s.gwDone g c 0 []

/-- Whether a command's address can be translated now. -/
def State.gwReady (s : State) (g : Nat) (w : W128) (ctl : W32) : Bool :=
  2 < fld w 0 3 || (s.locate (gwInit g) (fld ctl 1 10) (gwAddr w) (fld w 0 3 != 0)).2.isSome

/-- A command as a gateway takes it from the fabric. -/
def gwTaken (v : Gateway) (w : W128) (data : List Byte) : GwCmd :=
  { tag := BitVec.ofNat 8 (fld w 8 8), op := fld w 0 3, word := w, data := data, seq := v.seq, ctl := v.ctl }

/-- A gateway accepts a command of operation `op` (R340, R347, R348); one whose address cannot be translated yet is not
taken from the fabric. -/
def State.gwAccept (s : State) (g op : Nat) (w : W128) (data : List Byte) : State :=
  let v := s.gw g
  if 28 ≤ g || !s.netRuns 0 || s.regionAbsent g || s.resetting 3 v.region || !bitOf v.ctl 0 || 256 ≤ v.cmds.length || (fld w 0 3 != op && fld w 0 3 < 6) then s
  else
    let c := gwTaken v w data
    let s' := s.setGw g { v with cmds := v.cmds ++ [c], seq := (v.seq + 1) % 2 ^ 32 }
    if !s'.gwReady g w v.ctl then s
    else
    let s := s'
    if gwBad w (v.cmds.map (·.tag)) then s.gwDone g c gwMalformed []
    else match op with
      | 5 => s.gwTokens g (s.gw g).cmds
      | 3 => s.gwTile g c
      | 4 => s.gwTile g c
      | _ => s.gwIssue g c

def execGwRead (gw : Nat) (cmd : W128) (s : State) : Result := .next (s.gwAccept gw 0 cmd [])
def execGwWrite (gw : Nat) (cmd : W128) (data : List Byte) (s : State) : Result := .next (s.gwAccept gw 1 cmd data)
def execGwAdd (gw : Nat) (cmd : W128) (data : List Byte) (s : State) : Result := .next (s.gwAccept gw 2 cmd data)
def execTsRead (gw : Nat) (cmd : W128) (s : State) : Result := .next (s.gwAccept gw 3 cmd [])
def execTsWrite (gw : Nat) (cmd : W128) (data : List Byte) (s : State) : Result := .next (s.gwAccept gw 4 cmd data)
def execGwToken (gw : Nat) (cmd : W128) (s : State) : Result := .next (s.gwAccept gw 5 cmd [])

/-- A command that has its answer completes: the fabric is shown its TAG, STATUS and data; STATUS 2–7 is an error (R342,
R348, R349). -/
def execGwResponse (gw : Nat) (tag : Byte) (s : State) : Result :=
  let v := s.gw gw
  match v.cmds.find? (fun c => c.tag == tag && c.status.isSome) with
  | some c =>
    let st := c.status.getD 0
    let bad := 2 ≤ st
    let s := (if bad then s.mark (64 + gw) 10 else s).setGw gw { v with cmds := dropFirst v.cmds c, err := v.err || bad, shown := some (tag, st, c.data) }
    if bad then .next (s.raise { recOf cGwError 12 v.region with detail := gw }) else .next s
  | none => .next s

/-- The command of a gateway that request `seq` belongs to. -/
def State.gwCmd (s : State) (g seq : Nat) : Option GwCmd :=
  (s.gw g).cmds.find? (fun c => c.seq == seq && c.status.isNone)

/-- The answer to a command whose region became absent goes into the sink (R347). Any other packet is answered ABSENT, marked "region
absent" while it is (R347): the answer goes to no unit. -/
def State.gwSunk (s : State) (g seq : Nat) : State :=
  let v := s.gw g
  match v.sink.find? (fun c => c.seq == seq) with
  | some c => s.setGw g { v with sink := dropFirst v.sink c }
  | none => s.send (.absent (gwStray g (s.regionAbsent g)))

/-- Read data for a gateway (R342). -/
def State.gwResp (s : State) (g : Nat) (seq : Nat) (bad : Bool) (data : List Byte) : State :=
  match s.gwCmd g seq with
  | none => s.gwSunk g seq
  | some c => s.gwDone g c (if bad then gwPoisoned else 0) data

/-- The status of an acknowledgement for a gateway. -/
def gwAckStatus (st : AckStatus) : Nat :=
  match st with
  | .pcFrozen => gwPcFrozen
  | .hostErr => gwHostErr
  | .permission => gwPermission
  | .refused => gwPermission
  | .absent => gwUnitAbsent
  | _ => 0

/-- An acknowledgement for a gateway; RETRY is absorbed, and the request issued again later (R342). -/
def State.gwAck (s : State) (g : Nat) (seq : Nat) (st : AckStatus) : State :=
  match s.gwCmd g seq with
  | none => if st = .retry && (s.gw g).sink.any (fun c => c.seq == seq && c.op != 0) then s else s.gwSunk g seq
  | some c =>
    if st = .retry then s
    else
      let s := s.gwDone g c (gwAckStatus st) []
      s.gwTokens g (s.gw g).cmds

/-- A request of a gateway issued again, one in its sink too, so that a write already issued completes (R347); what it ends may let a
TOKEN go. -/
def State.gwRetry (s : State) (g seq : Nat) : State :=
  match s.gwCmd g seq with
  | none => match (s.gw g).sink.find? (fun c => c.seq == seq && 1 ≤ c.op && c.op ≤ 2) with
    | some c => s.gwIssue g c
    | none => s
  | some c =>
    if c.op ≤ 2 then
      let s := s.gwIssue g c
      s.gwTokens g (s.gw g).cmds
    else s

/-- A region that becomes absent: what its gateways have issued retires into a sink, what they have not is dropped, and they answer
nothing (R347). -/
def State.absentGateways (s : State) (r : Nat) : State :=
  (List.range 28).foldl (fun s g =>
    let v := s.gw g
    if v.region = r then
      s.setGw g { v with cmds := [], sink := v.sink ++ v.cmds.filter (fun c => c.op ≤ 2 && c.status.isNone) }
    else s) s

/-! ## DSP blocks (R328–R334) -/

/-- The region of a DSP block: 512 in the static region, then 128 a region (R350). -/
def dspRegion (b : Nat) : Nat := if b < 512 then 0 else 1 + (b - 512) / 128

def minAcc : Int := -(2 ^ 55)
def maxAcc : Int := 2 ^ 55 - 1

/-- An accumulator after a sum, held at the limit of its sign (R334). -/
def Dsp.put (d : Dsp) (acc1 : Bool) (x : Int) : Dsp :=
  let y := max minAcc (min maxAcc x)
  let d := { d with sat := d.sat || x != y }
  if acc1 then { d with a1 := BitVec.ofInt 56 y } else { d with a0 := BitVec.ofInt 56 y }

def Dsp.acc (d : Dsp) (acc1 : Bool) : Int := if acc1 then d.a1.toInt else d.a0.toInt

/-- The program word at a block's PC (R328). -/
def State.dspWord (s : State) (b : Nat) : BitVec 24 := nth (s.logic.programs.get [] b) (s.dsp b).pc.toNat 0

/-- The opcode and the operand bits of a program word. -/
def dspOp (w : BitVec 24) : Nat := fld w 20 4
def dspOps (w : BitVec 24) : BitVec 20 := BitVec.ofNat 20 w.toNat

/-- The operand bits that each opcode uses, by opcode (R329). -/
def dspUsed (op : Nat) : BitVec 20 :=
  nth [0, 0x80000, 0xC0000, 0xC0000, 0xC0000, 0x80000, 0xFE000, 0x1F, 0xFFF, 0, 0x3F, 0] op 0

/-- Whether a program word is an instruction: its opcode is not reserved and the bits it does not use are zero (R329). -/
def dspOk (w : BitVec 24) : Bool := dspOp w < 12 && (dspOps w &&& ~~~dspUsed (dspOp w)) == 0

/-- Whether an instruction may follow a REPEAT: NOP, CLR, MUL, MAC and MSU (R330). -/
def mayRepeat (w : BitVec 24) : Bool := dspOp w < 5

/-- Whether a block is clocked: its net runs, and its region is not held in reset (R328, R360). -/
def State.dspClocked (s : State) (b : Nat) : Bool :=
  b < 6144 && !(s.region (dspRegion b)).held && s.netRuns (s.logic.dspNets.get 0 b).toNat

/-- A product arrives at its accumulator. -/
def Dsp.arrive (d : Dsp) (x : Product) : Dsp :=
  d.put x.acc1 (if x.how = 0 then x.value else if x.how = 1 then d.acc x.acc1 + x.value else d.acc x.acc1 - x.value)

/-- A cycle of a block begins: OUT_VALID falls, and the products issued three cycles before arrive (R332). -/
def Dsp.cycle (d : Dsp) : Dsp :=
  let moved := d.pipe.map (fun x => { x with wait := x.wait - 1 })
  (moved.filter (fun x => x.wait = 0)).foldl Dsp.arrive { d with valid := false, pipe := moved.filter (fun x => x.wait != 0) }

/-- What the COEF port loads in a cycle (R328). -/
def Dsp.load (d : Dsp) (i : DspIn) : Dsp :=
  match i.coef with
  | none => d
  | some (k, v) => { d with coef := d.coef.set 0 k.toNat v }

/-- The interlock of ADDA and MOV: cycles pass until no product is on its way to an accumulator they read (R332). -/
def Dsp.interlock (d : Dsp) (reads : Product → Bool) (fuel : Nat := 3) : Dsp :=
  match fuel with
  | 0 => d
  | k + 1 => if d.pipe.any reads then d.cycle.interlock reads k else d

/-- A product is on its way to an accumulator. -/
def Dsp.issue (d : Dsp) (acc1 : Bool) (how : Nat) (x : Int) : Dsp :=
  { d with pipe := d.pipe ++ [{ wait := 3, acc1 := acc1, how := how, value := x }] }

/-- The instruction after next: the same one while a REPEAT owes repetitions (R330). -/
def Dsp.advance (d : Dsp) : Dsp :=
  match d.left with
  | some (n + 2) => { d with left := some (n + 1) }
  | _ => { d with left := none, pc := d.pc + 1 }

/-- Operand B, and the block after P has moved on (R329). -/
def Dsp.operandB (d : Dsp) (ops : BitVec 20) (i : DspIn) : Int × Dsp :=
  if bitOf ops 18 then ((d.coef.get 0 d.p.toNat).toInt, { d with p := d.p + 1 }) else (i.b.toInt, d)

/-- MUL, MAC and MSU: a product issues, to be put in its accumulator, added or subtracted. -/
def Dsp.multiply (d : Dsp) (how : Nat) (ops : BitVec 20) (i : DspIn) : Dsp :=
  let (b, d) := d.operandB ops i
  (d.issue (bitOf ops 19) how (i.a.toInt * b)).advance

/-- Whether the block samples its controls in this cycle: before an instruction that is no REPEAT and no repetition (R331); a stopped
block waits before one. -/
def Dsp.samples (d : Dsp) (w : BitVec 24) : Bool := d.err || d.done || (d.left.isNone && dspOp w != 8)

/-- One cycle of a block, in which it executes the instruction at PC: that the command names, with its operands, or the command changes
nothing. RUN low holds it at a repeat boundary; a word that is no instruction, or may not follow REPEAT, stops it with ERR
(R328–R331). A cycle of a block is a command to it. -/
def State.dspRun (s : State) (b op : Nat) (ops : BitVec 20) (i : DspIn) (f : Dsp → Dsp) : Result :=
  let d := ((s.dsp b).cycle).load i
  let w := s.dspWord b
  if !s.dspClocked b then .next s
  else if d.err || d.done then .next (s.setDsp b d)
  else if dspOk w && (dspOp w != op || dspOps w != ops) then .next s
  else if d.samples w && !i.run then .next (s.setDsp b d)
  else if !dspOk w || (d.left.isSome && !mayRepeat w) then .next (s.setDsp b { d with err := true, left := none })
  else .next (s.setDsp b (f d))

def execDspNop (b : Nat) (ops : BitVec 20) (i : DspIn) (s : State) : Result := s.dspRun b 0x0 ops i Dsp.advance

def execClr (b : Nat) (ops : BitVec 20) (i : DspIn) (s : State) : Result :=
  s.dspRun b 0x1 ops i (fun d => (d.put (bitOf ops 19) 0).advance)

def execMul (b : Nat) (ops : BitVec 20) (i : DspIn) (s : State) : Result := s.dspRun b 0x2 ops i (fun d => d.multiply 0 ops i)

def execMac (b : Nat) (ops : BitVec 20) (i : DspIn) (s : State) : Result := s.dspRun b 0x3 ops i (fun d => d.multiply 1 ops i)

def execMsu (b : Nat) (ops : BitVec 20) (i : DspIn) (s : State) : Result := s.dspRun b 0x4 ops i (fun d => d.multiply 2 ops i)

def execAdda (b : Nat) (ops : BitVec 20) (i : DspIn) (s : State) : Result :=
  s.dspRun b 0x5 ops i (fun d =>
    let d := d.interlock (fun _ => true)
    (d.put (bitOf ops 19) (d.a0.toInt + d.a1.toInt)).advance)

/-- Bits of the smallest two's-complement width that holds a value (R333). -/
def widthOf (a : Int) : Nat :=
  let m := if a < 0 then (-a - 1).toNat else a.toNat
  if m = 0 then 1 else Nat.log2 m + 2

/-- The shift of a narrowing move. -/
def movShift (a : Int) (fx : Nat) : Nat := min 55 (widthOf a - 24 + fx)

def execMov (b : Nat) (ops : BitVec 20) (i : DspIn) (s : State) : Result :=
  s.dspRun b 0x6 ops i (fun d =>
    let d := d.interlock (fun x => x.acc1 == bitOf ops 19)
    let a := d.acc (bitOf ops 19)
    let k := movShift a (fld ops 13 5)
    let out := BitVec.ofInt 24 (a / 2 ^ k)
    let d := if bitOf ops 18 then { d with out1 := out } else { d with out0 := out }
    { d with exp := BitVec.ofNat 6 k, valid := true }.advance)

def execSetp (b : Nat) (ops : BitVec 20) (i : DspIn) (s : State) : Result :=
  s.dspRun b 0x7 ops i (fun d => { d with p := BitVec.ofNat 5 (fld ops 0 5) }.advance)

/-- REPEAT: the next instruction runs N times. -/
def execRepeatN (b : Nat) (ops : BitVec 20) (i : DspIn) (s : State) : Result :=
  s.dspRun b 0x8 ops i (fun d => { d with left := some (fld ops 0 12 + 1), pc := d.pc + 1 })

def execWaitv (b : Nat) (ops : BitVec 20) (i : DspIn) (s : State) : Result :=
  s.dspRun b 0x9 ops i (fun d => if i.inValid then d.advance else d)

def execJmp (b : Nat) (ops : BitVec 20) (i : DspIn) (s : State) : Result :=
  s.dspRun b 0xA ops i (fun d => { d with pc := BitVec.ofNat 6 (fld ops 0 6) })

def execHalt (b : Nat) (ops : BitVec 20) (i : DspIn) (s : State) : Result :=
  s.dspRun b 0xB ops i (fun d => { d with done := true })

/-- RESTART sampled high at a repeat boundary (R331, R334). -/
def execDspRestart (b : Nat) (s : State) : Result :=
  let d := (s.dsp b).cycle
  if !s.dspClocked b || !(s.dsp b).samples (s.dspWord b) then .next s
  else .next (s.setDsp b { d with pc := 0, err := false, done := false, sat := false })

end Sys2Proof.Machine
end

