-- ==== Sys2Proof/Machine/Image.lean ====
section
/-! DEFINITION. Measurement (R493–R495), the header of an image and its checks (R352, R353, R482–R486), and the sections
of a payload (R354). Shared by the personality loader, the boot and the firmware slots. -/

namespace Sys2Proof.Machine

/-! ## Measurement -/

/-- Measurement register `k`. -/
def State.mr (s : State) (k : Nat) : List Byte := s.sec.mrs.get (zeros 32) k

/-- Extends register `k` with digest `d`, and appends to the measurement log while it has room (R493, R495). -/
def State.extend (s : State) (k ev cls svn : Nat) (d : List Byte) : State :=
  let full := 4096 ≤ s.sec.log.length
  let e : MeasEntry := { mr := k, event := ev, cls := cls, svn := svn, ltc := s.ltc.toNat, digest := d }
  { s with sec := { s.sec with
      mrs := s.sec.mrs.set (zeros 32) k (Config.sm3 (s.mr k ++ d)),
      log := if full then s.sec.log else s.sec.log ++ [e],
      logOvf := s.sec.logOvf || full } }

/-! ## Load causes (R374) -/

abbrev lcFormat : Nat := 1
abbrev lcOwnerKey : Nat := 2
abbrev lcSignature : Nat := 3
abbrev lcRollback : Nat := 4
abbrev lcKeyAbsent : Nat := 5
abbrev lcKeyWrap : Nat := 6
abbrev lcExtent : Nat := 7
abbrev lcOutOfExtent : Nat := 8
abbrev lcAuth : Nat := 9
abbrev lcMissing : Nat := 10
abbrev lcSection : Nat := 11
abbrev lcStaticLive : Nat := 12
abbrev lcPageFault : Nat := 13
abbrev lcBusy : Nat := 14
abbrev lcOverrun : Nat := 15

/-! ## The header (R352) -/

def hdrKind (h : List Byte) : Nat := field h 6 1
def hdrClass (h : List Byte) : Nat := field h 8 2
def hdrSvn (h : List Byte) : Nat := field h 0xA 2
def hdrRegion (h : List Byte) : Nat := field h 0xC 1
def hdrFirst (h : List Byte) : Nat := field h 0x10 4
def hdrCount (h : List Byte) : Nat := field h 0x14 4
def hdrLen (h : List Byte) : Nat := field h 0x18 8
def hdrBytes (h : List Byte) (off n : Nat) : List Byte := (h.drop off).take n

/-- What every header has in common: magic, version, and its reserved fields; a key source that is none is check 5's (R483). -/
def hdrCommon (h : List Byte) : Bool :=
  h.length == 512 && field h 0 4 == 0x5E77A0B1 && field h 4 2 == 1
    && zeroAt h 0xD 1 && zeroAt h 0x5C 4 && zeroAt h 0xD0 240

/-- Check 1 of R353 for a personality: KIND, CLASS (R484), REGION, and the fields that are zero for its kind. -/
def hdrPersonality (h : List Byte) : Bool :=
  let k := hdrKind h
  hdrCommon h && 1 ≤ k && k ≤ 4
    && (hdrClass h == k + 1 || (6 ≤ hdrClass h && hdrClass h ≤ 15))
    && (if k = 2 then 1 ≤ hdrRegion h && hdrRegion h ≤ 44 else hdrRegion h == 0)
    && (k == 1 || zeroAt h 0xE 2)
    && (k == 2 || zeroAt h 0x10 8)
    && (if k = 4 then field h 0x20 4 % 4096 == 0 && field h 0x20 4 ≤ 2 ^ 28 && zeroAt h 0x60 16 else zeroAt h 0x20 4)

/-- Check 1 for a firmware image of KIND 0x10 or 0x11 (R484, R485). -/
def hdrFirmware (kind : Nat) (h : List Byte) : Bool :=
  hdrCommon h && hdrKind h == kind && hdrClass h == kind - 0x10 && hdrRegion h == 0 && zeroAt h 0xE 2 && zeroAt h 0x10 8
    && zeroAt h 0x20 4

/-- The value of an anti-rollback counter: the number of its blown bits (R486). -/
def Fuses.arbValue (f : Fuses) (c : Nat) : Nat := (onesOf (f.arb.get 0 c).toNat 64).length

/-- Whether an owner slot is programmed and not revoked (R482). -/
def Fuses.ownerLive (f : Fuses) (i : Nat) : Bool := f.owners.get 0 i != 0 && !bitOf f.revoked i

/-- Check 2: the digest of OWNER_KEY is that of a live owner slot. -/
def Fuses.ownerOk (f : Fuses) (key : List Byte) : Bool :=
  [0, 1, 2, 3].any (fun i => f.ownerLive i && (f.owners.get 0 i).toNat == ofLe (Config.sm3 key))

/-- Whether a key source is allowed and its key present (R483). -/
def Sec.keyOk (x : Sec) (src : Nat) : Bool :=
  if src = 0 then !x.fuses.fusedOff else src == 1 && !x.fuses.bbkOff && x.present

/-- The key-encryption key of a source. -/
def Sec.kek (x : Sec) (src : Nat) : BitVec 128 := if src = 0 then x.fuses.fusedKek else x.bbk

/-- The content key of a header, and whether its wrap verifies (check 6). -/
def Sec.unwrap (x : Sec) (h : List Byte) : BitVec 128 × Bool :=
  let (k, ok) := Config.sm4Gcm (x.kek (field h 7 1)) (hdrBytes h 0x24 12) (hdrBytes h 0x40 16) (hdrBytes h 0x30 16)
  (BitVec.ofNat 128 (ofLe k), ok)

/-- Checks 1 to 6 of R353: the first cause, or 0. -/
def Sec.headerCause (x : Sec) (formatOk : Bool) (h : List Byte) : Nat :=
  if !formatOk then lcFormat
  else if !x.fuses.ownerOk (hdrBytes h 0x90 64) then lcOwnerKey
  else if !Config.sm2Verify (hdrBytes h 0x90 64) (Config.sm3 (h.take 0x1C0)) (hdrBytes h 0x1C0 64) then lcSignature
  else if hdrSvn h < x.fuses.arbValue (hdrClass h) then lcRollback
  else if !x.keyOk (field h 7 1) then lcKeyAbsent
  else if !(x.unwrap h).2 then lcKeyWrap
  else 0

/-- A single encrypted payload under the header's key: its plain text, and whether tag and digest agree (R352). -/
def payloadOf (key : BitVec 128) (h cipher : List Byte) : List Byte × Bool :=
  let (l, ok) := Config.sm4Gcm key (hdrBytes h 0x50 12) (hdrBytes h 0x60 16) cipher
  (l, ok && Config.sm3 cipher == hdrBytes h 0x70 32)

/-! ## Sections (R354) -/

/-- What a payload has brought so far: frame records in order, table sets, and the bodies of the single sections. `cause`
is 0 once END has come, a load cause where the payload is at fault, nothing while more is to come. -/
structure Parsed where
  frames : List (Nat × List Byte) := []
  sets   : List (Nat × List Byte) := []
  clocks : Option (List Byte) := none
  gws    : Option (List Byte) := none
  isol   : Option (List Byte) := none
  cause  : Option Nat := none
deriving DecidableEq, Repr

/-- `n` frame records: those in the extent `[lo, hi)` are taken; the first outside it ends the payload (R361). -/
def parseFrames (lo hi n : Nat) (l : List Byte) (p : Parsed) : Parsed × List Byte :=
  match n with
  | 0 => (p, l)
  | k + 1 =>
    if l.length < 1032 then (p, [])
    else
      let f := field l 0 4
      if !zeroAt l 4 4 then ({ p with cause := some lcSection }, [])
      else if f < lo || hi ≤ f then ({ p with cause := some lcOutOfExtent }, [])
      else parseFrames lo hi k (l.drop 1032) { p with frames := p.frames ++ [(f, (l.drop 8).take 1024)] }

/-- Whether a word of a CLOCKS section is well formed: a divisor in range, REJECTED and the reserved bits zero (R325). -/
def clockOk (w : Nat) : Bool := 8 ≤ w % 2 ^ 13 && w % 2 ^ 13 ≤ 4096 && w < 2 ^ 14

/-- Whether an entry of an ISOLATION section is well formed. -/
def isolOk (w : Nat) : Bool := w < 2 ^ 19 && 1 ≤ w % 64 && w % 64 ≤ 44

/-- Bytes of the body of a section. -/
def bodyBytes (type count : Nat) : Nat :=
  match type with
  | 1 => 1032 * count
  | 2 => 16384
  | 3 => 128
  | 4 => 32
  | 5 => 4 * count
  | _ => 0

/-- Whether a section may stand in an image of KIND `k` after what has come: its type, its COUNT, and only once where
R354 says so. -/
def sectionAllowed (k type count : Nat) (p : Parsed) : Bool :=
  match type with
  | 1 => k == 1 || k == 2
  | 2 => (k == 1 || k == 3) && count == 1
  | 3 => k == 1 && count == 32 && p.clocks.isNone
  | 4 => k == 1 && count == 28 && p.gws.isNone
  | 5 => k == 1 && p.isol.isNone
  | 0xFFFF => count == 0
  | _ => false

/-- The 32-bit words of a body. -/
def wordsOf (l : List Byte) : List Nat := (chunks 4 l.length l).map ofLe

/-- A section other than FRAMES and END, its body `b` complete. -/
def takeBody (type : Nat) (b : List Byte) (p : Parsed) : Parsed :=
  let bad := { p with cause := some lcSection }
  match type with
  | 2 => if field b 0 4 < 16 then { p with sets := p.sets ++ [(field b 0 4, b)] } else bad
  | 3 => if (wordsOf b).all clockOk then { p with clocks := some b } else bad
  | 4 => if (b.take 28).all (· ≤ 44#8) && zeroAt b 28 4 then { p with gws := some b } else bad
  | _ => if (wordsOf b).all isolOk then { p with isol := some b } else bad

/-- The sections of a plain payload of KIND `k`, as far as its bytes go (`fuel` sections at most). -/
def parseSections (k lo hi fuel : Nat) (l : List Byte) (p : Parsed) : Parsed :=
  match fuel with
  | 0 => p
  | n + 1 =>
    if l.length < 16 then p
    else
      let type := field l 0 2
      let count := field l 4 4
      if !(zeroAt l 2 2 && zeroAt l 8 8 && sectionAllowed k type count p) then { p with cause := some lcSection }
      else if type = 0xFFFF then { p with cause := some (if l.length = 16 then 0 else lcSection) }
      else if type = 1 then
        let (p, r) := parseFrames lo hi count (l.drop 16) p
        if p.cause.isSome then p else parseSections k lo hi n r p
      else
        let m := bodyBytes type count
        if l.length < 16 + m then p
        else
          let p := takeBody type ((l.drop 16).take m) p
          if p.cause.isSome then p else parseSections k lo hi n (l.drop (16 + m)) p

/-! ## Frames (R350) -/

/-- The first frame of a region, and how many it has. -/
def firstFrame (r : Nat) : Nat := if r = 0 then 0 else 11776 + 2432 * (r - 1)
def frameCount (r : Nat) : Nat := if r = 0 then 11776 else 2432

/-- The region a frame belongs to. -/
def frameRegion (f : Nat) : Nat := if f < 11776 then 0 else 1 + (f - 11776) / 2432

/-- The frames of a region: they alone configure what is in it (R350). -/
def State.regionFrames (s : State) (r : Nat) : List (Nat × Byte) := s.loader.frames.filter (fun p => frameRegion (p.1 / 1024) == r)

/-- The DSP blocks of a region hold the program and the net that its frames set (R328, R350). -/
def State.programDsps (s : State) (r : Nat) : State :=
  let fs := s.regionFrames r
  let mine := (List.range 6144).filter (fun b => dspRegion b == r)
  { s with logic := { s.logic with
      programs := mine.foldl (fun m b => Map.set m [] b (Config.dspProgram fs b)) s.logic.programs,
      dspNets := mine.foldl (fun m b => Map.set m 0 b (Config.dspNet fs b)) s.logic.dspNets } }

/-- Writes frames in order: of two records for one frame the later stands (R361). -/
def State.writeFrames (s : State) (fs : List (Nat × List Byte)) : State :=
  let s := { s with loader := { s.loader with
      frames := fs.foldl (fun m f => Map.setAll m 0 (1024 * f.1) f.2) s.loader.frames } }
  (fs.foldl (fun l f => addIdx l (frameRegion f.1)) []).foldl State.programDsps s

/-- Writes zeros to the frames that satisfy `p`. -/
def State.zeroFrames (s : State) (p : Nat → Bool) : State :=
  let old := (s.loader.frames.filter (fun x => p (x.1 / 1024))).foldl (fun l x => addIdx l (frameRegion (x.1 / 1024))) []
  old.foldl State.programDsps { s with loader := { s.loader with frames := s.loader.frames.drop (fun k => p (k / 1024)) } }

end Sys2Proof.Machine
end

