-- ==== Sys2Proof/Machine/Personality.lean ====
section
/-! DEFINITION. The personality loader (R353–R376): requests, the load queue, PARTIAL, TABLES, MODEL and STATIC loads, the
boot and global release, and the personality commands of the configuration slave port. -/

namespace Sys2Proof.Machine

/-! ## Requests (R353, R358) -/

/-- The initiator of the loader's accesses: the keeper bridge (R276). -/
abbrev keeperInit : Nat := 0x378

/-- Whether a header names a region: STATIC region 0, PARTIAL its own. -/
def namesRegion (h : List Byte) : Bool := hdrKind h == 1 || hdrKind h == 2

/-- Check 7: the extent lies wholly within the region; an empty one always does. -/
def extentOk (h : List Byte) : Bool :=
  hdrKind h != 2 || hdrCount h == 0
    || (firstFrame (hdrRegion h) ≤ hdrFirst h && hdrFirst h + hdrCount h ≤ firstFrame (hdrRegion h) + frameCount (hdrRegion h))

/-- Whether a request must be refused as BUSY (R358). -/
def State.loadBusy (s : State) (h : List Byte) : Bool :=
  8 ≤ s.loader.queue.length
    || (namesRegion h && ((s.region (hdrRegion h)).st == .loading
      || s.loader.queue.any (fun l => namesRegion l.header && hdrRegion l.header == hdrRegion h)))

/-- The cause of a request's refusal, or 0 (R353). A STATIC image is taken only after a failed boot (R373). -/
def State.requestCause (s : State) (h : List Byte) : Nat :=
  match s.sec.headerCause (hdrPersonality h) h with
  | 0 =>
    if !extentOk h then lcExtent
    else if s.loadBusy h then lcBusy
    else if hdrKind h == 1 && s.loader.phase != 5 then lcStaticLive
    else 0
  | c => c

/-- A loader record (R375): about the region a header names, or the keeper. -/
def State.loadRecord (s : State) (code : Nat) (h : List Byte) (cause : Nat) : State :=
  let r := if namesRegion h && hdrRegion h ≤ 44 then recOf code 12 (hdrRegion h) else recOf code 11 0
  s.raise { r with detail := cause }

/-- The measurement of an accepted header (R493, R494). -/
def State.measureHeader (s : State) (h : List Byte) : State :=
  s.extend (hdrKind h + 1) 0 (hdrClass h) (hdrSvn h) (Config.sm3 h)

/-- The measurement of a load's outcome (R494). -/
def State.measureOutcome (s : State) (h : List Byte) (cause : Nat) : State :=
  s.extend (hdrKind h + 1) 1 (hdrClass h) (hdrSvn h) (Config.sm3 (leBytes 4 cause))

/-- A request to load: refused, with its cause and a record, or measured and queued. -/
def State.offerLoad (s : State) (src : ImageSource) (h : List Byte) (who : Option Issuer) (asid dest : Nat) : State × Nat :=
  match s.requestCause h with
  | 0 =>
    let s := s.measureHeader h
    let l : Load := { source := src, header := h, issuer := who, asid := asid, dest := dest, key := (s.sec.unwrap h).1 }
    ({ s with loader := { s.loader with queue := s.loader.queue ++ [l] } }, 0)
  | c => (s.loadRecord cPersRefused h c, c)

/-- LOAD_PERSONALITY (R357, R435): the header is read from host memory and checked; a load that is queued completes as it
ends. -/
def execLoadPersonality (h : Issuer) (image length : W64) (asid : BitVec 10) (dest : BitVec 48) (s : State) : Result :=
  s.command h (fun s =>
    let q := s.chanPort h.chan
    if s.isVf h.chan then s.answer h 0x02 stDenied
    else match s.hostFetch keeperInit q image.toNat (min 512 length.toNat) with
    | (s, none) => s.answer h 0x02 stHostErr
    | (s, some hdr) =>
      match s.offerLoad (.host q image.toNat length.toNat) hdr (some h) asid.toNat dest.toNat with
      | (s, 0) => s
      | (s, c) => s.complete h 0x02 stLoadFailed 0 (BitVec.ofNat 32 c))

/-! ## The configuration slave port's image (R359) -/

/-- Whether the load at the head of the queue takes its image from the slave port. -/
def State.cspHead (s : State) : Bool :=
  match s.loader.queue with
  | l :: _ => l.source == .csp && !l.ended
  | [] => false

/-- The loader takes what it can from the port's buffer: the header at once, the payload once its load is at the head. -/
def State.cspPull (s : State) : State :=
  let v := s.loader
  if !v.cspOn then s
  else if v.cspImage.length < 512 then
    let n := 512 - v.cspImage.length
    let image := v.cspImage ++ v.cspBytes.take n
    let s := { s with loader := { v with cspImage := image, cspBytes := v.cspBytes.drop n } }
    if image.length < 512 then s
    else
      match s.offerLoad .csp image none (fld v.cspDest 0 10) (fld v.cspDest 16 48) with
      | (s, 0) =>
        if s.cspHead then
          { s with loader := { s.loader with cspImage := s.loader.cspImage ++ s.loader.cspBytes, cspBytes := [] } }
        else s
      | (s, c) => { s with loader := { s.loader with cspOn := false, cspImage := [], cspBytes := [], cspCause := c } }
  else if s.cspHead then
    { s with loader := { v with cspImage := v.cspImage ++ v.cspBytes, cspBytes := [] } }
  else s

/-! ## Payloads and the end of a load (R374, R375) -/

/-- The payload a load's source has given so far, whether it is all there, and whether the source is lost: the port is down, or
a read of the loader's failed (R422). -/
def State.payload (s : State) (l : Load) : List Byte × Bool × Bool :=
  let n := hdrLen l.header
  match l.source with
  | .host q a len => (s.hostRead q (a + 512) (min n (len - 512)), true, !(s.port q).up || s.hostLost.contains keeperInit)
  | .csp =>
    let b := (s.loader.cspImage.drop 512).take n
    (b, b.length == n, false)

/-- The image of a slave-port load is wholly taken; the port is free for another. -/
def State.cspFree (s : State) (l : Load) : State :=
  if l.source = .csp then { s with loader := { s.loader with cspOn := false, cspImage := [], cspBytes := [] } } else s

/-- A load ends: it leaves the queue, its outcome is measured and recorded, and its issuer is told. -/
def State.loadDone (s : State) (l : Load) (cause : Nat) : State :=
  let s := { s with loader := { s.loader with queue := dropFirst s.loader.queue l } }
  let s := if l.ended then s else s.cspFree l
  let s := if l.source = .csp then { s with loader := { s.loader with cspCause := cause } }
    else { s with hostLost := dropFirst s.hostLost keeperInit }
  let s := s.measureOutcome l.header cause
  let s := s.loadRecord (if cause = 0 then cPersLoaded else cPersAborted) l.header cause
  let s := match l.issuer with
    | some h => s.complete h 0x02 (if cause = 0 then stOk else stLoadFailed) 0 (BitVec.ofNat 32 cause)
    | none => s
  s.cspPull

/-- Changes the load at the head of the queue. -/
def State.modHead (s : State) (f : Load → Load) : State :=
  match s.loader.queue with
  | [] => s
  | l :: r => { s with loader := { s.loader with queue := f l :: r } }

/-- The sections of a load's payload, as far as they have come. -/
def State.parsed (s : State) (l : Load) : Parsed :=
  let h := l.header
  let plain := (payloadOf l.key h (s.payload l).1).1
  let (lo, hi) := if hdrKind h = 2 then (hdrFirst h, hdrFirst h + hdrCount h) else (0, 118784)
  parseSections (hdrKind h) lo hi (plain.length + 1) plain {}

/-- The end a payload of sections has come to: its cause, 0 for success; none where more of it is to come (R360, R361). -/
def State.payloadEnd (s : State) (l : Load) (p : Parsed) : Option Nat :=
  let (b, whole, lost) := s.payload l
  match p.cause with
  | some 0 =>
    if !whole then none
    else if lost || !(payloadOf l.key l.header b).2 then some lcAuth
    else if hdrKind l.header == 2
        && !(List.range (hdrCount l.header)).all (fun i => p.frames.any (fun f => f.1 == hdrFirst l.header + i)) then some lcMissing
    else some 0
  | some c => some c
  | none => if lost then some lcAuth else if whole then some lcSection else none

/-! ## Regions (R351, R360–R363) -/

/-- Steps 1 to 3 of R360: the border at rest, the region's logic held in reset, its gateways absent. -/
def State.isolate (s : State) (r : Nat) : State :=
  let s := s.setRegion r { s.region r with isolated := true, held := true }
  let s := { s with dsps := s.dsps.drop (fun b => dspRegion b == r) }
  s.absentGateways r

/-- The region of a block RAM: 448 in the static region, then 176 each (R350). -/
def bramRegion (b : Nat) : Nat := if b < 448 then 0 else 1 + (b - 448) / 176

/-- The region of a logic cell: 98,304 in the static region, then 24,576 each (R350). -/
def cellRegion (c : Nat) : Nat := if c < 98304 then 0 else 1 + (c - 98304) / 24576

/-- A region whose frames are written again: its flip-flops and block RAMs hold what its frames set. The state holds where they
differ from that. -/
def State.freshLogic (s : State) (r : Nat) : State :=
  { s with bram := s.bram.drop (fun k => bramRegion (k / 512) == r), flops := s.flops.drop (fun k => cellRegion (k / 2) == r),
           logic := { s.logic with carries := s.logic.carries.drop (fun k => cellRegion k == r),
                                   borders := s.logic.borders.drop (fun k => k / 4096 == r),
                                   flips := s.logic.flips.drop (fun k => bramRegion (k / 512) == r),
                                   outs := s.logic.outs.drop (fun b => bramRegion b == r) } }

/-- A PARTIAL load takes its region: LOADING, isolated, its frames outside the extent zero. -/
def State.beginPartial (s : State) (h : List Byte) : State :=
  let r := hdrRegion h
  let s := (s.isolate r).freshLogic r
  let s := s.setRegion r { s.region r with st := .loading, release := false }
  let s := s.zeroFrames (fun f => frameRegion f == r && !(hdrFirst h ≤ f && f < hdrFirst h + hdrCount h))
  s.modHead (fun l => { l with begun := true })

/-- The end of a PARTIAL payload. -/
def State.endPartial (s : State) (l : Load) (cause : Nat) : State :=
  let r := hdrRegion l.header
  let v := s.region r
  if cause != 0 then (s.setRegion r { v with st := .incomplete, cause := cause, release := false }).loadDone l cause
  else if hdrCount l.header = 0 then (s.setRegion r { v with st := .empty, cause := 0, svn := hdrSvn l.header }).loadDone l 0
  else
    let s := s.setRegion r { v with cause := 0, svn := hdrSvn l.header, release := true }
    (s.modHead (fun l => { l with ended := true })).cspFree l

def execPartialLoad (s : State) : Result :=
  match s.loader.queue with
  | l :: _ =>
    if hdrKind l.header != 2 || l.ended then .next s
    else
      let s := (if l.begun then s else s.beginPartial l.header).cspPull
      let p := s.parsed l
      let s := s.writeFrames p.frames
      match s.payloadEnd l p with
      | none => .next s
      | some c => .next (s.endPartial { l with begun := true } c)
  | [] => .next s

/-- Whether the load at the head of the queue has passed its checks and waits for the release of region `r` (R363). -/
def State.releasing (s : State) (r : Nat) : Bool :=
  match s.loader.queue with
  | l :: _ => l.ended && hdrKind l.header == 2 && hdrRegion l.header == r
  | [] => false

/-- A region is released (R363): its outputs pass, its resets end, REGION_ABSENT falls, and its load completes. A region that is not
ACTIVE is released by the success of its load only (R351, R362), one that is by the end of its block reset (R391). -/
def execRegionRelease (region : Nat) (s : State) : Result :=
  let v := s.region region
  if 44 < region || !v.release || !(v.st == .active || v.st == .loading && s.releasing region) then .next s
  else
    let s := s.setRegion region { v with st := .active, isolated := false, held := false, release := false }
    match s.loader.queue with
    | l :: _ => if s.releasing region then .next (s.loadDone l 0) else .next s
    | [] => .next s

/-! ## Tables (R366, R367) -/

/-- Stages the table sets of a payload. -/
def State.stageSets (s : State) (l : List (Nat × List Byte)) : State :=
  { s with loader := { s.loader with staged := l.foldl (fun m x => Map.set m [] x.1 x.2) s.loader.staged } }

def execTablesLoad (s : State) : Result :=
  match s.loader.queue with
  | l :: _ =>
    if hdrKind l.header != 3 || l.ended then .next s
    else
      let s := s.cspPull
      let p := s.parsed l
      match s.payloadEnd l p with
      | none => .next s
      | some 0 =>
        let s := s.stageSets p.sets
        let s := { s with loader := { s.loader with commit := true } }
        .next ((s.modHead (fun l => { l with ended := true })).cspFree l)
      | some c => .next ({ s with loader := { s.loader with staged := [] } }.loadDone l c)
  | [] => .next s

/-- Staged sets become committed, and every tile of no ensemble adopts them at once (R366). -/
def State.commitSets (s : State) : State :=
  let v := s.loader
  let s := { s with loader := { v with committed := v.staged.foldl (fun m x => Map.set m [] x.1 x.2) v.committed, staged := [],
                                       commit := false } }
  (List.range 512).foldl (fun s u => if s.ensOf u = 8 && s.ensOf (u + 1024) = 8 then s.adoptTables u else s) s

def execTableCommit (s : State) : Result :=
  if !s.loader.commit || s.modeInBarrier then .next s
  else
    let s := s.commitSets
    match s.loader.queue with
    | l :: _ => if l.ended && hdrKind l.header == 3 then .next (s.loadDone l 0) else .next s
    | [] => .next s

/-! ## Model data (R368, R369) -/

/-- Writes bytes to LOCAL pages with WR, line by line; lines before a failing one stay written. -/
def State.writeLocal (s : State) (asid : Nat) (fuel va : Nat) (v : List Byte) : State × Put :=
  match fuel with
  | 0 => (s, .done)
  | k + 1 =>
    match v with
    | [] => (s, .done)
    | _ =>
      let w := lineRun va v.length
      match s.locate keeperInit asid va true with
      | (s, none) => (s, .later)
      | (s, some (.hbm m o)) =>
        match s.writePlace keeperInit (.hbm m o) (v.take w) false va with
        | (s, .done) => s.writeLocal asid k (va + w) (v.drop w)
        | x => x
      | (s, some _) => (s, .bad causePermission va)

/-- Writes zeros to every line of a range that can be written (R369). -/
def State.zeroLocal (s : State) (asid : Nat) (fuel va n : Nat) : State :=
  match fuel with
  | 0 => s
  | k + 1 =>
    if n = 0 then s
    else
      let w := lineRun va n
      (s.writeLocal asid 1 va (zeros w)).1.zeroLocal asid k (va + w) (n - w)

/-- SEG_LEN as it acts. -/
def segLen (h : List Byte) : Nat := if field h 0x20 4 = 0 then 2 ^ 26 else field h 0x20 4

/-- How a MODEL load ends: a cause, or not yet. -/
inductive ModelEnd where
  | cause (c : Nat)
  | later
deriving DecidableEq, Repr

/-- The segments of a MODEL payload from offset `off` on, each with its key-roll record (R368): every segment is
authenticated before it is written; one that fails leaves zeros. -/
def State.modelRun (s : State) (asid dest seg fuel off : Nat) (key : BitVec 128) (nonce digest l : List Byte) : State × ModelEnd :=
  match fuel with
  | 0 => (s, .cause lcAuth)
  | k + 1 =>
    let n := min seg (l.length - 128)
    let cipher := l.take n
    let r := (l.drop n).take 128
    let (plain, ok) := Config.sm4Gcm key nonce (r.take 16) cipher
    let last := bit (field r 44 4) 0
    let good := ok && Config.sm3 (cipher ++ r) == digest && n % 256 == 0 && 0 < n && field r 44 4 < 2 && zeroAt r 80 48
      && last == decide (l.length = n + 128) && (!last || (zeroAt r 16 28 && zeroAt r 48 32))
    if !good then (s.zeroLocal asid (n / 64 + 2) (dest + off) n, .cause lcAuth)
    else match s.writeLocal asid (n / 64 + 2) (dest + off) plain with
      | (s, .later) => (s, .later)
      | (s, .bad _ _) => (s.zeroLocal asid (n / 64 + 2) (dest + off) n, .cause lcPageFault)
      | (s, .done) =>
        if last then (s, .cause 0)
        else s.modelRun asid dest seg k (off + n) (Config.sm4Block key ((r.drop 16).take 16)) ((r.drop 32).take 12)
          ((r.drop 48).take 32) (l.drop (n + 128))

/-- Runs the MODEL load `l` over the payload bytes `b`. -/
def State.runModel (s : State) (l : Load) (b : List Byte) : State × ModelEnd :=
  let h := l.header
  s.modelRun l.asid l.dest (segLen h) (b.length + 1) 0 l.key (hdrBytes h 0x50 12) (hdrBytes h 0x70 32) b

def execModelLoad (s : State) : Result :=
  match s.loader.queue with
  | l :: _ =>
    if hdrKind l.header != 4 then .next s
    else
      let s := (s.modHead (fun l => { l with begun := true })).cspPull
      let (b, whole, lost) := s.payload l
      let l := { l with begun := true }
      if lost then .next (s.loadDone l lcAuth)
      else if !whole then .next s
      else match s.runModel l b with
        | (_, .later) => .next s
        | (s', .cause c) => .next (s'.loadDone l c)
  | [] => .next s

/-! ## STATIC images, boot and release (R370–R373) -/

/-- What a STATIC payload that has passed its checks sets up: frames, clocks, gateways, isolation, tables, and the regions
that global release will make ACTIVE. The slot or port it came from is told by the caller. -/
def State.bootDone (s : State) (h : List Byte) (p : Parsed) : State :=
  let s := s.writeFrames p.frames
  let s := match p.clocks with
    | some b => ((wordsOf b).zipIdx).foldl (fun (s : State) (x : Nat × Nat) =>
        s.setFclk x.2 (BitVec.ofNat 32 (if x.2 = 0 then x.1 ||| 2 ^ 13 else x.1))) s
    | none => s
  let s := match p.gws with
    | some b => ((b.take 28).zipIdx).foldl (fun (s : State) (x : Byte × Nat) => s.setGw x.2 { s.gw x.2 with region := x.1.toNat }) s
    | none => s
  let isol := match p.isol with
    | some b => (wordsOf b).foldl (fun m w => Map.set m false (4096 * bits w 0 6 + bits w 6 12) (bit w 18)) []
    | none => []
  let regions := p.frames.foldl (fun l f => addIdx l (frameRegion f.1)) [0]
  let s := regions.foldl (fun s r => (s.isolate r).freshLogic r) s
  let s := regions.foldl (fun s r => s.setRegion r { s.region r with st := .loading, svn := hdrSvn h, cause := 0 }) s
  let s := (s.stageSets p.sets).commitSets
  { s with
    loader := { s.loader with
      isolation := isol, relDelay := if field h 0xE 2 = 0 then 64 else field h 0xE 2, phase := 2, doneHigh := 0, relStage := 0,
      bootRegions := regions },
    pins := { s.pins with done := true, cfgErrN := true } }

def execStaticLoad (s : State) : Result :=
  match s.loader.queue with
  | l :: _ =>
    if hdrKind l.header != 1 then .next s
    else
      let s := s.setRegion 0 { s.region 0 with st := .loading }
      let s := (s.modHead (fun l => { l with begun := true })).cspPull
      let p := s.parsed l
      let s := s.writeFrames p.frames
      let l := { l with begun := true }
      match s.payloadEnd l p with
      | none => .next s
      | some 0 => .next ((s.bootDone l.header p).loadDone l 0)
      | some c =>
        let s := s.zeroFrames (fun f => p.frames.any (fun x => x.1 == f))
        .next ((s.setRegion 0 { s.region 0 with st := .empty, cause := c }).loadDone l c)
  | [] => .next s

/-- The bytes of a slot of the non-volatile cells. -/
def NvSlot.bytes (v : NvSlot) (off n : Nat) : List Byte := Map.getAll v.data 0 off n

def State.slot (s : State) (k : Nat) : NvSlot := s.loader.slots.get {} k

/-- Tries to boot from a slot: the cause of its failure, or 0 with the image in place (R370). A slot that is not valid or
holds no STATIC image fails as FORMAT. -/
def State.bootFrom (s : State) (k : Nat) : State × Nat :=
  let v := s.slot k
  let h := v.bytes 0 512
  match s.sec.headerCause (v.valid && hdrPersonality h && hdrKind h == 1) h with
  | 0 =>
    let s := s.measureHeader h
    let cipher := v.bytes 512 (min (hdrLen h) (v.len - 512))
    let (plain, ok) := payloadOf (s.sec.unwrap h).1 h cipher
    let p := parseSections 1 0 118784 (plain.length + 1) plain {}
    let c := match p.cause with
      | some 0 => if ok then 0 else lcAuth
      | some c => c
      | none => lcSection
    if c = 0 then (((s.bootDone h p).measureOutcome h 0).loadRecord cPersLoaded h 0, 0)
    else ((s.measureOutcome h c).zeroFrames (fun f => p.frames.any (fun x => x.1 == f)), c)
  | c => (s, c)

/-- The boot load (R370): slot A, then slot B; both failing fails the boot. -/
def execBootLoad (s : State) : Result :=
  if s.loader.phase != 1 then .next s
  else match s.bootFrom 0 with
    | (s, 0) => .next { s with loader := { s.loader with bootSlot := 0 } }
    | (s, c) =>
      let s := { s with loader := { s.loader with slotAFail := true, bootCause := c } }
      let s := s.raise { recOf cBootSlotFailed 12 0 with detail := c }
      match s.bootFrom 1 with
      | (s, 0) => .next { s with loader := { s.loader with bootSlot := 1 } }
      | (s, c) =>
        let s := { s with loader := { s.loader with slotBFail := true, bootCause := c, phase := 5 },
                          pins := { s.pins with done := false, cfgErrN := false } }
        let s := s.setRegion 0 { s.region 0 with st := .empty, cause := c }
        .next (s.raise { recOf cBootFailed 12 0 with detail := c })

/-- The last stage of global release: every region the boot image configured becomes ACTIVE (R372). -/
def State.releaseRegions (s : State) : State :=
  s.loader.bootRegions.foldl (fun s r =>
    s.setRegion r { s.region r with st := .active, isolated := false, held := false }) s

/-- Global release (R372). While the device waits for DONE, one sample of the line, thirty-two high in a row starting the
release; then one stage after another. Bank supplies that are wrong are reported as the drivers turn on (R532). -/
def execGlobalRelease (doneHigh : Bool) (s : State) : Result :=
  let v := s.loader
  if v.phase = 2 then
    let s := { s with pins := { s.pins with doneIn := doneHigh } }
    if !doneHigh then .next { s with loader := { v with doneHigh := 0 } }
    else if v.doneHigh < 31 then .next { s with loader := { v with doneHigh := v.doneHigh + 1 } }
    else .next { s with loader := { v with doneHigh := 0, phase := 3, relStage := 0 } }
  else if v.phase = 3 then
    match v.relStage with
    | 0 =>
      let s := { s with pins := { s.pins with outputs := true, inputs := true, hotN := !s.gov.hot }, loader := { v with relStage := 1 } }
      let s := s.setAlert s.keeper.alert
      .next (s.pins.vioBad.foldl (fun s b => s.raise { recOf cRailFault 11 0 with detail := 8 + b }) s)
    | 1 => .next { s with loader := { v with relStage := 2 } }
    | _ => .next ({ s with loader := { v with phase := 4 } }.releaseRegions)
  else .next s

/-! ## Aborts from outside a payload (R359, R362, R490) -/

/-- Ends a load that is queued or in progress with a cause: what it has written stands or is undone as its kind says. -/
def State.abortLoad (s : State) (l : Load) (cause : Nat) : State :=
  let r := hdrRegion l.header
  match hdrKind l.header with
  | 2 =>
    if l.begun then
      let s := s.writeFrames (s.parsed l).frames
      (s.setRegion r { s.region r with st := .incomplete, cause := cause, release := false }).loadDone l cause
    else (s.setRegion r { s.region r with cause := cause }).loadDone l cause
  | 1 =>
    let p := s.parsed l
    let s := s.zeroFrames (fun f => l.begun && p.frames.any (fun x => x.1 == f))
    (s.setRegion 0 { s.region 0 with st := .empty, cause := cause }).loadDone l cause
  | 3 => (if l.ended then { s with loader := { s.loader with staged := [], commit := false } } else s).loadDone l cause
  | _ => if l.begun then (s.runModel l (s.payload l).1).1.loadDone l cause else s.loadDone l cause

/-- The image the slave port is taking is given up (R359). -/
def State.cspAbort (s : State) (cause : Nat) : State :=
  match s.loader.queue.find? (fun l => l.source == .csp && !l.ended) with
  | some l => s.abortLoad l cause
  | none =>
    let s := { s with loader := { s.loader with cspOn := false, cspImage := [], cspBytes := [], cspCause := cause } }
    s.raise { recOf cPersAborted 11 0 with detail := cause }

/-! ## Commands of the configuration slave port (R359) -/

def execImageStart (dest : W64) (s : State) : Result :=
  if !s.portsUp then .next s
  else
    let s := if s.loader.cspOn then s.cspAbort lcOverrun else s
    .next { s with loader := { s.loader with cspOn := true, cspDest := dest, cspImage := [], cspBytes := [] } }

def execImageData (bytes : List Byte) (s : State) : Result :=
  if !s.portsUp || !s.loader.cspOn then .next s
  else
    let room := 4096 - s.loader.cspBytes.length
    let s' := { s with loader := { s.loader with cspBytes := s.loader.cspBytes ++ bytes.take room } }
    if room < bytes.length then .next (s'.cspAbort lcOverrun) else .next s'.cspPull

/-- CFG_STATUS (R376). -/
def State.cfgStatus (s : State) : W32 :=
  let v := s.loader
  BitVec.ofNat 32 (v.phase + flag (v.bootSlot = 1) * 2 ^ 3 + flag v.slotAFail * 2 ^ 4 + flag v.slotBFail * 2 ^ 5
    + v.bootCause * 2 ^ 6 + 2 ^ 10 * flag s.pins.doneIn + 2 ^ 11 * min v.queue.length 8)

/-- The code of a region's state (R376). -/
def RegionState.code : RegionState → Nat
  | .empty => 0
  | .loading => 1
  | .active => 2
  | .incomplete => 3

/-- CFG_REGIONn (R376). -/
def State.cfgRegion (s : State) (n : Nat) : W32 :=
  let v := s.region n
  BitVec.ofNat 32 (v.st.code + v.cause * 2 ^ 2 + flag v.isolated * 2 ^ 6 + v.svn * 2 ^ 8)

/-- What the slave port returns last. -/
def State.cspReturn (s : State) (l : List Byte) : State := { s with loader := { s.loader with cspOut := l } }

def execCfgStatus (s : State) : Result :=
  if s.portsUp then .next (s.cspReturn (leBytes 4 s.cfgStatus.toNat)) else .next s

def execCspStatus (s : State) : Result :=
  let v := s.loader
  let busy := v.cspOn || v.queue.any (fun l => l.source == .csp)
  if s.portsUp then
    .next (s.cspReturn (leBytes 4 (4096 - v.cspBytes.length + 2 ^ 13 * flag busy + 2 ^ 14 * v.cspCause)))
  else .next s

end Sys2Proof.Machine
end

