-- ==== Sys2Proof/Machine/Channel.lean ====
section
/-! DEFINITION. Channels, rings and doorbells (R421–R434): the poller, the fetch of descriptors, the writing of completions,
interrupts, and CHANNEL_CONTROL. -/

namespace Sys2Proof.Machine

/-! ## Channel-table entries (R424, R425) -/

/-- Whether port `q / 2` is split (R421). -/
def State.split (s : State) (port : Nat) : Bool := bitOf s.keeper.splitNow port

/-- The place of a channel in the table of its port or half. -/
def State.chanIndex (s : State) (c : Nat) : Nat := if s.split (c / 2048) then c % 1024 else c % 2048

/-- The port or half that owns a channel number (R421). -/
def State.ownerOf (s : State) (c : Nat) : Nat :=
  if 4096 ≤ c then c - 4096 else 2 * (c / 2048) + (if s.split (c / 2048) then c / 1024 % 2 else 0)

/-- Bytes of a channel's entry in the host's table. -/
def State.readChanEntry (s : State) (c : Nat) : List Byte :=
  let q := s.ownerOf c
  s.hostRead q (fld (s.fn (64 * q)).cht 7 57 * 128 + 128 * s.chanIndex c) 128

/-- Whether LOG2 of a ring is in its range. -/
def logOk (n : Nat) : Bool := 4 ≤ n && n ≤ 16

/-- Whether an entry keeps the rules of R424 and R425: its CHECK, no reserved value, a vector within its function's table. -/
def State.entryOk (s : State) (c : Nat) (e : List Byte) : Bool :=
  let w := field e 0 4
  let vf := bits w 1 6
  checkOk e 0x7C && bit w 0 && (!s.split (c / 2048) || vf < 32) && (vf == 0 || bits w 21 11 < 64)
    && field e 8 8 % 4096 == 0 && field e 0x10 8 % 4096 == 0 && field e 0x18 8 % 4096 == 0 && field e 0x20 8 % 8 == 0
    && logOk (field e 0x28 1) && logOk (field e 0x29 1) && (field e 0x2A 1 == 0 || logOk (field e 0x2A 1))
    && zeroAt e 0x2B 81

/-! ## Rings (R423, R424, R427) -/

/-- The admin registers of an admin ring's function. -/
def State.admin (s : State) (c : Nat) : Fn := s.fn (64 * (c - 4096))

def State.sqLog (s : State) (c : Nat) : Nat := if 4096 ≤ c then fld (s.admin c).adminSq 0 5 else field (s.chan c).entry 0x28 1
def State.cqLog (s : State) (c : Nat) : Nat := if 4096 ≤ c then fld (s.admin c).adminCq 0 5 else field (s.chan c).entry 0x29 1
def State.sqBase (s : State) (c : Nat) : Nat :=
  if 4096 ≤ c then 4096 * fld (s.admin c).adminSq 12 52 else field (s.chan c).entry 8 8
def State.cqBase (s : State) (c : Nat) : Nat :=
  if 4096 ≤ c then 4096 * fld (s.admin c).adminCq 12 52 else field (s.chan c).entry 0x10 8
def State.dbAddr (s : State) (c : Nat) : Nat :=
  if 4096 ≤ c then fld (s.admin c).adminDb 3 61 * 8 else field (s.chan c).entry 0x20 8

/-- Whether a doorbell record is malformed (R427): SQ_TAIL too far ahead of the SQ_HEAD last reported, or a head beyond
what the device has written. -/
def State.badDoorbell (s : State) (c : Nat) (d : List Byte) : Bool :=
  let v := s.chan c
  let tail := BitVec.ofNat 16 (field d 0 2)
  let cq := BitVec.ofNat 16 (field d 2 2)
  let eq := BitVec.ofNat 16 (field d 4 2)
  2 ^ s.sqLog c - 1 < (tail - v.sqSaid).toNat
    || (v.cqTail - v.cqHead).toNat < (cq - v.cqHead).toNat || (v.eqTail - v.eqHead).toNat < (eq - v.eqHead).toNat

/-! ## Descriptors (R428, R435) -/

/-- `n` bits of an operand at byte `off` of a descriptor, as a mask over bytes 0x08–0x3F. -/
def opBits (off n : Nat) : Nat := (2 ^ n - 1) * 2 ^ (8 * (off - 8))

/-- The operand bits a host opcode uses; none for a reserved opcode (R435, R480). -/
def usedBits (op : Nat) : Option Nat :=
  match op with
  | 0x00 => some 0
  | 0x01 => some (opBits 8 192 + opBits 0x20 14)
  | 0x02 => some (opBits 8 128 + opBits 0x18 10 + opBits 0x20 64)
  | 0x03 => some (opBits 8 64 + opBits 0x10 10)
  | 0x04 => some (opBits 8 3)
  | 0x05 => some (opBits 8 13)
  | 0x06 => some (opBits 8 80)
  | 0x07 => some (opBits 8 25)
  | 0x08 => some (opBits 8 12 + opBits 0x10 64)
  | 0x09 => some (opBits 8 11 + opBits 0x10 64 + opBits 0x18 64 + opBits 0x20 64 + opBits 0x28 32)
  | 0x0A => some (opBits 8 13)
  | 0x0B => some (opBits 8 10)
  | 0x0C => some (opBits 8 10)
  | 0x0D => some ((List.range 7).map (fun i => opBits (8 + 8 * i) 16 + opBits (12 + 8 * i) 32)).sum
  | 0x0E => some (opBits 8 25 + opBits 0x10 128)
  | 0x0F => some 0
  | 0x10 => some (opBits 8 19)
  | 0x11 => some (opBits 8 64)
  | 0x12 => some (opBits 8 13)
  | 0x20 => some (opBits 8 7 + opBits 0x10 192)
  | 0x21 => some 0
  | 0x22 => some 0
  | 0x23 => some 0
  | 0x24 => some 0
  | _ => none

/-- Whether a descriptor has a listed opcode, a tag that is not reserved, and no reserved bit set. -/
def descriptorOk (d : List Byte) : Bool :=
  match usedBits (field d 0 1) with
  | none => false
  | some m => field d 0 4 < 2 ^ 11 && field d 4 4 != 0xFFFFFFFF && (field d 8 56 &&& m) == field d 8 56

/-- The issuer a descriptor's header makes. -/
def issuerOf (c : Nat) (d : List Byte) : Issuer :=
  { chan := c, tag := BitVec.ofNat 32 (field d 4 4), fence := bit (field d 0 4) 8, quiet := bit (field d 0 4) 9,
    irq := bit (field d 0 4) 10 }

/-- Fetches descriptors in ring order (R428): up to 64 held, and none while a completion waits (R429). A malformed one
completes MALFORMED. -/
def State.fetchMore (s : State) (c : Nat) (fuel : Nat) : State :=
  match fuel with
  | 0 => s
  | k + 1 =>
    let v := s.chan c
    if v.sqHead = v.sqTail || 64 ≤ v.fetched.length + v.inflight.length || !v.compls.isEmpty || v.stopped
        || (!v.enabled && c < 4096) then s
    else
      let d := s.hostRead (s.ownerOf c) (s.sqBase c + 64 * (v.sqHead.toNat % 2 ^ s.sqLog c)) 64
      let s := s.setChan c { v with sqHead := v.sqHead + 1 }
      if descriptorOk d then
        (s.setChan c { s.chan c with fetched := v.fetched ++ [d] }).fetchMore c k
      else
        let h := issuerOf c d
        let s := s.setChan c { s.chan c with inflight := v.inflight ++ [h.tag] }
        (s.complete { h with quiet := false } (field d 0 1) stMalformed).fetchMore c k

/-! ## Serving a doorbell (R425, R427, R432) -/

/-- Brings a channel's entry into the cache of 256, least recently used out (R425). -/
def State.cacheChan (s : State) (c : Nat) : State :=
  let v := s.chan c
  let lru := c :: s.cacheLru.erase c
  let out := lru.drop 256
  let s := { s with cacheLru := lru.take 256 }
  let s := if v.cached then s else s.setChan c { v with cached := true, entry := s.readChanEntry c }
  out.foldl (fun s d => s.setChan d { s.chan d with cached := false }) s

/-- Reads the doorbell record of a channel or admin ring and acts on it. -/
def State.doorbell (s : State) (c : Nat) : State :=
  let q := s.ownerOf c
  if !(s.port q).up then s
  else
    let d := s.hostRead q (s.dbAddr c) 16
    if s.badDoorbell c d then s.channelError c
    else
      let v := s.chan c
      let s := s.setChan c { v with sqTail := BitVec.ofNat 16 (field d 0 2), cqHead := BitVec.ofNat 16 (field d 2 2),
                                    eqHead := BitVec.ofNat 16 (field d 4 2) }
      s.fetchMore c 64

/-- Serves a channel whose doorbell bit was set: one not owned by the function, or not enabled, is discarded (R432). -/
def State.serve (s : State) (fn c : Nat) : State :=
  if 4096 ≤ c then (if !logOk (s.sqLog c) || !logOk (s.cqLog c) || (s.chan c).stopped then s else s.doorbell c)
  else if (s.chan c).enabled && s.chanFn c == fn then (s.cacheChan c).doorbell c
  else s

/-- MIN_NS and MAX_NS as they act (R423). -/
def Fn.minNs (f : Fn) : Nat := max 250 (fld f.poll 0 16)
def Fn.maxNs (f : Fn) : Nat :=
  let m := fld f.poll 16 16
  if 64000 < m || m < f.minNs then 64000 else m

/-- The poll interval after a poll (R433). -/
def Fn.polled (f : Fn) (found : Bool) : Fn :=
  if found then { f with interval := f.minNs, empty := 0 }
  else if f.empty < 15 then { f with empty := f.empty + 1 }
  else { f with interval := min (2 * f.interval) f.maxNs, empty := 0 }

/-- A poll of a function's doorbell summary (R432); `w` is what the swaps returned. -/
def execPoll (fn : Nat) (w : PollWords) (s : State) : Result :=
  let q := fn / 64
  let f := s.fn fn
  if s.rst.pllLost || 256 ≤ fn || !bitOf f.summary 0 || !s.portHere q then .next s
  else
    let base := fld f.summary 6 58 * 64
    let gs := onesOf w.top.toNat 64
    let word (g : Nat) : W64 := ((w.groups.find? (fun p => p.1 == g)).map Prod.snd).getD 0
    let admin := bitOf w.admin 0 && fn % 64 == 0
    let s := if w.top = 0 then s else s.hostWrite q base (zeros 8)
    let s := if w.admin = 0 then s else s.hostWrite q (base + 8) (zeros 8)
    let s := gs.foldl (fun s g => s.hostWrite q (base + 64 + 8 * g) (zeros 8)) s
    let s := s.setFn fn (f.polled (w.top != 0 || w.admin != 0))
    let s := if admin then s.serve fn (4096 + q) else s
    .next (gs.foldl (fun s g => (onesOf (word g).toNat 64).foldl (fun s b => s.serve fn (64 * g + b)) s) s)

/-- A channel whose completion waits for space has its doorbell record read again (R432). -/
def execDoorbellReread (chan : Nat) (s : State) : Result :=
  if s.rst.pllLost || (s.chan chan).compls.isEmpty || (!(s.chan chan).enabled && (s.chan chan).disabler.isNone && chan < 4096) then .next s
  else .next (s.doorbell chan)

/-! ## Completions (R429) -/

/-- The 32 bytes of a completion. -/
def complBytes (x : Compl) (sqHead : BitVec 16) (phase : Bool) : List Byte :=
  leBytes 4 x.tag.toNat ++ leBytes 2 sqHead.toNat ++ leBytes 1 x.opcode ++ leBytes 1 x.status ++ leBytes 16 x.result.toNat
    ++ leBytes 4 x.detail.toNat ++ zeros 3 ++ leBytes 1 (flag phase)

/-- Whether a completion ring has room. -/
def State.cqRoom (s : State) (c : Nat) : Bool :=
  let v := s.chan c
  logOk (s.cqLog c) && (v.cqTail - v.cqHead).toNat < 2 ^ s.cqLog c - 1

/-- A completion that waits is written once the ring has a free slot; the phase flips on every wrap. A ring that cannot be
written disables its channel (R425). -/
def execCompletionWrite (chan : Nat) (s : State) : Result :=
  let v := s.chan chan
  match v.compls with
  | [] => .next s
  | x :: r =>
    if s.rst.pllLost || !s.cqRoom chan then .next s
    else if !(s.port (s.ownerOf chan)).up then
      if 4096 ≤ chan then .next s else .next (s.channelError chan)
    else
      let size := 2 ^ s.cqLog chan
      let s := s.hostWrite (s.ownerOf chan) (s.cqBase chan + 32 * (v.cqTail.toNat % size)) (complBytes x v.sqHead v.phase)
      let s := s.setChan chan { v with
        compls := r, cqTail := v.cqTail + 1, sqSaid := v.sqHead, unsignalled := v.unsignalled + 1,
        signalNow := v.signalNow || x.irq, phase := if v.cqTail.toNat % size = size - 1 then !v.phase else v.phase }
      .next ((s.endDisable chan).fetchMore chan 64)

/-! ## Interrupts (R434) -/

/-- The MSI-X vector of a channel, and the function that has it. -/
def State.chanVector (s : State) (c : Nat) : Nat := if 4096 ≤ c then 0 else bits (field (s.chan c).entry 0 4) 21 11

/-- COAL_COUNT of a channel. -/
def State.coalCount (s : State) (c : Nat) : Nat := if 4096 ≤ c then 1 else max 1 (field (s.chan c).entry 4 2)

/-- A vector raised: its message is sent, or its pending bit set where it is masked. -/
def State.raiseVector (s : State) (fn k : Nat) : State :=
  let f := s.fn fn
  let v := f.vectors.get {} k
  if v.masked then s.setFn fn { f with vectors := f.vectors.set {} k { v with pending := true } }
  else { s with msix := s.msix ++ [(fn, k)] }

def execInterrupt (chan : Nat) (timeExpired : Bool) (s : State) : Result :=
  let v := s.chan chan
  if !s.rst.pllLost && (v.signalNow || s.coalCount chan ≤ v.unsignalled || (timeExpired && 0 < v.unsignalled)) then
    .next ((s.setChan chan { v with unsignalled := 0, signalNow := false }).raiseVector (s.chanFn chan) (s.chanVector chan))
  else .next s

/-! ## CHANNEL_CONTROL (R425) -/

/-- Whether the issuer may control a channel: from the admin ring of the port or half that owns it (R423). -/
def State.mayControl (s : State) (h : Issuer) (c : Nat) : Bool := 4096 ≤ h.chan && s.ownerOf c == h.chan - 4096

/-- ENABLE reads and checks the entry; the channel's rings begin at index 0. -/
def execEnable (h : Issuer) (chan : BitVec 12) (s : State) : Result :=
  s.command h (fun s =>
    let c := chan.toNat
    if !s.mayControl h c then s.answer h 0x12 stDenied
    else if (s.chan c).enabled || (s.chan c).disabler.isSome then s.answer h 0x12 stBusy
    else
      let e := s.readChanEntry c
      if s.entryOk c e then (s.setChan c { enabled := true, entry := e }).answer h 0x12 stOk
      else s.answer h 0x12 stMalformed)

/-- Host WAITs of a channel end as CANCELLED (R425). -/
def State.cancelWaits (s : State) (c : Nat) : State :=
  let mine (a : Agent) : Bool := match a with | .host h => h.chan == c | _ => false
  let hs := (s.sync.map (fun p => p.2.waiters.filter mine)).flatten
  let sync := (s.sync.map (fun (p : Nat × SyncObj) => (p.1, { p.2 with waiters := p.2.waiters.filter (fun a => !mine a) }))).filter
    (fun p => p.2 != {})
  hs.foldl (fun s a => match a with | .host h => s.answer h 0x06 stCancelled | _ => s) { s with sync := sync }

/-- A channel is disabled: it fetches no more; what it has fetched completes, a pending WAIT as CANCELLED (R425). -/
def State.disableChan (s : State) (c : Nat) (who : Option Issuer) : State :=
  let v := s.chan c
  let s := s.setChan c { v with enabled := false, sqTail := v.sqHead, disabler := who }
  let s := { s with cacheLru := s.cacheLru.erase c }
  (s.cancelWaits c).endDisable c

def execDisable (h : Issuer) (chan : BitVec 12) (s : State) : Result :=
  s.command h (fun s =>
    let c := chan.toNat
    if !s.mayControl h c then s.answer h 0x12 stDenied
    else if (s.chan c).disabler.isSome then s.answer h 0x12 stBusy
    else s.disableChan c (some h))

end Sys2Proof.Machine
end

