-- ==== Sys2Proof/Machine/Reset.lean ====
section
/-! DEFINITION. Resets and bring-up (R377–R395, R422): power-on, system and core reset, the option-load phase, block
resets, PERST, PCIe training and function-level resets. -/

namespace Sys2Proof.Machine

/-! ## Requests whose answers are to be discarded (R390, R392) -/

/-- The SUB that no context has: an answer that carries it is discarded. -/
abbrev voidSub : BitVec 4 := 15

/-- Answers to the requests that `p` picks, by initiator and SUB, will be discarded, and counted at a stream engine, as they arrive
(R392), wherever the request now is. -/
def State.voidRequests (s : State) (p : Nat → Nat → Bool) : State :=
  let req (r : Req) : Req := if p r.init.toNat r.sub.toNat then { r with sub := voidSub } else r
  let queued (q : Queued) : Queued := { q with req := req q.req }
  let net := s.net.filterMap (fun x => match x with
    | .req r => some (.req (req r))
    | .resp r => if p r.init.toNat r.sub.toNat then some (.resp { r with sub := voidSub }) else some x
    | .ack a => if p a.init.toNat a.sub.toNat then some (.ack { a with sub := voidSub }) else some x
    | x => some x)
  { s with
    net := net,
    pcs := s.pcs.map (fun (x : Nat × Pc) => (x.1, { x.2 with reads := x.2.reads.map queued, writes := x.2.writes.map queued })),
    waits := s.waits.filter (fun w => !p w.1 w.2.1),
    partner := { s.partner with held := s.partner.held.filter (fun a => !p a.init.toNat a.sub.toNat) } }

/-! ## Firmware at the boot ROM (R493, R501) -/

def State.fwSlotOf (s : State) (k : Nat) : NvSlot := s.sec.fw.get {} k

/-- The boot ROM and the steward loader measure the firmware of a slot into register `k`. -/
def State.measureFw (s : State) (k slot : Nat) : State :=
  let h := (s.fwSlotOf slot).bytes 0 512
  s.extend k 2 (hdrClass h) (hdrSvn h) (Config.sm3 h)

/-- The firmware slot that runs after a restart: on trial it is not yet the active one (R501). -/
def Sec.activeFw (x : Sec) : Nat := if x.fwTrial then 1 - x.fwSlot else x.fwSlot
def Sec.activeSt (x : Sec) : Nat := if x.stTrial then 5 - x.stSlot else x.stSlot

/-- What security keeps through a power-on or system reset: fuses, key memory, firmware slots, the certificate chain (R379), and
through a system reset LOG_OVERFLOW of SEC_STATUS (R380). -/
def Sec.kept (x : Sec) (logOvf : Bool) : Sec :=
  { fuses := x.fuses, bbk := x.bbk, bbkCheck := x.bbkCheck, present := x.present, tampered := x.tampered, fw := x.fw, logOvf := logOvf,
    fwSlot := x.activeFw, stSlot := x.activeSt, owedTamper := x.owedTamper, chain := x.chain }

/-! ## The levels (R377–R380) -/

/-- A tile with nothing but its column map (R95). -/
def Tile.columns (t : Tile) : Tile := { spares := t.spares }

/-- Tiles with nothing but their column maps. -/
def State.columnMaps (s : State) : Map Tile :=
  (s.tiles.map (fun (p : Nat × Tile) => (p.1, p.2.columns))).filter (fun p => p.2 != {})

/-- Pseudo-channels after a reset of the controllers: what the repair map holds stands, a retirement and the rows to be soft-repaired
(R254, R259), and `keep` says the event counts do (R441). -/
def State.pcsAfter (s : State) (keep : Bool) : Map Pc :=
  (s.pcs.map (fun (p : Nat × Pc) =>
    let v : Pc := if p.2.st = .retired then
        { st := .retired, retireNo := p.2.retireNo, receivers := p.2.receivers, cuts := p.2.cuts, mapped := p.2.mapped }
      else { mapped := p.2.mapped }
    (p.1, if keep then { v with corrected := p.2.corrected, throttles := p.2.throttles } else v))).filter (fun p => p.2 != {})

/-- Stacks after a reset of the controllers: the retirements that are complete. -/
def State.stacksAfter (s : State) : Map Stack :=
  (s.hstack.map (fun (x : Nat × Stack) =>
    let l := x.2.retires.filter (fun p => (s.pc x.1 p).st == .retired)
    (x.1, ({ retires := l, accepted := l.length } : Stack)))).filter (fun p => p.2 != {})

/-- Retirements, which the repair map keeps (R305): every other unit is in PROBATION with nothing counted. -/
def keptHealth (m : Map Health) : Map Health :=
  (m.filter (fun (p : Nat × Health) => p.2.st == .retired)).map (fun (p : Nat × Health) => (p.1, ({ st := .retired } : Health)))

/-- A position's sparing as the repair map keeps it: the spare that serves it, or that none does, or that it awaits one. -/
def keptService (m : Map Service) : Map Service :=
  (m.map (fun (p : Nat × Service) => (p.1, { p.2 with settling := false, dropped := false }))).filter (fun p => p.2 != {})

/-- The link dies after a reset: each has the spare lanes that its retired lanes leave (R27, R305). -/
def State.linksAfter (s : State) : Map Link :=
  (List.range 16).foldl (fun m l => Map.set m {} l { spares := (s.goodLanes l).drop 16 }) []

/-- What every power-on and system reset clears; the rest is what R379 keeps through it, a device in its reset state
otherwise. -/
def State.cleared (s : State) (power : Bool) : State :=
  { State.reset with
    pending := s.pending, variant := s.variant, free := s.free, era := s.era + 1, hostMem := s.hostMem, msix := s.msix,
    tiles := s.columnMaps, tserv := keptService s.tserv, sserv := keptService s.sserv, tspares := s.tspares, sspares := s.sspares,
    pcs := s.pcsAfter (!power), hstack := s.stacksAfter,
    health := keptHealth s.health,
    zegus := { links := s.linksAfter },
    loader := { slots := s.loader.slots },
    sec := s.sec.kept (!power && s.sec.logOvf),
    keeper := { general := s.keeper.general, device := s.keeper.device, nextGen := s.keeper.nextGen, nextDev := s.keeper.nextDev,
                splits := s.keeper.splits, splitNow := s.keeper.splitNow,
                alert := if power then 0 else s.keeper.alert, mask := if power then 0b001000 else s.keeper.mask,
                cfg := if power then 0b111 else s.keeper.cfg },
    ltc := if power then 0 else s.ltc,
    hbm := if power then [] else s.hbm, hpoison := if power then [] else s.hpoison, hfixed := if power then [] else s.hfixed,
    herr := if power then [] else s.herr,
    sample := if power then 0x15 else s.sample, windows := if power then 0 else s.windows,
    counts := if power then [] else s.counts, snapshot := if power then [] else s.snapshot,
    snapWin := if power then 0 else s.snapWin, resends := if power then [] else s.resends,
    winResends := if power then [] else s.winResends,
    dbg := if power then {} else { s.dbg with frozen := true },
    gov := if power && s.rst.tripped.isNone then {} else { temps := s.gov.temps, excursed := s.gov.excursed },
    pins := { tamperN := s.pins.tamperN, vioBad := s.pins.vioBad, thermTripN := s.rst.tripped.isNone } }

/-- RST_CAUSE with the cause of bit `k` and LAST set (R381). -/
def ResetCtl.caused (r : ResetCtl) (k : Nat) : ResetCtl := { r with cause := putBit r.cause k true, last := BitVec.ofNat 3 k }

/-- REFCLK counts for the storm's window of one second; the model counts it in CK_MGT cycles. -/
def stormWindow : Nat := 300000000

/-- A reset that restarts the option-load phase (R387): counted, and a storm latched at 16 within one second. -/
def ResetCtl.restarted (r : ResetCtl) (now : Nat) : ResetCtl :=
  let recent := r.recent.filter (fun t => now < t + stormWindow) ++ [now]
  let storm := 16 ≤ recent.length
  { r with restarts := min (r.restarts + 1) 31, recent := recent, storm := r.storm || storm,
           cause := if storm then putBit r.cause 7 true else r.cause }

/-- POWER_ON_RESET: everything but the kept state is cleared; RST_CAUSE holds POR only. A thermal trip that is not over holds the
reset, and what it latched stands (R378, R415). -/
def execPowerOnReset (s : State) : Result :=
  .next { (s.cleared true).mark 5 0 with rst := { level := .power, tripped := s.rst.tripped, tripWas := s.rst.tripWas } }

/-- A system reset with the cause of bit `k` (R378): during a power-on reset it is discarded. Clocks that the root PLL has stopped
start again by SYS_RST_N only (R398). -/
def State.systemReset (s : State) (k : Nat) : State :=
  if s.rst.level = .power then s
  else
    let r := if s.rst.loading then s.rst.restarted s.ltc.toNat else s.rst
    let s := (s.cleared false).mark 5 k
    { s with rst := { r.caused k with level := .system, loading := false, pllLost := r.pllLost && k != 1, waits := [] } }

def execSystemReset (byPin : Bool) (s : State) : Result := .next (s.systemReset (if byPin then 1 else 2))

/-- The watchdog fires once the management cores have stopped (R504). -/
def execSysWdog (s : State) : Result := .next (s.systemReset 3)

/-! ## Core reset (R324, R356, R390) -/

/-- A core reset's effect: units, Caller and ensembles cleared at once; memory, management and interfaces kept. -/
def State.coreCleared (s : State) : State :=
  let s := s.rst.waits.foldl (fun s w => s.supersede w.block.cls w.block.index) s
  let s := s.voidRequests (fun _ _ => true)
  let gws := (s.gws.map (fun (p : Nat × Gateway) => (p.1, ({ region := p.2.region } : Gateway)))).filter (fun p => p.2 != {})
  let ens := (s.ens.map (fun (p : Nat × Ens) => (p.1, ({ ckpts := p.2.ckpts } : Ens)))).filter (fun p => p.2 != {})
  { s with
    ens := ens, banks := [], lastBank := [], tiles := s.columnMaps, ses := [], sync := [], remote := [], mses := [], clusters := [],
    tlbs := [], walkers := [], slotWaits := [], era := s.era + 1, gws := gws, dsps := [], flops := [], beats := [],
    health := (s.health.map (fun (p : Nat × Health) => (p.1, { p.2 with walked := 0 }))).filter (fun p => p.2 != {}),
    loader := { s.loader with committed := [] },
    partner := { s.partner with adopted := [], handed := [] },
    dbg := { s.dbg with frozen := true } }

/-- A core reset; one requested during another reset or the option-load phase is discarded (R378, R387). -/
def State.coreReset (s : State) (byHost : Bool) : State :=
  if s.rst.level != .none || s.rst.loading then s
  else
    let s := s.coreCleared.standDone
    let s := { s.mark 5 (if byHost then 5 else 6) with rst := s.rst.caused (if byHost then 5 else 6) }
    s.raise (recOf cCoreReset 11 0)

def execCoreReset (byHost : Bool) (s : State) : Result := .next (s.coreReset byHost)

/-! ## The option-load phase (R385–R387, R489) -/

/-- The check value of the battery-backed key does not agree: the key is erased and TAMPERED set. -/
def State.eraseKey (s : State) (tampered : Bool) : State :=
  { (if tampered then s.mark 3 1 else s) with sec := { s.sec with bbk := 0, bbkCheck := 0, present := false, tampered := s.sec.tampered || tampered } }

/-- The TAMPER record, and its measurement (R489, R493). -/
def State.logTamper (s : State) : State :=
  ({ s with sec := { s.sec with owedTamper := false } }.extend 7 6 0xFFFF 0 (Config.sm3 [])).raise (recOf cTamper 11 0)

/-- The positions that spares serve by the manufacturing repair. -/
def madeServices (m : Map Nat) : Map Service :=
  m.foldl (fun x (p : Nat × Nat) => Map.set x {} p.1 ({ spare := some (p.2 - 1) } : Service)) []

/-- How many spares of each die or row pair the manufacturing repair uses. -/
def madeSpares (m : Map Nat) (group : Nat → Nat) : Map Nat :=
  m.foldl (fun x (p : Nat × Nat) => Map.set x 0 (group p.1) (max (Map.get x 0 (group p.1)) p.2)) []

/-- Tiles with nothing but the column maps of the manufacturing repair. -/
def madeTiles (m : Map (Map Spare)) : Map Tile :=
  m.foldl (fun x (p : Nat × Map Spare) => Map.set x {} p.1 ({ spares := p.2 } : Tile)) []

/-- Both copies of the repair map are lost: only the manufacturing repair of the fuses is applied, and field faults are found again
(R386). -/
def State.loseRepairs (s : State) : State :=
  let m := s.sec.fuses.repair
  let s := { s with tiles := madeTiles m.columns,
                    tserv := madeServices m.tiles, sserv := madeServices m.ses,
                    tspares := madeSpares m.tiles tierOf, sspares := madeSpares m.ses (· / 32), hstack := [],
                    pcs := (s.pcs.map (fun (p : Nat × Pc) =>
                      (p.1, ({ corrected := p.2.corrected, throttles := p.2.throttles } : Pc)))).filter (fun p => p.2 != ({} : Pc)),
                    health := [] }
  let s := { s with zegus := { s.zegus with links := s.linksAfter } }
  s.raise (recOf cRepairMapLost 11 0)

/-- Whether a thermal trip still holds the reset (R378, R415). -/
def State.tripHolds (s : State) : Bool := s.rst.tripped.isSome

/-- The end of the phase: the port split takes effect, repair is applied, tile stores are zero, the firmware is measured, and
what was found is logged; the boot load follows (R370, R371). -/
def State.optionsLoaded (s : State) (bbkIntact : Bool) (repairCopies : BitVec 2) : State :=
  let r := s.rst
  let s := { s with
    rst := { r with loading := false, storm := false, tripWas := none },
    tstore := [], tpoison := [], tfixed := [], terr := [], health := keptHealth s.health,
    keeper := { s.keeper with splitNow := s.keeper.splits, i3c := { s.keeper.i3c with hotJoin := true } },
    loader := { s.loader with phase := 1 },
    pins := { s.pins with cfgErrN := true, term := true } }
  let s := (s.measureFw 0 s.sec.fwSlot).measureFw 1 s.sec.stSlot
  let s := if repairCopies = 0 then s.loseRepairs else s
  let lost := s.sec.present && !bbkIntact
  let s := if lost then s.eraseKey true else s
  let s := if lost || s.sec.owedTamper then s.logTamper else s
  let s := if r.storm then s.raise (recOf cResetStorm 11 0) else s
  match r.tripWas with
  | some (n, t) =>
    let s := s.alertOn 16#7
    s.raise { recOf cThermTrip 11 0 with detail := n + 2 ^ 16 * patt 16 t }
  | none => s

/-- OPTION_LOAD: a reset whose sources have all gone ends and the phase begins; the phase, unless another reset restarts it,
ends. `repairCopies` says which copies of the repair map pass their check. -/
def execOptionLoad (bbkIntact : Bool) (repairCopies : BitVec 2) (s : State) : Result :=
  if s.rst.level != .none then
    if s.tripHolds then .next s
    else .next { s with rst := { s.rst with level := .none, loading := true } }
  else if s.rst.loading then .next (s.optionsLoaded bbkIntact repairCopies)
  else .next s

/-- Loss of the root PLL's lock stops every derived clock until SYS_RST_N or PWR_OK (R398). -/
def execPllUnlock (s : State) : Result :=
  if s.rst.pllLost then .next s
  else .next ({ s with rst := { s.rst with pllLost := true } }.raise (recOf cPllUnlock 11 0))

/-! ## PERST, training, FLR (R394, R395, R422) -/

/-- The logic of a port or half, and its channels, are reset. A HOST access of it that is not answered ends as HOST_ERR. -/
def State.resetHalf (s : State) (q : Nat) (linkUp : Bool) : State :=
  let mine (c : Nat) : Bool := s.ownerOf c == q
  let hostAgent (a : Agent) : Bool := match a with | .host h => mine h.chan | _ => false
  let sync := (s.sync.map (fun (p : Nat × SyncObj) => (p.1, { p.2 with waiters := p.2.waiters.filter (fun a => !hostAgent a) }))).filter
    (fun p => p.2 != {})
  let net := s.net.map (fun x => match x with
    | .resp r => if r.stack = atHost q then
        .ack { init := r.init, sub := r.sub, seq := r.seq, stack := r.stack, block := r.block, status := .hostErr } else x
    | .ack a => if a.stack = atHost q then .ack { a with status := .hostErr } else x
    | x => x)
  { s with
    sync := sync, net := net, sec := { s.sec with sessions := s.sec.sessions.erase q, spdmOut := s.sec.spdmOut.erase q },
    chans := s.chans.filter (fun p => !mine p.1), cacheLru := s.cacheLru.filter (fun c => !mine c),
    fns := s.fns.filter (fun p => p.1 / 64 != q), ports := s.ports.set {} q { up := linkUp && (s.port q).up } }

def execPerst (port : Nat) (s : State) : Result :=
  if 2 ≤ port then .next s else .next ((s.resetHalf (2 * port) false).resetHalf (2 * port + 1) false)

/-- A port's link trains: after the option-load phase, a half only where the port is split (R395). -/
def execPcieTraining (port half : Nat) (s : State) : Result :=
  if 2 ≤ port || 2 ≤ half || !s.portsUp || (half = 1 && !s.split port) then .next s
  else
    let q := 2 * port + half
    let fns := s.fns.map (fun (p : Nat × Fn) => (p.1, if p.1 / 64 = q then { p.2 with interval := p.2.minNs, empty := 0 } else p.2))
    .next { s with ports := s.ports.set {} q { up := true }, fns := fns }

/-- An FLR: of a physical function, its port's reset with the link up; of a virtual one, its channels are disabled and its
registers reset (R422, R543). -/
def execFlr (port fn : Nat) (s : State) : Result :=
  if 4 ≤ port || 64 ≤ fn then .next s
  else if fn = 0 then .next (s.resetHalf port true)
  else
    let cs := (s.chans.map Prod.fst).filter (fun c => c < 4096 && s.chanFn c == 64 * port + fn && (s.chan c).enabled)
    .next ((cs.foldl (fun s c => s.disableChan c none) s).setFn (64 * port + fn) {})

/-! ## Block resets (R391–R393) -/

/-- The unit number a block of class 0 or 1 has. -/
def blockUnit (b : BlockId) : Nat := if b.cls = 0 then b.index else 512 + b.index

/-- Whether a block exists. -/
def State.blockExists (s : State) (b : BlockId) : Bool :=
  match b.cls with
  | 0 => b.index < 512
  | 1 => b.index < 256
  | 2 => b.index < 768 && s.stackOn (b.index / 64)
  | 3 => b.index < 45
  | 4 => b.index < 4
  | _ => false

/-- The status that refuses a block reset, or none (R391). -/
def State.resetRefusal (s : State) (b : BlockId) : Option Nat :=
  if 5 ≤ b.cls then some stMalformed
  else if !s.blockExists b then some stRange
  else if s.resetting b.cls b.index then some stBusy
  else if b.cls = 2 && (s.pcs.get {} b.index).st != .serving then some stNotServing
  else if b.cls = 3 && (s.region b.index).st != .active then some stNotActive
  else none

/-- Step 1 and 2 of R391: the block's ensembles fault, and the block is asked to go idle; a stream engine's contexts
drain. A block reset's FAULT is the code of BLOCK_RESET, which R391 calls UNIT_RESET. While the root PLL is out of lock no unit has a
clock, and the reset only waits (R398). -/
def State.beginReset (s : State) (w : BlockWait) : State :=
  let b := w.block
  let s := { s with rst := { s.rst with waits := s.rst.waits ++ [w] } }
  if b.cls = 4 || s.rst.pllLost then s
  else if b.cls ≤ 1 then
    let u := blockUnit b
    let es := (List.range 8).filter (fun e => (s.en e).st != .idle && (s.en e).has u)
    let s := es.foldl (fun s e => s.faultMember e cBlockReset) s
    if b.cls = 1 then (List.range 8).foldl (fun s c => s.drainCtx b.index c) s else s
  else s

/-- Whether a block is idle; a PCIe port once every access of its channels is complete: completions written and the accesses of host
memory answered. -/
def State.blockIdle (s : State) (b : BlockId) : Bool :=
  match b.cls with
  | 0 => (s.firedAll b.index).isEmpty && (s.tile b.index).repair == .none
  | 1 => (List.range 8).all (fun c => (s.ctx b.index c).st == .idle)
  | 2 => let v := s.pcs.get {} b.index
         v.reads.isEmpty && v.writes.isEmpty
  | 3 => (List.range 28).all (fun g => (s.gw g).region != b.index || (s.gw g).cmds.all (fun c => c.status.isSome))
  | _ => s.chans.all (fun p => s.ownerOf p.1 != b.index || p.2.compls.isEmpty)
      && s.net.all (fun x => match x with
        | .resp r => r.stack != atHost b.index
        | .ack a => a.stack != atHost b.index
        | _ => true)

/-- What the reset of a tile clears: weights, accumulators, mask table, scales, and the vector state of R137, whose generators are
seeded again (DESIGN CHOICE: as at core reset; the rule says "cleared"). -/
def Tile.blockReset (t : Tile) : Tile :=
  { t with active := {}, shadow := {}, acc := [], blocks := [], masks := [], scales := [], repair := .none, vregs := [],
           vpoison := [], lmasks := [], sregs := [], lpoison := [], spoison := [], gens := [], gpoison := false, genEra := t.genEra + 1 }

/-- What the reset of a tile clears of each of its banks: step queue, token counters, credit pools. -/
def Bank.blockReset (b : Bank) : Bank := { b with queue := [], fired := [], tk := [], cp := [], window := [] }

/-- Step 4 of R391: the block is reset. -/
def State.resetBlock (s : State) (b : BlockId) (forced : Bool) : State :=
  match b.cls with
  | 0 =>
    let u := b.index
    let s := s.setTile u (s.tile u).blockReset
    (s.setBk u (s.bk u).blockReset).setBk (u + 1024) (s.bk (u + 1024)).blockReset
  | 1 =>
    let n := b.index
    let u := 512 + n
    let s := s.voidRequests (fun init _ => init == seInit n)
    let s := s.setSe n { s.se n with slots := [], ctxs := [] }
    let s := s.setTlb (seInit n) []
    (s.setBk u { s.bk u with fired := [] }).setBk (u + 1024) { s.bk (u + 1024) with fired := [] }
  | 2 =>
    let m := b.index / 64
    let p := b.index % 64
    if forced then s.freeze m p 4 0 0
    else s.setPc m p { s.pc m p with st := .training, reads := [], writes := [], drain := false, throttled := [], recent := [] }
  | 3 =>
    let s := s.isolate b.index
    let s := { s with flops := s.flops.drop (fun k => cellRegion (k / 2) == b.index) }
    s.setRegion b.index { s.region b.index with release := (s.region b.index).st == .active }
  | _ => s.resetHalf b.index false

/-- CLASS and UNIT of a block in a record (R313). -/
def blockRec (b : BlockId) : Rec :=
  match b.cls with
  | 0 => recOf cBlockReset 0 b.index
  | 1 => recOf cBlockReset 3 b.index
  | 2 => recOf cBlockReset 6 b.index
  | 3 => recOf cBlockReset 12 b.index
  | _ => recOf cBlockReset 10 (b.index / 2)

/-- Steps 4 and 5 for a block that waits. -/
def State.finishReset (s : State) (b : BlockId) (forced : Bool) : State :=
  match s.rst.waits.find? (fun w => w.block == b) with
  | none => s
  | some w =>
    let s := { s with rst := { s.rst with waits := remFirst (fun w => w.block == b) s.rst.waits } }
    let s := (s.resetBlock b forced).raise { blockRec b with detail := flag forced }
    s.answerReset w stOk (flag forced)

def execResetBlock (h : Issuer) (b : BlockId) (s : State) : Result :=
  s.command h (fun s =>
    if s.isVf h.chan || (b.cls = 4 && b.index / 2 = s.chanPort h.chan / 2) then s.answer h 0x10 stDenied
    else match s.resetRefusal b with
      | some st => s.answer h 0x10 st
      | none => s.beginReset { block := b, issuer := some h, port := none })

/-- The block is idle: it is reset (R391). -/
def execBlockIdle (b : BlockId) (s : State) : Result :=
  if !s.rst.pllLost && s.resetting b.cls b.index && s.blockIdle b then .next (s.finishReset b false) else .next s

/-- The block was not idle within BLOCK_IDLE_TIMEOUT: its reset is forced. -/
def execBlockIdleTimeout (b : BlockId) (s : State) : Result :=
  if s.rst.pllLost || !s.resetting b.cls b.index then .next s else .next (s.finishReset b (!s.blockIdle b))

end Sys2Proof.Machine
end

