-- ==== Sys2Proof/Machine/Answers.lean ====
section
/-! DEFINITION. Answers on the floor (R158, R172, R176, R235, R266, R277): read data, acknowledgements and RETRY, to the
stream engine or gateway that asked. An answer to any other initiator ends with its packet. An answer that an earlier one of its way is still ahead
of does not arrive yet (R269). -/

namespace Sys2Proof.Machine

/-- Whether an initiator is a gateway, and which. -/
def gatewayOf (init : Nat) : Option Nat := if 0x380 ≤ init && init < 0x39C then some (init - 0x380) else none

/-- Bytes of read data a response brings. -/
def respBytes (r : Resp) : Nat := r.data.length / 4 * (onesOf r.mask.toNat 4).length

/-- An answer that reaches its initiator after its reset is discarded, and counted at a stream engine (R392). -/
def State.discarded (s : State) (init : Nat) : State :=
  match engineOf init with
  | some n => s.setSe n { s.se n with late := (s.se n).late + 1 }
  | none => s

def execRdResp (r : Resp) (s : State) : Result :=
  if s.overtakes (s.sameWay (.resp r)) (.resp r) then .next s
  else
  let s := (s.takeResp r).countResp r.init.toNat r.sub.toNat r.seq.toNat (respBytes r)
  if r.sub = voidSub then .next (s.discarded r.init.toNat)
  else match engineOf r.init.toNat with
  | some n => .next (s.streamResp n (r.sub.toNat % 8) r)
  | none => match gatewayOf r.init.toNat with
    | some g => .next (s.gwResp g r.seq.toNat (r.vstate == 2) r.data)
    | none => .next s

def execAck (a : Ack) (s : State) : Result :=
  if s.overtakes (s.sameWay (.ack a)) (.ack a) then .next s
  else
  let s := (s.take (.ack a)).countResp a.init.toNat a.sub.toNat a.seq.toNat 0
  if a.sub = voidSub then .next (s.discarded a.init.toNat)
  else match engineOf a.init.toNat with
  | some n => .next (s.streamAck n (a.sub.toNat % 8) a)
  | none => match gatewayOf a.init.toNat with
    | some g => .next (s.gwAck g a.seq.toNat a.status)
    | none => .next s

/-- A request that was answered RETRY is issued again after 256 CK_NET cycles (R235). -/
def execRetry (init : BitVec 12) (sub : BitVec 4) (seq : W32) (s : State) : Result :=
  if s.rst.pllLost then .next s
  else match engineOf init.toNat with
  | some n => .next (s.streamRetry n (sub.toNat % 8) seq.toNat)
  | none => match gatewayOf init.toNat with
    | some g => .next (s.gwRetry g seq.toNat)
    | none => .next s

end Sys2Proof.Machine
end

