-- ==== Sys2Proof/Machine/Governor.lean ====
section
/-! DEFINITION. Power and thermal governance (R396–R419, R439): the limits table, the control interval, operating points
and voltages, sensors, emergencies, and rails. -/

namespace Sys2Proof.Machine

/-! ## The limits table (R307, R416, R439) -/

/-- A limit field given a value. -/
def State.setLimit (s : State) (id v : Nat) : State :=
  let x := if v = limitDefault s.variant id then 0 else v + 1
  { s with keeper := { s.keeper with limits := s.keeper.limits.set 0 id x } }

def State.setPairs (s : State) (pairs : List (Nat × Nat)) : State :=
  pairs.foldl (fun (s : State) (x : Nat × Nat) => s.setLimit x.1 x.2) s

/-- The pairs a SET_LIMITS names: an ID of 0 marks an unused one. -/
def usedPairs (pairs : List (BitVec 16 × W32)) : List (Nat × Nat) :=
  (pairs.filter (fun (x : BitVec 16 × W32) => x.1 != 0)).map (fun (x : BitVec 16 × W32) => (x.1.toNat, x.2.toNat))

/-- Whether a SET_LIMITS is accepted: no field twice, every field known and in range, and T_TARGET below T_HOT once those
accepted before it are in force too. -/
def State.limitsOk (s : State) (pairs : List (Nat × Nat)) : Bool :=
  let after := (s.keeper.limitQ.foldl (fun s q => s.setPairs q.2.2) s).setPairs pairs
  pairs.length ≤ 7 && (pairs.map Prod.fst).Nodup
    && pairs.all (fun x => match limitRange s.variant x.1 with
      | some r => r.1 ≤ x.2 && x.2 ≤ r.2
      | none => false)
    && after.limit 0x03 < after.limit 0x04

/-- An accepted SET_LIMITS waits at the keeper for the next control interval. -/
def State.queueLimits (s : State) (h : Option Issuer) (p : Option (MPort × Byte)) (pairs : List (Nat × Nat)) : State :=
  { s with keeper := { s.keeper with limitQ := s.keeper.limitQ ++ [(h, p, pairs)] } }

/-- The hot rows that a lower threshold makes reach it (R245). -/
def State.recheckHot (s : State) : State :=
  let thr := s.limit 0x22
  s.pcs.foldl (fun s (x : Nat × Pc) => x.2.banks.foldl (fun s (y : Nat × DBank) => y.2.hot.foldl (fun s (z : Nat × HotRow) =>
    match z.2.row with
    | none => s
    | some row =>
      if z.2.count < thr then s
      else
        let stack := x.1 / 64
        let p := x.1 % 64
        let v := s.pc stack p
        let b := v.banks.get {} y.1
        let s := s.setPc stack p { v with banks := v.banks.set {} y.1 { b with hot := b.hot.set {} z.1 { z.2 with count := 0 } } }
        match z.2.init with
        | some i => s.throttle stack p y.1 row i
        | none => s) s) s) s

/-- CLASS and UNIT of a place in the health sequence: the inverse of `healthIdx`. -/
def healthUnit (i : Nat) : Nat × Nat :=
  if i < 512 then (0, i) else if i < 2560 then (1, i - 512) else if i < 3072 then (2, i - 2560)
  else if i < 3328 then (3, i - 3072) else if i < 3424 then (5, i - 3328) else if i < 4192 then (6, i - 3424)
  else if i < 4480 then (7, i - 4192) else (13, i - 4480)

/-- Units that already meet a new exit condition change state at once (R307). -/
def State.resettle (s : State) : State :=
  s.health.foldl (fun s (x : Nat × Health) =>
    let u := healthUnit x.1
    if x.2.st = .observed && u.1 != 6 && 0 < x.2.events && s.limit 0x13 ≤ x.2.events then s.retired u.1 u.2
    else s.settle u.1 u.2) s

/-- The limits accepted since the last interval take effect, each command whole and in order (R18, R439). -/
def State.takeLimits (s : State) : State :=
  if s.keeper.limitQ.isEmpty then s
  else
    let q := s.keeper.limitQ
    let s := { s with keeper := { s.keeper with limitQ := [] } }
    let s := q.foldl (fun s x =>
      let s := s.setPairs x.2.2
      let s := match x.1 with
        | some h => s.complete h 0x0D stOk
        | none => s
      match x.2.1 with
      | some (p, seq) => s.respond p 0x06 seq.toNat stOk
      | none => s) s
    s.recheckHot.resettle

/-! ## Operating points (R405–R408) -/

/-- The rate of an operating point. -/
def opRate (op : Nat) : Nat := nth [64, 60, 56, 52, 48, 40, 32, 16] op 16

/-- The tier voltage of an operating point, in mV. -/
def opMv (op : Nat) : Nat := nth [750, 730, 705, 685, 660, 620, 580, 580] op 580

/-- Domains 0–31 are the tier dies, 32 + n the memory-side engines. -/
def State.domains (s : State) : List Nat := List.range 32 ++ s.variant.stacks.map (· + 32)

/-- The voltage set point of a domain at a point: with DVFS = 0 a tier stays at 750 mV; a memory-side domain has none. -/
def State.opVoltage (s : State) (d op : Nat) : Nat := if 32 ≤ d || s.limit 0x06 = 0 then 750 else opMv op

/-- A domain takes a point (R407): the rate falls first; it rises at once only where the voltage already supports it, and
with VOLTAGE_SETTLED otherwise. -/
def State.takePoint (s : State) (d op : Nat) : State :=
  let v := s.dom d
  let rate := opRate op
  let mv := s.opVoltage d op
  if mv ≤ v.mv then s.setDom d { v with op := op, rate := rate, mv := mv, rising := false }
  else s.setDom d { v with op := op, rate := min rate v.rate, rising := true }

/-- The voltage of a domain whose point was raised has settled: the rate rises to the point. -/
def execVoltageSettled (domain : Nat) (s : State) : Result :=
  let v := s.dom domain
  if v.rising then
    .next (s.setDom domain { v with rate := opRate v.op, mv := s.opVoltage domain v.op, rising := false })
  else .next s

/-- The points in force once every ensemble has one point (R408): an ensemble takes the lowest its domains propose, a domain
the lowest of its ensembles. -/
def State.levelPoints (s : State) (want : Nat → Nat) (d : Nat) : Nat :=
  let es := (List.range 8).map s.ensDomains
  ((es.filter (fun l => l.contains d)).flatMap (fun l => l.map want)).foldl max (want d)

/-! ## The governors (R409–R412, R418) -/

/-- The sensors of a domain (R409). -/
def domainSensors (d : Nat) : List Nat :=
  if d < 32 then (List.range 18).map (· + 18 * d) else (List.range 8).map (· + (832 + 8 * (d - 32)))

/-- The hottest sensor of a domain, in 1/16 °C. -/
def State.hottest (s : State) (d : Nat) : Int :=
  ((domainSensors d).map (fun n => s.gov.temps.get 0 n)).foldl max (s.gov.temps.get 0 ((domainSensors d).headD 0))

/-- The thermal governor's next point of a domain, from the point it is at: one lower above T_TARGET, one higher 3 °C below it (R412). -/
def State.thermStep (s : State) (d : Nat) : Nat :=
  let t := s.hottest d
  let v := s.dom d
  let target : Int := s.limit 0x03
  if 16 * target < t then min (v.op + 1) 7 else if t ≤ 16 * (target - 3) then v.op - 1 else v.op

/-- Whether a DRAM die holds a memory-side domain at OP5 or lower. -/
def State.dramHolds (s : State) (d : Nat) : Bool :=
  32 ≤ d && (s.stk (d - 32)).dies.any (fun t => 16 * (s.limit 0x05 : Int) ≤ t)

/-- The thermal governor's proposal for a domain. -/
def State.thermPoint (s : State) (d : Nat) : Nat := if s.dramHolds d then max 5 (s.dom d).thermOp else (s.dom d).thermOp

/-- Tier power in the units of the keeper's model, rate × square of the voltage, over the 32 tier dies. -/
def tierPower (f : Nat → Nat × Nat) : Nat := ((List.range 32).map (fun d => (f d).1 * (f d).2 * (f d).2)).sum

/-- The tier power predicted at point `op`, from that measured at the points in force; the other consumers are taken to draw
what they drew. -/
def State.predicted (s : State) (tierWatts op : Nat) : Nat :=
  let now := tierPower (fun d => ((s.dom d).rate, (s.dom d).mv))
  let new := tierPower (fun d => let p := max op (s.thermPoint d); (opRate p, s.opVoltage d p))
  (tierWatts * new + now - 1) / now

/-- The power governor's point: the highest at which the predicted power stays at or under P_CAP, and whether one is. -/
def State.powerPoint (s : State) (watts tierWatts : Nat) : Nat × Bool :=
  match (List.range 8).find? (fun op => watts - tierWatts + s.predicted tierWatts op ≤ s.limit 0x01) with
  | some op => (op, true)
  | none => (7, false)

/-- CAP_UNMET is raised when it was not set. -/
def State.capUnmet (s : State) : State :=
  let t := s.mark 2 4
  if s.gov.capUnmet then t else { t with gov := { t.gov with capUnmet := true } }.raise (recOf cCapUnmet 11 0)

/-- The domains that the governors act on: while the current limit holds, the tier domains stay at OP7 (R414). -/
def State.governed (s : State) : List Nat := if 0 < s.gov.current then s.domains.filter (32 ≤ ·) else s.domains

/-- The points that both governors propose, put in force. A governor that lowers a point raises its record. -/
def State.govern (s : State) (watts tierWatts : Nat) : State :=
  let ds := s.governed
  let hotter := ds.any (fun d => (s.dom d).op < s.thermStep d)
  let s := ds.foldl (fun s d => s.setDom d { s.dom d with thermOp := s.thermStep d }) s
  let p := s.powerPoint watts tierWatts
  let capped := ds.any (fun d => (s.dom d).powerOp < p.1)
  let s := ds.foldl (fun s d => s.setDom d { s.dom d with powerOp := p.1 }) s
  let point := s.levelPoints (fun d => max p.1 (s.thermPoint d))
  let s := (ds.map (fun d => (d, point d))).foldl (fun (s : State) (x : Nat × Nat) => s.takePoint x.1 x.2) s
  let s := if hotter then s.raise (recOf cThermalThrottle 11 0) else s
  let s := if capped then s.raise (recOf cPowerCapped 11 0) else s
  if p.2 then s else s.capUnmet

/-! ## Beats in service (R296, R302) -/

/-- CK_ARR cycles in a control interval of 10 µs. -/
def intervalBeats : Nat := 12000

/-- The beats an interval delivers to a unit whose health counts them, and none where the unit is out of service: a vector
unit or cluster in the beats of its domain; a stream engine, a SERVING pseudo-channel and a lane whose link is UP in all. None are delivered
while the root PLL is out of lock (R398). -/
def State.servedBeats (s : State) (cls unit : Nat) : Nat :=
  if s.rst.pllLost then 0
  else match cls with
  | 2 => intervalBeats * (s.dom (tierOf unit)).rate / 64
  | 3 => intervalBeats
  | 5 => if s.stackOn (unit / 8) then intervalBeats * (s.dom (32 + unit / 8)).rate / 64 else 0
  | 6 => if s.stackOn (unit / 64) && (s.pcs.get {} unit).st = .serving && !s.resetting 2 unit then intervalBeats else 0
  | 7 => if (s.link (unit / 18)).st = .up then intervalBeats else 0
  | _ => if s.partner.linkUp then intervalBeats else 0

/-- The classes whose units count beats, with how many units each has (R296, R313). -/
def beatClasses : List (Nat × Nat) := [(2, 512), (3, 256), (5, 96), (6, 768), (7, 288), (13, 16)]

/-- One unit's beats of an interval; a unit that is HEALTHY or RETIRED counts none, because a health event restarts the
count. -/
def State.countBeats (s : State) (cls unit : Nat) : State :=
  match healthIdx cls unit with
  | none => s
  | some i =>
    let h := s.hl i
    if h.st = .healthy || h.st = .retired then s
    else (s.setHl i { h with beats := h.beats + s.servedBeats cls unit }).settle cls unit

def State.countAllBeats (s : State) : State :=
  beatClasses.foldl (fun (s : State) (x : Nat × Nat) => (List.range x.2).foldl (fun s u => s.countBeats x.1 u) s) s

/-! ## The control interval -/

/-- One control interval (R410), with the power measured in the last. While HOT_N is asserted the governors wait (R413), and for an
interval after the current limit was met they act on the memory-side domains only (R414). -/
def State.interval (s : State) (watts tierWatts : Nat) : State :=
  let s := { s with gov := { s.gov with power := watts % 65536, current := s.gov.current - 1 } }
  let s := s.takeLimits.countAllBeats
  if s.gov.hot then s else s.govern watts tierWatts

/-! ## Emergencies (R413, R414) -/

/-- The domains that a sensor's excess slows: those of its die; of a sensor on the floor, the fabric included, or on a base
die, every one. -/
def State.hotDomains (s : State) (n : Nat) : List Nat :=
  if n < 576 then [n / 18]
  else if n < 928 || (1012 ≤ n && n < 1024) then s.domains
  else []

/-- HOT_N and the domains of the hot die, and the release once every sensor is 5 °C below (R413). -/
def State.checkHot (s : State) (n : Nat) (temp : Int) : State :=
  let hot : Int := 16 * s.limit 0x04
  if hot ≤ temp then
    let s' := (s.hotDomains n).foldl (fun s d => s.takePoint d 7) s
    if s.gov.hot then s'
    else
      let s := { s' with gov := { s'.gov with hot := true }, pins := { s'.pins with hotN := !s'.pins.outputs } }
      (s.alertOn 8#7).raise { recOf cHotAsserted 11 0 with detail := n }
  else if s.gov.hot && (s.gov.temps.filter (fun (x : Nat × Int) => x.1 < 1024)).all (fun (x : Nat × Int) => x.2 < hot - 80) then
    { s with gov := { s.gov with hot := false }, pins := { s.pins with hotN := true } }
  else s

/-- The units whose nearest sensor is `n` and to which a thermal excursion is a health event (R304). -/
def State.excursionUnits (s : State) (n : Nat) : List (Nat × Nat) :=
  if n < 576 then
    ((List.range 16).map (fun j => n / 18 / 8 * 128 + j / 4 * 32 + n / 18 % 8 * 4 + j % 4)).filterMap (fun t =>
      if s.tileSensor t = n then some (0, t) else none)
  else if 832 ≤ n && n < 928 && s.stackOn ((n - 832) / 8) then
    (5, n - 832) :: (List.range 8).map (fun i => (6, 8 * (n - 832) + i))
  else []

/-- A thermal excursion counts once per crossing, and is armed again 5 °C below (R304). -/
def State.checkExcursion (s : State) (n : Nat) (temp : Int) : State :=
  let lim : Int := 16 * s.limit 0x16
  if lim ≤ temp then
    if s.gov.excursed.contains n then s
    else
      let s := { s with gov := { s.gov with excursed := addIdx s.gov.excursed n } }
      (s.excursionUnits n).foldl (fun (s : State) (x : Nat × Nat) => s.healthEvent x.1 x.2) s
  else if temp ≤ lim - 80 then { s with gov := { s.gov with excursed := remIdx s.gov.excursed n } }
  else s

/-- A sensor is read, in 1/16 °C (R409). In a reset the reading only counts toward the end of a thermal trip. -/
def execSensorRead (sensor : Nat) (temp : Int) (s : State) : Result :=
  if 1024 ≤ sensor then .next s
  else
    let s := ({ s with gov := { s.gov with temps := s.gov.temps.set 0 sensor temp } }).endTrip
    if s.watched then .next ((s.checkHot sensor temp).checkExcursion sensor temp) else .next s

/-- VIN_CORE current at I_FAST: every tier domain goes to OP7 until a whole interval has passed (R414). -/
def execIFast (s : State) : Result :=
  if !s.watched then .next s
  else
    let s := (List.range 32).foldl (fun s d => s.takePoint d 7) s
    .next { s with gov := { s.gov with current := 2 } }

/-- A thermal trip: the sensor and its reading are latched, THERM_TRIP_N falls and a system reset follows (R415); in a power-on reset,
which discards that, the trip still extends the reset (R378). Sensor
1,024 + 16s + d stands for DRAM die d of stack s. -/
def execThermTrip (sensor : Nat) (temp : Int) (s : State) : Result :=
  if temp < tripPoint sensor then .next s
  else
    let s := s.systemReset 4
    .next { s with
      gov := { s.gov with temps := s.gov.temps.set 0 sensor temp },
      rst := { s.rst with tripped := some (sensor, temp) },
      pins := { s.pins with thermTripN := false } }

/-! ## Rails (R401–R404, R532) -/

/-- Rails are numbered in the order of R401's table: 0 VIN_CORE, 7 VK, 8 to 19 the user I/O banks, 20 VBAT. A tier die's
domain output out of range is named by the die instead. VK out of range is a power-on reset. -/
def execRailFault (rail : Nat) (tier : Option Nat) (s : State) : Result :=
  match tier with
  | some t =>
    if 32 ≤ t || !s.watched then .next s
    else .next (((List.range 512).filter (fun n => tierOf n == t)).foldl (fun s n => s.healthEvent 0 n) s)
  | none =>
    if rail = 7 then execPowerOnReset s
    else if 21 ≤ rail then .next s
    else
      let s := if 8 ≤ rail && rail < 20 then { s with pins := { s.pins with vioBad := addIdx s.pins.vioBad (rail - 8) } } else s
      let early := 8 ≤ rail && rail < 20 && !s.pins.outputs
      if early || s.rst.level != .none then .next s
      else .next (s.raise { recOf cRailFault 11 0 with detail := rail })

/-- A used bank's supply is again at the level the image declares: its pads are enabled (R532). -/
def execVioSupplyReturned (bank : Nat) (s : State) : Result :=
  .next { s with pins := { s.pins with vioBad := remIdx s.pins.vioBad bank } }

end Sys2Proof.Machine
end

