-- ==== Sys2Proof/Machine/Net.lean ====
section
/-! DEFINITION. The floor network (R262–R279): link resends and the sampling windows of its statistics. Routing, virtual
channels and flow control order packets of one pair only, and the model's packets arrive as their commands come. -/

namespace Sys2Proof.Machine

/-- A flit that fails its CRC on a link is discarded and sent again from the sender's retry buffer; order is kept, and the resend
is counted for the link (R274). -/
def execLinkResend (link : Nat) (s : State) : Result :=
  if !isLink link then .next s
  else .next { s with resends := s.resends.set 0 link (satAdd 32 (s.resends.get 0 link) 1),
                      winResends := s.winResends.set 0 link (satAdd 32 (s.winResends.get 0 link) 1) }

/-- The stacks' byte counts of a window: those of the last are replaced unless the snapshot is held. -/
def State.closeBytes (s : State) (keep : Bool) : State :=
  { s with hstack := (s.hstack.map (fun (p : Nat × Stack) => (p.1, if keep then { p.2 with rdNow := 0, wrNow := 0 }
      else { p.2 with rdNow := 0, wrNow := 0, rdBytes := p.2.rdNow, wrBytes := p.2.wrNow }))).filter (fun p => p.2 != {}) }

/-- A sampling window ends (R278): the counters become the snapshot unless FREEZE is set, and start again. `flits` gives
the flits a link has carried in the window; more than one resend in 10⁶ of them raises NET_LINK_DEGRADED, about the link's router
and, in DETAIL, its side (R274, R279). -/
def execStatWindow (flits : List (Nat × Nat)) (s : State) : Result :=
  let carried (r : Nat) : Nat := ((flits.find? (fun p => p.1 == r)).map Prod.snd).getD 0
  let bad := s.winResends.filter (fun p => carried p.1 < 1000000 * p.2)
  let windows := s.windows + 1
  let s := { s with windows := windows, winResends := [] }
  let keep := bitOf s.sample 8
  let s := if keep then s else { s with snapshot := s.counts, snapWin := windows }
  let s := { s.closeBytes keep with counts := [] }
  .next (bad.foldl (fun s p => s.raise { recOf cNetLinkDegraded 9 (p.1 / 4) with detail := p.1 % 4 }) s)

/-- A write of NET_SAMPLE: window length and FREEZE; RESTART clears the running counters and starts a window at once. -/
def State.writeSample (s : State) (v : W32) : State :=
  let s := { s with sample := v &&& 0x11F }
  if bitOf v 9 then { s.closeBytes true with counts := [], winResends := [] } else s

def execRestart (v : W32) (s : State) : Result := .next (s.writeSample v)

end Sys2Proof.Machine
end

