-- ==== Sys2Proof/Machine/Registers.lean ====
section
/-! DEFINITION. The set-up registers of BAR0 and the management registers (R4–R6, R539–R547): where each one is, what a read
of it returns and what a write of it does. -/

namespace Sys2Proof.Machine

/-- The registers. `word` numbers the 32-bit words of the MSI-X table and pending array of a function. -/
inductive Reg where
  | rstCause | rstCtl | govStatus | memRegion | astBase | netSample | netWindows
  | fabClk (k : Nat) | gwCtl (n : Nat) | gwStat (n : Nat) | cfgStatus | cfgRegion (n : Nat)
  | zlCtl | zlRtBase | zlStat (n : Nat) | ptnCtl | ptnStat | secStatus
  | hostCht (fn : Nat) | hostSummary (fn : Nat) | hostPoll (fn : Nat)
  | adminSq (fn : Nat) | adminCq (fn : Nat) | adminEq (fn : Nat) | adminDb (fn : Nat)
  | msixTable (fn word : Nat) | msixPba (fn word : Nat)
  | alertStatus | alertMask | mgmtCfg | logStatus
deriving DecidableEq, Repr

/-- Whether a register is 64 bits wide. -/
def Reg.wide (r : Reg) : Bool :=
  match r with
  | .astBase | .zlRtBase | .hostCht _ | .hostSummary _ | .adminSq _ | .adminCq _ | .adminEq _ | .adminDb _ | .logStatus => true
  | _ => false

/-- The index of an indexed register `base + step × n` at an offset. -/
def indexed (off base step count : Nat) : Option Nat :=
  if base ≤ off && (off - base) % step = 0 && (off - base) / step < count then some ((off - base) / step) else none

/-- The register at an offset of the device blocks (R544). -/
def deviceReg (off : Nat) : Option Reg :=
  match off with
  | 0x10000 => some .rstCause
  | 0x10004 => some .rstCtl
  | 0x10100 => some .govStatus
  | 0x20000 => some .memRegion
  | 0x20008 => some .astBase
  | 0x30000 => some .netSample
  | 0x30004 => some .netWindows
  | 0x50000 => some .cfgStatus
  | 0x60000 => some .zlCtl
  | 0x60008 => some .zlRtBase
  | 0x70000 => some .ptnCtl
  | 0x70004 => some .ptnStat
  | 0x80000 => some .secStatus
  | _ =>
    ((indexed off 0x40000 4 32).map Reg.fabClk).or (((indexed off 0x40100 8 28).map Reg.gwCtl).or
      (((indexed off 0x40104 8 28).map Reg.gwStat).or (((indexed off 0x50100 4 45).map Reg.cfgRegion).or
        ((indexed off 0x60100 4 16).map Reg.zlStat))))

/-- The register at an offset of a function's block (R542). -/
def functionReg (fn off : Nat) (msix : Bool) : Option Reg :=
  let pf := fn % 64 == 0
  match off with
  | 0x0000 => if pf then some (.hostCht fn) else none
  | 0x0008 => some (.hostSummary fn)
  | 0x0010 => some (.hostPoll fn)
  | 0x0018 => if pf then some (.adminSq fn) else none
  | 0x0020 => if pf then some (.adminCq fn) else none
  | 0x0028 => if pf then some (.adminEq fn) else none
  | 0x0030 => if pf then some (.adminDb fn) else none
  | _ =>
    if msix then
      ((indexed off 0x4000 4 (if pf then 64 else 2)).map (Reg.msixPba fn)).or
        ((indexed off 0x8000 4 (if pf then 8192 else 256)).map (Reg.msixTable fn))
    else none

/-- The register at an offset of a function's BAR0 (R539). -/
def barReg (fn off : Nat) : Option Reg :=
  if off < 0x10000 then functionReg fn off true else if fn % 64 = 0 then deviceReg off else none

/-- The register at an offset of management space (R546, R547). -/
def State.mgmtReg (s : State) (off : Nat) : Option Reg :=
  if off < 0x90000 then deviceReg off
  else if 0x1000000 ≤ off && off < 0x1040000 then
    let q := (off - 0x1000000) / 0x10000
    if q % 2 = 1 && !s.split (q / 2) then none else functionReg (64 * q) (off % 0x10000) false
  else match off with
    | 0x2000000 => some .alertStatus
    | 0x2000004 => some .alertMask
    | 0x2000008 => some .mgmtCfg
    | 0x2000010 => some .logStatus
    | _ => none

/-! ## Reads -/

/-- RST_CAUSE (R381). -/
def State.rstCause (s : State) : Nat := s.rst.cause.toNat + s.rst.last.toNat * 2 ^ 8 + 2 ^ 16 * s.rst.restarts

/-- The point whose rate is in force. -/
def opOfRate (rate : Nat) : Nat := ((List.range 8).find? (fun op => opRate op ≤ rate)).getD 7

/-- GOV_STATUS (R418). -/
def State.govStatus (s : State) : Nat :=
  let g := s.gov
  let ds := s.domains
  flag (ds.any (fun d => 0 < (s.dom d).powerOp)) + flag (ds.any (fun d => 0 < s.thermPoint d)) * 2
    + flag g.hot * 4 + flag (0 < g.current) * 8 + flag g.capUnmet * 16
    + (ds.map (fun d => opOfRate (s.dom d).rate)).foldl max 0 * 32 + 2 ^ 16 * g.power

/-- GW_STATn (R348). -/
def State.gwStat (s : State) (n : Nat) : Nat :=
  let v := s.gw n
  v.cmds.length % 512 + flag (s.regionAbsent n) * 2 ^ 9 + 2 ^ 10 * flag v.err + 2 ^ 11 * flag v.refused

/-- ZL_STATn (R456). -/
def State.zlStat (s : State) (n : Nat) : Nat :=
  let v := s.link n
  (match v.st with | .down => 0 | .training => 1 | .ident => 2 | .up => 3 | .recovery => 4 | .refused => 5)
    + v.active.length * 2 ^ 3 + (if s.linkOn n then v.spares.length else 0) * 2 ^ 8 + 2 ^ 10 * v.peer.toNat
    + 2 ^ 24 * flag v.mismatch

def PairState.code : PairState → Nat
  | .bench => 0
  | .linking => 1
  | .paired => 2
  | .partitioned => 3
  | .severed => 4
  | .takenOver => 5
  | .fenced => 6

/-- PTN_STAT (R472). -/
def State.ptnStat (s : State) : Nat :=
  let p := s.partner
  p.st.code + flag p.roleB * 2 ^ 3 + flag p.shadowOk * 2 ^ 4 + p.lanes.length * 2 ^ 5 + 2 ^ 10 * flag p.sideband
    + 2 ^ 16 * (p.ckptNo % 65536)

/-- Whether some owner slot is programmed and not revoked (R482). -/
def Fuses.ownerSet (f : Fuses) : Bool := (List.range 4).any f.ownerLive

/-- SEC_STATUS (R502). -/
def State.secStatus (s : State) : Nat :=
  let x := s.sec
  flag x.present + flag x.tampered * 2 + flag x.fuses.ownerSet * 4 + flag x.fuses.fusedOff * 8 + flag x.fuses.bbkOff * 16
    + x.fwSlot * 32 + flag x.fwTrial * 64 + flag x.logOvf * 128

/-- A word of a function's MSI-X table: address, data, vector control (R542). -/
def Vector.word (v : Vector) (i : Nat) : Nat :=
  match i with
  | 0 => v.addr.toNat % 2 ^ 32
  | 1 => v.addr.toNat / 2 ^ 32
  | 2 => v.data.toNat
  | _ => flag v.masked

/-- What a read of a register returns. -/
def State.readReg (s : State) (r : Reg) : Nat :=
  match r with
  | .rstCause => s.rstCause
  | .rstCtl => 0
  | .govStatus => s.govStatus
  | .memRegion => s.memRegion + flag s.memRej * 2 ^ 8
  | .astBase => 2 ^ 14 * s.astBase + flag s.astRej
  | .netSample => s.sample.toNat
  | .netWindows => s.windows.toNat
  | .fabClk k => (s.fclk k).toNat + 2 ^ 14 * flag (bitOf s.fclkRej k)
  | .gwCtl n => (s.gw n).ctl.toNat
  | .gwStat n => s.gwStat n
  | .cfgStatus => s.cfgStatus.toNat
  | .cfgRegion n => (s.cfgRegion n).toNat
  | .zlCtl => s.zegus.ctl.toNat
  | .zlRtBase => s.zegus.rtBase.toNat
  | .zlStat n => s.zlStat n
  | .ptnCtl => s.partner.ctl.toNat
  | .ptnStat => s.ptnStat
  | .secStatus => s.secStatus
  | .hostCht f => (s.fn f).cht.toNat
  | .hostSummary f => (s.fn f).summary.toNat
  | .hostPoll f => (s.fn f).poll.toNat
  | .adminSq f => (s.fn f).adminSq.toNat
  | .adminCq f => (s.fn f).adminCq.toNat
  | .adminEq f => (s.fn f).adminEq.toNat
  | .adminDb f => (s.fn f).adminDb.toNat
  | .msixTable f w => ((s.fn f).vectors.get {} (w / 4)).word (w % 4)
  | .msixPba f w => ((List.range 32).map (fun i => flag ((s.fn f).vectors.get {} (32 * w + i)).pending * 2 ^ i)).sum
  | .alertStatus => s.keeper.alert.toNat
  | .alertMask => 1 + s.keeper.mask.toNat * 2
  | .mgmtCfg => s.keeper.cfg.toNat
  | .logStatus => s.keeper.nextGen + 2 ^ 40 * s.keeper.nextDev

/-- What a read of 32 or 64 bits at an aligned offset returns (R540): a register, half of one, or two side by side; 0 where
there is none. -/
def State.readAt (s : State) (at' : Nat → Option Reg) (off : Nat) (wide : Bool) : Nat :=
  let narrow (off : Nat) : Nat :=
    match at' off with
    | some r => s.readReg r % 2 ^ 32
    | none => match at' (off - 4) with
      | some r => if r.wide && off % 8 = 4 then s.readReg r / 2 ^ 32 else 0
      | none => 0
  if off % (if wide then 8 else 4) != 0 then 0
  else if wide then narrow off + 2 ^ 32 * narrow (off + 4) else narrow off

/-! ## Writes -/

/-- Who writes: a function through its BAR0, or the management port (R541). -/
inductive RegSource where
  | bar | mgmt
deriving DecidableEq, Repr

/-- A write of RST_CTL (R382): with the key, a core reset, or, through management space only, a system reset. -/
def State.writeRstCtl (s : State) (who : RegSource) (v : Nat) : State :=
  if bits v 16 16 != 0x5EED then s
  else if bit v 1 && who = .mgmt then s.systemReset 2
  else if bit v 0 then s.coreReset (who = .bar)
  else s

/-- A write of a function's set-up register (R423): ignored while the poller runs, except for one that stops it. -/
def State.writeFn (s : State) (fn : Nat) (f : Fn → Fn) (stops : Bool) : State :=
  let v := s.fn fn
  if bitOf v.summary 0 && !stops then s else s.setFn fn (f v)

/-- A write of HOST_SUMMARY: the poll interval starts at its shortest when EN becomes 1 (R433). -/
def State.writeSummary (s : State) (fn : Nat) (v : W64) : State :=
  s.writeFn fn (fun f =>
    let on := bitOf v 0 && !bitOf f.summary 0
    let f := { f with summary := v &&& 0xFFFFFFFFFFFFFFC1 }
    if on then { f with interval := f.minNs, empty := 0 } else f) (!bitOf v 0)

/-- The admin ring of a function starts again once its registers are rewritten (R427). -/
def State.restartAdmin (s : State) (fn : Nat) : State :=
  let c := 4096 + fn / 64
  let v := s.chan c
  s.setChan c { v with sqHead := 0, sqSaid := 0, sqTail := 0, cqHead := 0, cqTail := 0, eqHead := 0, eqTail := 0, phase := true,
                       stopped := false }

/-- A write of an admin register of a physical function. -/
def State.writeAdmin (s : State) (fn : Nat) (f : Fn → Fn) : State :=
  if bitOf (s.fn fn).summary 0 then s else (s.setFn fn (f (s.fn fn))).restartAdmin fn

/-- A write of a word of the MSI-X table: a vector unmasked while pending is raised. -/
def State.writeVector (s : State) (fn word v : Nat) : State :=
  let f := s.fn fn
  let k := word / 4
  let x := f.vectors.get {} k
  let x' : Vector := match word % 4 with
    | 0 => { x with addr := BitVec.ofNat 64 (2 ^ 32 * (x.addr.toNat / 2 ^ 32) + v / 4 * 4 % 2 ^ 32) }
    | 1 => { x with addr := BitVec.ofNat 64 (x.addr.toNat % 2 ^ 32 + 2 ^ 32 * (v % 2 ^ 32)) }
    | 2 => { x with data := BitVec.ofNat 32 v }
    | _ => { x with masked := bit v 0 }
  let go := x'.pending && !x'.masked
  let s := s.setFn fn { f with vectors := f.vectors.set {} k (if go then { x' with pending := false } else x') }
  if go then s.raiseVector fn k else s

/-- A write of a register, of its own width, under the access types of its fields; a bit that the device has set in this CK_MGT
cycle is not cleared (R5). -/
def State.writeReg (s : State) (who : RegSource) (r : Reg) (v : Nat) : State :=
  let w := BitVec.ofNat 32 v
  let w64 := BitVec.ofNat 64 v
  match r with
  | .rstCause => { s with rst := { s.rst with cause := s.rst.cause &&& ~~~(BitVec.ofNat 8 (s.clearing 5 0 8 v)) } }
  | .rstCtl => s.writeRstCtl who v
  | .govStatus => if bit v 4 && s.clears 2 4 then { s with gov := { s.gov with capUnmet := false } } else s
  | .memRegion => s.writeMemRegion w
  | .astBase => s.writeAstBase w64
  | .netSample => s.writeSample w
  | .fabClk k => s.writeFclk k w
  | .gwCtl n => s.setGw n { s.gw n with ctl := w &&& 0xFFFFFF }
  | .gwStat n => s.setGw n { s.gw n with err := (s.gw n).err && !(bit v 10 && s.clears (64 + n) 10),
                                         refused := (s.gw n).refused && !(bit v 11 && s.clears (64 + n) 11) }
  | .zlCtl => { s with zegus := { s.zegus with ctl := w &&& 0x7FF } }
  | .zlRtBase => { s with zegus := { s.zegus with rtBase := w64 &&& 0xFFFFFE0000 } }
  | .zlStat n => s.setLink n { s.link n with mismatch := (s.link n).mismatch && !(bit v 24 && s.clears (96 + n) 24) }
  | .ptnCtl => { s with partner := { s.partner with ctl := w &&& 0x1FFFF } }
  | .secStatus =>
    if who = .mgmt && bit v 1 && s.clears 3 1 then { s with sec := { s.sec with tampered := false } } else s
  | .hostCht f => s.writeFn f (fun x => { x with cht := w64 &&& ~~~0x7F }) false
  | .hostSummary f => s.writeSummary f w64
  | .hostPoll f => s.writeFn f (fun x => { x with poll := w }) false
  | .adminSq f => s.writeAdmin f (fun x => { x with adminSq := w64 &&& ~~~0xFE0 })
  | .adminCq f => s.writeAdmin f (fun x => { x with adminCq := w64 &&& ~~~0xFE0 })
  | .adminEq f => s.writeAdmin f (fun x => { x with adminEq := w64 &&& ~~~0xFE0 })
  | .adminDb f => s.writeAdmin f (fun x => { x with adminDb := w64 &&& ~~~7 })
  | .msixTable f k => s.writeVector f k v
  | .alertStatus => s.setAlert (s.keeper.alert &&& ~~~(BitVec.ofNat 7 (s.clearing 4 0 7 v)))
  | .alertMask => { s with keeper := { s.keeper with mask := BitVec.ofNat 6 (v / 2) } }.setAlert s.keeper.alert
  | .mgmtCfg => { s with keeper := { s.keeper with cfg := BitVec.ofNat 3 v } }
  | .netWindows => s
  | .cfgStatus => s
  | .cfgRegion _ => s
  | .ptnStat => s
  | .msixPba _ _ => s
  | .logStatus => s

/-- A write of 32 or 64 bits at an offset (R540): a 64-bit register takes an aligned 64-bit write only; a 64-bit write over
two 32-bit registers acts on the lower and then on the upper. -/
def State.writeAt (s : State) (who : RegSource) (at' : Nat → Option Reg) (off : Nat) (wide : Bool) (v : W64) : State :=
  let narrow (s : State) (off x : Nat) : State :=
    match at' off with
    | some r => if r.wide then s else s.writeReg who r x
    | none => s
  if !wide then (if off % 4 = 0 then narrow s off (v.toNat % 2 ^ 32) else s)
  else if off % 8 != 0 then s
  else match at' off with
    | some r => if r.wide then s.writeReg who r v.toNat else narrow (narrow s off (v.toNat % 2 ^ 32)) (off + 4) (v.toNat / 2 ^ 32)
    | none => narrow s (off + 4) (v.toNat / 2 ^ 32)

/-- A register write of a function reaches the part where its port's link is up; it travels as a MGMT packet (R266, R277). -/
def execRegisterWrite (fn off : Nat) (wide : Bool) (v : W64) (s : State) : Result :=
  if 256 ≤ fn || !s.portsUp || !s.portHere (fn / 64) then .next s
  else .next ((s.injected (0x370 + fn / 128) 1).writeAt .bar (barReg fn) off wide v)

end Sys2Proof.Machine
end

