-- ==== Sys2Proof/Machine/Query.lean ====
section
/-! DEFINITION. The contents of the QUERY items and of the telemetry items (R440, R441, R512), byte by byte. -/

namespace Sys2Proof.Machine

/-! ## Packed states -/

/-- Bits as bytes, bit 0 of byte 0 first. -/
def bitBytes (n : Nat) (p : Nat → Bool) : List Byte :=
  (List.range (n / 8)).map (fun i => BitVec.ofNat 8 ((List.range 8).foldl (fun x b => x + flag (p (8 * i + b)) * 2 ^ b) 0))

/-- The code of a unit's health state at a place of the health sequence. -/
def State.healthCode (s : State) (i : Nat) : Nat := (s.hl i).st.code

/-- Item 0x07: 4,480 two-bit states. -/
def State.healthBytes (s : State) : List Byte :=
  (List.range 1120).map (fun i => BitVec.ofNat 8
    (s.healthCode (4 * i) + s.healthCode (4 * i + 1) * 4 + s.healthCode (4 * i + 2) * 16 + s.healthCode (4 * i + 3) * 64))

/-- The record of one initiator in a statistics snapshot (R512). -/
def netRecord (c : NetCount) : List Byte :=
  leBytes 6 c.reqs ++ leBytes 6 c.bytes ++ (List.range 16).flatMap (fun i => leBytes 4 (c.hist.get 0 i)) ++ leBytes 4 c.maxLat

/-- The unused spare tiles of each tier die, then the unused spare engines of each row pair (R14). -/
def State.spareCounts (s : State) : List Byte :=
  (List.range 32).flatMap (fun n => leBytes 1 (2 - s.tspares.get 0 n)) ++ (List.range 8).flatMap (fun p => leBytes 1 (2 - s.sspares.get 0 p))

/-- 48 records of the statistics snapshot from initiator `i` on. -/
def State.netRecords (s : State) (i : Nat) : List Byte :=
  (List.range 48).flatMap (fun k => netRecord (s.snapshot.get {} (i + k)))

/-! ## QUERY items (R441) -/

/-- Whether the part is in installation use (R25, R26). -/
def State.installed (s : State) : Bool := s.partner.id != 0x3FFF

def EnsState.code : EnsState → Nat
  | .idle => 0
  | .loaded => 1
  | .running => 2
  | .faulted => 3
  | .done => 4

/-- Item 0x01. -/
def State.queryDevice (s : State) : List Byte :=
  leBytes 1 (flag s.installed) ++ leBytes 1 s.variant.code ++ leBytes 2 s.devId.toNat
    ++ bitBytes 16 s.stackOn ++ bitBytes 16 s.linkOn ++ leBytes 8 s.ltc.toNat
    ++ s.spareCounts ++ zeros 8
    ++ (List.range 16).flatMap (fun l => leBytes 1 (if s.linkOn l then (s.link l).spares.length else 0))
    ++ bitBytes 512 (fun n => (s.tserv.get {} n).unserved) ++ bitBytes 256 (fun n => (s.sserv.get {} n).unserved)

/-- Item 0x02. -/
def State.queryEns (s : State) (e : Nat) : List Byte :=
  let x := s.en e
  leBytes 1 x.st.code ++ leBytes 1 x.lastEpoch.toNat ++ leBytes 2 x.asid ++ leBytes 2 x.fault ++ zeros 2 ++ leBytes 8 x.base
    ++ leBytes 4 x.lastIndex ++ zeros 4 ++ leBytes 8 x.slip ++ leBytes 8 x.maxSlip ++ leBytes 128 x.members.toNat

/-- Item 0x03. -/
def State.queryTile (s : State) (n : Nat) : List Byte :=
  let t := s.tile n
  leBytes 1 (s.healthCode n + s.healthCode (2560 + n) * 4)
    ++ leBytes 1 ((List.range 4).foldl (fun x a => x + s.healthCode (512 + 4 * n + a) * 4 ^ a) 0) ++ zeros 2
    ++ leBytes 4 t.pseq.toNat ++ leBytes 4 t.crush ++ leBytes 4 t.sat ++ leBytes 4 t.nanDrop ++ leBytes 4 t.nonfinite
    ++ (List.range 4).flatMap (fun a => leBytes 1 ((t.spares.get {} a).column.getD 0xFF)) ++ zeros 4

/-- The counters a CLEAR clears. -/
def State.clearTile (s : State) (n : Nat) : State :=
  s.setTile n { s.tile n with crush := 0, sat := 0, nanDrop := 0, nonfinite := 0 }

def CtxState.code : CtxState → Nat
  | .idle => 0
  | .active => 1
  | .halted => 2
  | .draining => 3

/-- The indices (i0, i1, i2, i3) of the first byte of transaction `t` (R163, R184). -/
def streamIndices (d : List Byte) (t : Nat) : List Nat :=
  let el := 256 * t * 8 / max 1 (elemBits (descFmt d))
  let c0 := max 1 (field d 4 4)
  let c1 := max 1 (field d 8 4)
  let c2 := max 1 (field d 0xC 4)
  [el % c0, el / c0 % c1, el / (c0 * c1) % c2, el / (c0 * c1 * c2)]

/-- Item 0x04 of a stream context. -/
def State.queryCtx (s : State) (n c : Nat) : List Byte :=
  let v := s.ctx n c
  let lows := v.low
  leBytes 1 v.st.code ++ leBytes 1 v.cause ++ leBytes 1 v.slot ++ zeros 1 ++ leBytes 4 lows
    ++ (if v.desc = [] then zeros 16 else (streamIndices v.desc lows).flatMap (leBytes 4)) ++ leBytes 8 v.bytes
    ++ leBytes 8 (patt 64 v.failAddr)
    ++ leBytes 2 (v.slots.filter (fun p => p.2 == .reserved)).length ++ leBytes 2 v.landed ++ leBytes 2 v.outs.length ++ zeros 2
    ++ bitBytes 384 (fun i => v.done.contains (lows + 1 + i))

/-- Item 0x04 of a memory-side job (R229). -/
def State.queryJob (s : State) (m j : Nat) : List Byte :=
  let v := s.job m j
  leBytes 1 v.state ++ leBytes 1 v.cause ++ leBytes 1 v.slot ++ zeros 1 ++ leBytes 4 v.index ++ zeros 16 ++ leBytes 8 v.bytes
    ++ leBytes 8 v.addr ++ zeros 8 ++ bitBytes 384 (fun i => v.retired.contains (v.index + 1 + i))

def PcState.code : PcState → Nat
  | .training => 0
  | .serving => 1
  | .retraining => 2
  | .frozen => 3
  | .evacuating => 4
  | .retired => 5

def ReqKind.code (k : ReqKind) : Nat :=
  match k with
  | .read => 0
  | .write => 1
  | .add => 2
  | .scrub => 3

/-- A snapshot record (R441). -/
def snapBytes (r : SnapRec) : List Byte :=
  leBytes 8 r.offset ++ leBytes 2 r.init.toNat ++ leBytes 1 r.sub.toNat ++ leBytes 1 (ReqKind.code r.kind) ++ leBytes 4 r.seq.toNat

/-- Item 0x05. -/
def State.queryPc (s : State) (i : Nat) : List Byte :=
  let v := s.pcs.get {} i
  let q := v.snapQueue.take 128
  let w := v.snapWindow.take 16
  let l := v.listed.take 256
  leBytes 1 v.st.code ++ leBytes 1 (s.healthCode (3424 + i)) ++ leBytes 1 v.cause ++ zeros 1 ++ leBytes 4 v.corrected
    ++ leBytes 4 v.throttles ++ leBytes 4 v.poisoned ++ leBytes 8 v.failOffset ++ leBytes 8 v.syndrome.toNat
    ++ leBytes 2 q.length ++ leBytes 2 w.length ++ leBytes 2 l.length ++ leBytes 2 (patt 16 v.temp)
    ++ q.flatMap snapBytes ++ w.flatMap snapBytes ++ l.flatMap (leBytes 8)

/-- Item 0x08. -/
def State.queryJournal (s : State) (n : Nat) : List Byte :=
  let t := s.tile n
  leBytes 4 t.jnext ++ zeros 4 ++ t.entries.flatMap (fun e => leBytes 8 e.toNat)

/-- What a QUERY item holds; a status where the item or its index is refused. -/
def State.queryItem (s : State) (item index : Nat) : Except Nat (List Byte) :=
  match item with
  | 0x01 => .ok s.queryDevice
  | 0x02 => if index < 8 then .ok (s.queryEns index) else .error stRange
  | 0x03 => if index < 512 then .ok (s.queryTile index) else .error stRange
  | 0x04 =>
    let u := index / 8
    let c := index % 8
    match unitKind u with
    | .stream => .ok (s.queryCtx (u - 512) c)
    | .memory => if s.stackOn (u - 768) && c < 4 then .ok (s.queryJob (u - 768) c) else .error stRange
    | _ => .error stRange
  | 0x05 => if index < 768 && s.stackOn (index / 64) then .ok (s.queryPc index) else .error stRange
  | 0x06 => .ok (leBytes 4 s.snapWin.toNat ++ leBytes 4 (flag (bitOf s.sample 8)) ++ s.netRecords index)
  | 0x07 => .ok s.healthBytes
  | 0x08 => if index < 512 then .ok (s.queryJournal index) else .error stRange
  | _ => .error stMalformed

/-! ## Telemetry items (R512) -/

/-- Power of a domain in 0.1 W: the spec states no division of the measured power among the domains, so it is free. -/
def State.domainRecord (s : State) (op rate mv : Nat) (watts : Nat) : List Byte :=
  leBytes 1 op ++ leBytes 1 rate ++ leBytes 2 mv ++ leBytes 2 watts ++ zeros 2

/-- Item 0x02: GOV_STATUS and the 49 domains. -/
def State.telemetryPower (s : State) : State × List Byte :=
  let tier (d : Nat) : Nat × Nat × Nat := ((s.dom d).op, (s.dom d).rate, (s.dom d).mv)
  let all : List (Nat × Nat × Nat) :=
    (List.range 32).map tier ++ List.replicate 4 (0, 64, 750) ++ [(0, 64, 800)]
      ++ (List.range 12).map (fun n => if s.stackOn n then ((s.dom (32 + n)).op, (s.dom (32 + n)).rate, 950) else (0, 0, 0))
  all.foldl (fun (x : State × List Byte) (r : Nat × Nat × Nat) =>
    let (s, i) := x.1.draw
    (s, x.2 ++ s.domainRecord r.1 r.2.1 r.2.2 ((Config.freeWord i).toNat % 65536))) (s, leBytes 4 s.govStatus)

/-- Item 0x03: one record for each populated stack. -/
def State.telemetryStacks (s : State) : List Byte :=
  s.variant.stacks.flatMap (fun n =>
    let v := s.stk n
    let count (st : PcState) : Nat := ((List.range 64).filter (fun p => (s.pc n p).st == st)).length
    let jobs := ((List.range 4).map (fun j => (s.snapshot.get {} (0x300 + 4 * n + j)).bytes)).sum
    leBytes 8 v.rdBytes ++ leBytes 8 v.wrBytes ++ leBytes 8 jobs ++ leBytes 1 (count .serving) ++ leBytes 1 (count .frozen)
      ++ leBytes 1 (count .retired) ++ leBytes 1 (flag (s.doubleRate n)) ++ zeros 4)

/-- Item 0x06: 128 tiles. -/
def State.telemetryTiles (s : State) (i : Nat) : List Byte :=
  (List.range 128).flatMap (fun k =>
    let t := s.tile (i + k)
    [t.pseq.toNat, t.failures, t.replays, t.locates, t.crush, t.sat, t.nanDrop, t.nonfinite].flatMap (leBytes 4))

/-- Item 0x07: the 96 clusters. -/
def State.telemetryClusters (s : State) : List Byte :=
  (List.range 96).flatMap (fun k =>
    let c := s.cluster k
    [c.residues, c.crush, c.sat, c.nanDrop].flatMap (leBytes 4))

/-- Item 0x08: the links and the partner link. -/
def State.telemetryLinks (s : State) : List Byte :=
  (List.range 16).flatMap (fun n => leBytes 4 (s.zlStat n)) ++ leBytes 4 s.ptnStat
    ++ (List.range 16).flatMap (fun n => leBytes 4 ((s.link n).retries % 2 ^ 32))

/-- A telemetry item and the state after it: CLEAR clears counters of the tiles or clusters returned. The health states of item
0x05 have the 1,120 bytes of R512, and the spare counts that R14 has the health telemetry report are its INDEX 1 (DESIGN CHOICE:
no rule lays them out). -/
def State.telemetryItem (s : State) (item index : Nat) (clear : Bool) : State × Except Nat (List Byte) :=
  match item with
  | 0x01 => (s, .ok ((List.range 1024).flatMap (fun n => leBytes 2 (patt 16 (s.gov.temps.get 0 n)))))
  | 0x02 => let (s, l) := s.telemetryPower
            (s, .ok l)
  | 0x03 => (s, .ok s.telemetryStacks)
  | 0x04 => (s, .ok (s.netRecords index))
  | 0x05 => (s, .ok (if index = 1 then s.spareCounts else s.healthBytes))
  | 0x06 =>
    if index % 128 != 0 || 512 ≤ index then (s, .error stRange)
    else
      let l := s.telemetryTiles index
      (if clear then (List.range 128).foldl (fun s k => s.clearTile (index + k)) s else s, .ok l)
  | 0x07 =>
    let l := s.telemetryClusters
    (if clear then (List.range 96).foldl (fun s k => s.setCluster k { s.cluster k with crush := 0, sat := 0, nanDrop := 0 }) s
     else s, .ok l)
  | 0x08 => (s, .ok s.telemetryLinks)
  | _ => (s, .error stMalformed)

end Sys2Proof.Machine
end

