-- ==== Sys2Proof/Machine/HostIf.lean ====
section
/-! DEFINITION. Commands of the host interface that concern no one block (R422, R435–R442): NOP, COPY, MAP_PAGES, SET_LIMITS,
QUERY, CORRELATE_TIME, and the completion timeout of a host access. -/

namespace Sys2Proof.Machine

def execHostNop (h : Issuer) (s : State) : Result := s.command h (fun s => s.answer h 0x00 stOk)

/-- Whether a host access of an initiator other than those in flight may go unanswered: a stream engine makes one only for a DLOAD. -/
def State.mayLose (s : State) (init : Nat) : Bool :=
  match engineOf init with
  | some n => [512 + n, 512 + n + 1024].any (fun ub => (s.firedStep ub (unacted 0x60)).isSome)
  | none => true

/-- A host access that is not answered in time ends as HOST_ERR (R422): its answer will not come. One that is no stream's is the
next that its initiator makes, for such an access is made and answered within one command. -/
def execCompletionTimeout (init : BitVec 12) (sub : BitVec 4) (seq : W32) (s : State) : Result :=
  let late (x : Packet) : Bool := match x with
    | .resp r => r.init == init && r.sub == sub && r.seq == seq && 64 ≤ r.stack && r.stack < 68
    | _ => false
  let err (x : Packet) : Packet := match x with
    | .resp r => .ack { init := r.init, sub := r.sub, seq := r.seq, epoch := r.epoch, stack := r.stack, block := r.block, status := .hostErr }
    | x => x
  if s.net.any late then .next { s with net := modFirst late err s.net }
  else if s.hostLost.contains init.toNat || !s.mayLose init.toNat then .next s
  else .next { s with hostLost := s.hostLost ++ [init.toNat] }

/-! ## COPY (R435) -/

/-- The status of a failed access. -/
def accessStatus (cause : Nat) : Nat :=
  if cause = causePcFrozen then stPcFrozen else if cause = causeHostErr then stHostErr else stPageFault

/-- Where a byte of a COPY is: 0 the bus of the function, 1 a stream virtual address, 2 a device address. -/
def State.copyPlace (s : State) (h : Issuer) (space asid a : Nat) (write : Bool) : State × Option Place :=
  match space with
  | 0 => (s, some (.host (s.chanPort h.chan) a))
  | 1 => s.locate (s.hostTlb h.chan) asid a write
  | _ => (s, some (s.devPlace a))

/-- Whether the byte `i` bytes on from a place lies in a poisoned line; `b` says whether what was read did. -/
def State.poisonAt (s : State) (p : Place) (b : Bool) (i : Nat) : Bool :=
  match p with
  | .hbm m o => s.hbmBad m (o + i)
  | _ => b

/-- Reads the source of a COPY, block by block, each byte with its line's poison. -/
def State.copyRead (s : State) (h : Issuer) (space asid : Nat) (fuel a n : Nat) : State × Got × List (Byte × Bool) :=
  match fuel with
  | 0 => (s, .bytes [] false, [])
  | k + 1 =>
    if n = 0 then (s, .bytes [] false, [])
    else
      let w := blockRun a n
      match s.copyPlace h space asid a false with
      | (s, none) => (s, .later, [])
      | (s, some p) => match s.readPlace (s.hostTlb h.chan) p w a with
        | (s, .bytes l b) =>
          let now := l.zipIdx.map (fun x => (x.1, s.poisonAt p b x.2))
          let (s, g, r) := s.copyRead h space asid k (a + w) (n - w)
          (s, g, now ++ r)
        | (s, g) => (s, g, [])

/-- Whether some line of a COPY's destination lies in a HOST page. -/
def State.copyToHost (s : State) (h : Issuer) (asid : Nat) (fuel a n : Nat) : Bool :=
  match fuel with
  | 0 => false
  | k + 1 =>
    if n = 0 then false
    else
      let w := lineRun a n
      match s.locate (s.hostTlb h.chan) asid a true with
      | (_, some (.host _ _)) => true
      | (s, _) => s.copyToHost h asid k (a + w) (n - w)

/-- How much of a COPY's destination one write takes: a block, or a line where the block's lines differ in poison. -/
def copyRun (a : Nat) (l : List (Byte × Bool)) : Nat :=
  let now := (l.take (blockRun a l.length)).map Prod.snd
  if now.all id || now.all (!·) then blockRun a l.length else lineRun a l.length

/-- Writes the destination of a COPY. -/
def State.copyWrite (s : State) (h : Issuer) (space asid : Nat) (fuel a : Nat) (l : List (Byte × Bool)) : State × Put :=
  match fuel with
  | 0 => (s, .done)
  | k + 1 => match l with
    | [] => (s, .done)
    | _ =>
      let w := copyRun a l
      let now := l.take w
      match s.copyPlace h space asid a true with
      | (s, none) => (s, .later)
      | (s, some p) => match s.writePlace (s.hostTlb h.chan) p (now.map Prod.fst) (now.any Prod.snd) a with
        | (s, .done) => s.copyWrite h space asid k (a + w) (l.drop w)
        | x => x

/-- The status that refuses a COPY, or none (R426, R435). -/
def State.copyRefusal (s : State) (h : Issuer) (dst len srcSpace dstSpace asid : Nat) : Option Nat :=
  if srcSpace = 3 || dstSpace = 3 || len % 4 != 0 then some stMalformed
  else if s.isVf h.chan && (srcSpace = 2 || dstSpace = 2
      || ((srcSpace = 1 || dstSpace = 1) && asid != s.chanAsid h.chan)) then some stDenied
  else if dstSpace = 1 && s.copyToHost h asid (len / 64 + 2) dst len then some stMalformed
  else none

/-- COPY. While memory it needs cannot be reached yet, it waits. -/
def execCopy (h : Issuer) (src dst len : W64) (srcSpace dstSpace : BitVec 2) (asid : BitVec 10) (s : State) : Result :=
  if !s.mayBegin h then .next s
  else
    let s₁ := s.begin h
    match s₁.copyRefusal h dst.toNat len.toNat srcSpace.toNat dstSpace.toNat asid.toNat with
    | some st => .next (s₁.answer h 0x01 st)
    | none =>
      let n := len.toNat
      match s₁.copyRead h srcSpace.toNat asid.toNat (blockFuel n) src.toNat n with
      | (_, .later, _) => .next s
      | (s₂, .bad c _, _) => .next (s₂.answer h 0x01 (accessStatus c))
      | (s₂, .bytes _ _, l) => match s₂.copyWrite h dstSpace.toNat asid.toNat (n / 64 + 2) dst.toNat l with
        | (_, .later) => .next s
        | (s₃, .bad c _) => .next (s₃.answer h 0x01 (accessStatus c))
        | (s₃, .done) => .next (s₃.complete h 0x01 stOk (BitVec.ofNat 128 n))

/-! ## MAP_PAGES (R182, R438) -/

/-- Whether a transaction, or a gateway's command, is outstanding on an address of a range (R182). -/
def State.rangeBusy (s : State) (w : MapWait) : Bool :=
  let inRange (va : Int) (n : Nat) : Bool := w.all || ((w.va : Int) < va + n && va < ((w.va + w.len : Nat) : Int))
  s.ses.any (fun p => p.2.ctxs.any (fun (q : Nat × Ctx) =>
      (s.en (s.ensOf q.2.ub)).asid == w.asid && q.2.outs.any (fun o => o.parts.any (fun x => inRange x.va 256))))
    || s.gws.any (fun p => p.2.cmds.any (fun c =>
      c.status.isNone && c.op ≤ 2 && fld c.ctl 1 10 == w.asid && inRange (gwAddr c.word) 256))

/-- The end of a MAP_PAGES: fetches that wait on its range resume, and it completes. -/
def State.mapDone (s : State) (w : MapWait) : State :=
  let covers (asid _cause va : Nat) : Bool := asid == w.asid && (w.all || (w.va ≤ va && va < w.va + w.len))
  (s.releaseWaits covers).answer w.issuer 0x09 stOk

/-- Completes every MAP_PAGES whose range has no transaction outstanding. -/
def State.settleMaps (s : State) : State :=
  let ready := s.mapWaits.filter (fun w => !s.rangeBusy w)
  ready.foldl (fun s w => s.mapDone w) { s with mapWaits := s.mapWaits.filter (fun w => !ready.contains w) }

/-- Writes the update records of a MAP_PAGES in order, as 8-byte writes to HBM. -/
def State.writeEntries (s : State) (init : Nat) (l : List (List Byte)) : State × Put :=
  match l with
  | [] => (s, .done)
  | e :: r => match s.writeDev init 2 (field e 0 8) ((e.drop 8).take 8) with
    | (s, .done) => s.writeEntries init r
    | x => x

def execMapPages (h : Issuer) (asid : BitVec 10) (all : Bool) (va len list : W64) (n : W32) (s : State) : Result :=
  if !s.mayBegin h then .next s
  else
    let s₁ := s.begin h
    let q := s₁.chanPort h.chan
    if s₁.isVf h.chan then .next (s₁.answer h 0x09 stDenied)
    else if va.toNat % 65536 != 0 || len.toNat % 65536 != 0 || 65536 < n.toNat then .next (s₁.answer h 0x09 stMalformed)
    else match (if n.toNat = 0 then (s₁, some []) else s₁.hostFetch (s₁.hostTlb h.chan) q list.toNat (16 * n.toNat)) with
    | (s₁, none) => .next (s₁.answer h 0x09 stHostErr)
    | (s₁, some bytes) => match s₁.writeEntries (s₁.hostTlb h.chan) (chunks 16 n.toNat bytes) with
      | (_, .later) => .next s
      | (s₂, .bad c _) => .next (s₂.answer h 0x09 (accessStatus c))
      | (s₂, .done) =>
        let w : MapWait := { issuer := h, asid := asid.toNat, all := all, va := va.toNat, len := len.toNat }
        let s₂ := s₂.dropRange asid.toNat all va.toNat len.toNat
        .next { s₂ with mapWaits := s₂.mapWaits ++ [w] }.settleMaps

/-! ## SET_LIMITS, QUERY, CORRELATE_TIME (R439–R442) -/

/-- SET_LIMITS: refused as a whole, or in force, and complete, at the next control interval. -/
def execSetLimits (h : Issuer) (pairs : List (BitVec 16 × W32)) (s : State) : Result :=
  s.command h (fun s =>
    if s.isVf h.chan then s.answer h 0x0D stDenied
    else if !s.limitsOk (usedPairs pairs) then s.answer h 0x0D stRange
    else s.queueLimits (some h) none (usedPairs pairs))

/-- Whether a virtual function may ask for an item: one about an ensemble, or a unit of an ensemble, that one of its channels
is bound to (R426). -/
def State.mayQuery (s : State) (h : Issuer) (item index : Nat) : Bool :=
  let unit (u : Nat) : Bool := (List.range 8).any (fun e => s.vfOwns h.chan e && (s.en e).has u)
  !s.isVf h.chan || (match item with
    | 0x02 => s.vfOwns h.chan index
    | 0x03 => unit index
    | 0x04 => unit (index / 8)
    | 0x08 => unit index
    | _ => false)

def execQuery (h : Issuer) (item : Byte) (index : BitVec 16) (clear : Bool) (buf len : W64) (s : State) : Result :=
  s.command h (fun s =>
    if !s.mayQuery h item.toNat index.toNat then s.answer h 0x0E stDenied
    else match s.queryItem item.toNat index.toNat with
      | .error st => s.answer h 0x0E st
      | .ok l =>
        let q := s.chanPort h.chan
        if len.toNat < l.length then s.answer h 0x0E stRange
        else if !(s.port q).up then s.answer h 0x0E stHostErr
        else
          let s := s.hostWrite q buf.toNat l
          let s := if clear && item = 0x03 then s.clearTile index.toNat else s
          s.complete h 0x0E stOk (BitVec.ofNat 128 l.length))

/-- CORRELATE_TIME; `ptm` is the PTM master time and its uncertainty, where PTM is enabled. -/
def execCorrelateTime (h : Issuer) (ptm : Option (W64 × W32)) (s : State) : Result :=
  s.command h (fun s => match ptm with
    | none => s.complete h 0x0F stOk (BitVec.ofNat 128 s.ltc.toNat)
    | some (t, u) => s.complete h 0x0F stOk (BitVec.ofNat 128 (s.ltc.toNat + 2 ^ 64 * t.toNat)) u)

end Sys2Proof.Machine
end

