-- ==== Sys2Proof/Machine/Security.lean ====
section
/-! DEFINITION. Identity, keys and attestation (R481–R502): the security operations of the management port, firmware slots,
tamper, and the SPDM responder. -/

namespace Sys2Proof.Machine

/-! ## Operations of the management port (R503, R506) -/

/-- Whether a management request reaches the keeper: the ports respond, and the slave port's requests are enabled (R503, R508). -/
def State.mgmtUp (s : State) (p : MPort) : Bool := s.watched && !s.dbg.halted && (p != .csp || bitOf s.keeper.cfg 2)

/-- A management operation: BUSY while the port's previous request is executing or the cores do not run. -/
def State.mgmt (s : State) (p : MPort) (seq : Byte) (op : Nat) (f : State → State) : Result :=
  if !s.mgmtUp p then .next s
  else
    let busy := (s.mport p).busy
    if busy || s.keeper.stopped then .next (s.respond p op seq.toNat stBusy [] busy) else .next (f s)

/-- The other management port. -/
def otherPort (p : MPort) : MPort :=
  match p with
  | .i3c => .csp
  | .csp => .i3c

/-- A management write: it waits while the other port's write is still executing or waiting itself, since the keeper executes
one at a time, in order of arrival (R506). `i` is the command. -/
def State.oneAtATime (s : State) (p : MPort) (i : Instr) (f : State → State) : State :=
  if (s.mport (otherPort p)).busy then
    let s := s.setMport p { s.mport p with busy := true }
    { s with keeper := { s.keeper with held := s.keeper.held ++ [(p, i)] } }
  else f s

/-- A management operation that writes. -/
def State.mgmtWrite (s : State) (p : MPort) (seq : Byte) (op : Nat) (i : Instr) (f : State → State) : Result :=
  s.mgmt p seq op (fun s => s.oneAtATime p i f)

/-- The statuses that only management responses have (R505). -/
abbrev stFuseFail : Nat := 21
abbrev stFrameCrc : Nat := 22

/-- A security operation that succeeded is measured into MR7 with its operands, and answered (R492, R493). -/
def State.secDone (s : State) (p : MPort) (seq : Byte) (op : Nat) (operands : List Byte) (payload : List Byte := []) : State :=
  (s.extend 7 5 0xFFFF 0 (Config.sm3 (leBytes 1 op ++ operands))).respond p op seq.toNat stOk payload

/-! ## Fuses (R481, R482, R486, R487, R492) -/

/-- A fuse write, once it is read back: `fuses` stands where it verified; FUSE_FAIL and its record otherwise. -/
def State.blow (s : State) (p : MPort) (seq : Byte) (op : Nat) (ok : Bool) (fuses : Fuses) (operands : List Byte)
    (payload : List Byte := []) : State :=
  if ok then { s with sec := { s.sec with fuses := fuses } }.secDone p seq op operands payload
  else (s.raise (recOf cFuseFail 11 0)).respond p op seq.toNat stFuseFail

/-- OWNER_PROVISION: refused where the slot is programmed. -/
def State.ownerProvision (s : State) (p : MPort) (seq : Byte) (slot : Nat) (hash : BitVec 256) (ok : Bool) : State :=
  let f := s.sec.fuses
  if 4 ≤ slot then s.respond p 0x10 seq.toNat stRange
  else if f.owners.get 0 slot != 0 then s.respond p 0x10 seq.toNat stDenied
  else s.blow p seq 0x10 ok { f with owners := f.owners.set 0 slot hash } (leBytes 1 slot ++ leBytes 32 hash.toNat)

def execOwnerProvision (p : MPort) (seq : Byte) (slot : Byte) (hash : BitVec 256) (fuseOk : Bool) (s : State) : Result :=
  s.mgmtWrite p seq 0x10 (.ownerProvision p seq slot hash fuseOk) (fun s => s.ownerProvision p seq slot.toNat hash fuseOk)

/-- OWNER_REVOKE: refused where it would leave no programmed, unrevoked slot. -/
def State.ownerRevoke (s : State) (p : MPort) (seq : Byte) (slot : Nat) (ok : Bool) : State :=
  let f := s.sec.fuses
  let f' := { f with revoked := putBit f.revoked slot true }
  if 4 ≤ slot then s.respond p 0x11 seq.toNat stRange
  else if !(List.range 4).any f'.ownerLive then s.respond p 0x11 seq.toNat stDenied
  else s.blow p seq 0x11 ok f' (leBytes 1 slot)

def execOwnerRevoke (p : MPort) (seq : Byte) (slot : Byte) (fuseOk : Bool) (s : State) : Result :=
  s.mgmtWrite p seq 0x11 (.ownerRevoke p seq slot fuseOk) (fun s => s.ownerRevoke p seq slot.toNat fuseOk)

/-- POLICY_SET: blown bits stay blown. -/
def State.policySet (s : State) (p : MPort) (seq : Byte) (fusedOff bbkOff ok : Bool) : State :=
  let f := s.sec.fuses
  s.blow p seq 0x12 ok { f with fusedOff := f.fusedOff || fusedOff, bbkOff := f.bbkOff || bbkOff }
    (leBytes 1 (flag fusedOff) ++ leBytes 1 (flag bbkOff))

def execPolicySet (p : MPort) (seq : Byte) (fusedOff bbkOff fuseOk : Bool) (s : State) : Result :=
  s.mgmtWrite p seq 0x12 (.policySet p seq fusedOff bbkOff fuseOk) (fun s => s.policySet p seq fusedOff bbkOff fuseOk)

/-- A counter with bits blown, lowest first, until `v` are (R486). -/
def advanceArb (old : W64) (v : Nat) : W64 :=
  (List.range 64).foldl (fun a i => if (onesOf a.toNat 64).length < v then putBit a i true else a) old

/-- The SVN of the image of a class that is running now (R487); none where there is none, or the class has no such image. -/
def State.runningSvn (s : State) (cls : Nat) : Option Nat :=
  let fw (k : Nat) : Option Nat := if (s.fwSlotOf k).valid then some (hdrSvn ((s.fwSlotOf k).bytes 0 512)) else none
  match cls with
  | 0 => fw s.sec.activeFw
  | 1 => fw s.sec.stSlot
  | 2 => if 2 ≤ s.loader.phase && s.loader.phase ≤ 4 then some (s.region 0).svn else none
  | _ => none

/-- The boot slots (0 A, 1 B) and firmware slots (2 FA to 5 SB) whose image of a class falls below a counter (R487). -/
def State.slotsBelow (s : State) (cls v : Nat) : List Byte :=
  let below (x : NvSlot) : Bool :=
    let h := x.bytes 0 512
    x.valid && hdrClass h == cls && hdrSvn h < v
  ((List.range 2).filter (fun k => below (s.slot k)) ++ ((List.range 4).filter (fun k => below (s.fwSlotOf k))).map (· + 2)).map (BitVec.ofNat 8)

/-- ROLLBACK_ADVANCE (R487). -/
def State.rollbackAdvance (s : State) (p : MPort) (seq : Byte) (cls value : Nat) (ok : Bool) : State :=
  let f := s.sec.fuses
  let past : Bool := match s.runningSvn cls with
    | some n => n < value
    | none => false
  if 16 ≤ cls || 64 < value || value ≤ f.arbValue cls || past then s.respond p 0x15 seq.toNat stRange
  else s.blow p seq 0x15 ok { f with arb := f.arb.set 0 cls (advanceArb (f.arb.get 0 cls) value) }
    (leBytes 1 cls ++ leBytes 1 value) (s.slotsBelow cls value)

def execRollbackAdvance (p : MPort) (seq : Byte) (cls : Byte) (value : Byte) (fuseOk : Bool) (s : State) : Result :=
  s.mgmtWrite p seq 0x15 (.rollbackAdvance p seq cls value fuseOk) (fun s => s.rollbackAdvance p seq cls.toNat value.toNat fuseOk)

/-! ## Battery-backed key memory (R488–R491) -/

/-- Whether a load takes its key from the battery-backed memory. -/
def Load.usesBbk (l : Load) : Bool := field l.header 7 1 == 1

/-- Loads with KEY_SRC 1 that are queued or in progress are aborted with cause KEY_ABSENT (R490). -/
def State.abortKeyed (s : State) : State :=
  (s.loader.queue.filter (fun l => l.usesBbk && !l.ended)).foldl (fun s l => s.abortLoad l lcKeyAbsent) s

/-- KEY_WRITE: refused while the tamper pin is asserted, BUSY while a load uses the key. -/
def State.keyWrite (s : State) (p : MPort) (seq : Byte) (cipher : List Byte) : State :=
  if !s.pins.tamperN then s.respond p 0x13 seq.toNat stDenied
  else if s.loader.queue.any (fun l => l.usesBbk && !l.ended) then s.respond p 0x13 seq.toNat stBusy
  else
    let k := Config.sm2Decrypt s.sec.fuses.idPriv cipher
    { s with sec := { s.sec with bbk := k, bbkCheck := Config.keyCheck k, present := true, tampered := false } }.secDone p seq 0x13 cipher

def execKeyWrite (p : MPort) (seq : Byte) (cipher : List Byte) (s : State) : Result :=
  s.mgmtWrite p seq 0x13 (.keyWrite p seq cipher) (fun s => s.keyWrite p seq cipher)

/-- KEY_ERASE is never refused. -/
def State.keyErase (s : State) (p : MPort) (seq : Byte) : State := ((s.eraseKey false).abortKeyed).secDone p seq 0x14 []

def execKeyErase (p : MPort) (seq : Byte) (s : State) : Result := 
  s.mgmtWrite p seq 0x14 (.keyErase p seq) (fun s => s.keyErase p seq)

/-- TAMPER_N held low, or released, or VBAT lost while VK is absent: an erase is logged at once when powered, and otherwise
after the next option-load phase. -/
def execTamper (vbatLoss asserted : Bool) (s : State) : Result :=
  let powered := s.rst.level != .power
  let s := if vbatLoss then s else { s with pins := { s.pins with tamperN := !asserted } }
  if (vbatLoss && powered) || (!vbatLoss && !asserted) then .next s
  else
    let s := (s.eraseKey true).abortKeyed
    if s.rst.level = .none && !s.rst.loading then .next s.logTamper
    else .next { s with sec := { s.sec with owedTamper := true } }

/-! ## Slots of the non-volatile cells (R500, R511) -/

/-- Bytes of a slot (R357). -/
abbrev slotBytes : Nat := 2 ^ 26

/-- The status that refuses a chunk for a slot, or none. A chunk that is no start goes to a slot that its port owns. -/
def chunkRefusal (v : NvSlot) (p : MPort) (off n : Nat) : Option Nat :=
  if n % 64 != 0 then some stMalformed
  else if slotBytes < 64 * off + n then some stRange
  else match v.owner with
    | some q => if q = p then none else some stBusy
    | none => if off = 0 then none else some stMalformed

/-- A chunk written: the first erases the slot and its port owns it. -/
def NvSlot.chunk (v : NvSlot) (p : MPort) (off : Nat) (bytes : List Byte) : NvSlot :=
  let v := if off = 0 then { owner := some p } else v
  { v with data := Map.setAll v.data 0 (64 * off) bytes, len := max v.len (64 * off + bytes.length) }

/-- The cause of the checks at LAST, or 0: those of the header, then tag and digest of the payload (R353, R511). -/
def State.slotCause (s : State) (v : NvSlot) (format : List Byte → Bool) : Nat :=
  let h := v.bytes 0 512
  match s.sec.headerCause (format h) h with
  | 0 =>
    if hdrPersonality h && !extentOk h then lcExtent
    else if v.len < 512 + hdrLen h || !(payloadOf (s.sec.unwrap h).1 h (v.bytes 512 (hdrLen h))).2 then lcAuth
    else 0
  | c => c

/-- FW_STAGE: SLOT_WRITE for the inactive firmware slot of a kind; a staged image that fails is erased. -/
def State.fwStage (s : State) (p : MPort) (seq : Byte) (steward last : Bool) (off : Nat) (bytes : List Byte) : State :=
  let k := if steward then 5 - s.sec.activeSt else 1 - s.sec.activeFw
  let put (s : State) (v : NvSlot) : State := { s with sec := { s.sec with fw := s.sec.fw.set {} k v } }
  if (if steward then s.sec.stTrial else s.sec.fwTrial) then s.respond p 0x16 seq.toNat stBusy
  else match chunkRefusal (s.fwSlotOf k) p off bytes.length with
    | some st => s.respond p 0x16 seq.toNat st
    | none =>
      let v := (s.fwSlotOf k).chunk p off bytes
      let operands := leBytes 4 (flag steward + 2 * flag last + 64 * off) ++ bytes
      if !last then (put s v).secDone p seq 0x16 operands
      else
        let c := s.slotCause v (hdrFirmware (if steward then 0x11 else 0x10))
        if c = 0 then (put s { v with valid := true, owner := none }).secDone p seq 0x16 operands (leBytes 1 0)
        else (put s {}).respond p 0x16 seq.toNat stOk (leBytes 1 c)

def execFwStage (p : MPort) (seq : Byte) (steward last : Bool) (off : BitVec 26) (bytes : List Byte) (s : State) : Result :=
  s.mgmtWrite p seq 0x16 (.fwStage p seq steward last off bytes) (fun s => s.fwStage p seq steward last off.toNat bytes)

/-! ## Activation, commitment, reversion (R501, R502) -/

/-- Firmware switches to a slot, which is measured. -/
def State.switchFw (s : State) (steward : Bool) (slot : Nat) (trial : Bool) : State :=
  if steward then { s with sec := { s.sec with stSlot := slot, stTrial := trial } }.measureFw 1 slot
  else { s with sec := { s.sec with fwSlot := slot, fwTrial := trial } }.measureFw 0 slot

/-- FW_ACTIVATE: the staged slot runs, on trial. -/
def State.fwActivate (s : State) (p : MPort) (seq : Byte) (steward : Bool) : State :=
  let k := if steward then 5 - s.sec.activeSt else 1 - s.sec.activeFw
  if (if steward then s.sec.stTrial else s.sec.fwTrial) then s.respond p 0x17 seq.toNat stBusy
  else if !(s.fwSlotOf k).valid then s.respond p 0x17 seq.toNat stDenied
  else (s.switchFw steward k true).secDone p seq 0x17 (leBytes 1 (flag steward))

def execFwActivate (p : MPort) (seq : Byte) (steward : Bool) (s : State) : Result :=
  s.mgmtWrite p seq 0x17 (.fwActivate p seq steward) (fun s => s.fwActivate p seq steward)

/-- The firmware on trial commits: its slot is the active one. -/
def execFwCommit (steward : Bool) (s : State) : Result :=
  if steward then .next { s with sec := { s.sec with stTrial := false } }
  else .next { s with sec := { s.sec with fwTrial := false } }

/-- The firmware on trial failed: the previous slot runs again, which is logged in MR7. -/
def State.revertFw (s : State) (steward : Bool) : State :=
  let k := if steward then s.sec.activeSt else s.sec.activeFw
  let s := s.switchFw steward k false
  let h := (s.fwSlotOf k).bytes 0 512
  s.extend 7 2 (hdrClass h) (hdrSvn h) (Config.sm3 h)

def execFwReverted (steward : Bool) (s : State) : Result :=
  if steward then (if s.sec.stTrial then .next (s.revertFw true) else .next s)
  else if s.sec.fwTrial then .next ((s.revertFw false).raise (recOf cFwReverted 11 0))
  else .next s

/-! ## Attestation (R496–R499) -/

/-- The report of R498 without its signature. -/
def State.attestBody (s : State) (nonce : List Byte) (mask : Nat) : List Byte :=
  let x := s.sec
  leBytes 4 0x5E77A77E ++ leBytes 2 s.devId.toNat ++ leBytes 1 mask
    ++ leBytes 1 (flag x.logOvf + 2 * flag x.tampered + 4 * flag x.present + 8 * flag x.fwTrial)
    ++ leBytes 8 s.ltc.toNat ++ fit 0 32 nonce
    ++ (List.range 8).flatMap (fun k => if bit mask k then fit 0 32 (s.mr k) else zeros 32)
    ++ (List.range 16).flatMap (fun c => leBytes 1 (x.fuses.arbValue c)) ++ zeros 64

/-- ATTEST: the report, signed. -/
def State.attest (s : State) (p : MPort) (seq : Byte) (nonce : List Byte) (mask : Nat) : State :=
  let b := s.attestBody nonce mask
  let report := b ++ fit 0 64 (Config.sm2Sign s.sec.fuses.idPriv (Config.sm3 (b.take 0x180)))
  s.secDone p seq 0x18 (fit 0 32 nonce ++ leBytes 1 mask) report

def execAttest (p : MPort) (seq : Byte) (nonce : List Byte) (mask : Byte) (s : State) : Result :=
  s.mgmt p seq 0x18 (fun s => s.attest p seq nonce mask.toNat)

/-! ## SPDM (R497) -/

/-- The eight measurements as SPDM returns them. -/
def State.measurements (s : State) : List Byte := (List.range 8).flatMap (fun k => fit 0 32 (s.mr k))

/-- A response of the SPDM responder in the DOE mailbox of a physical function; what it is made of is given, its layout is
the standard's. -/
def State.spdm (s : State) (q code : Nat) (made : List Byte) : State :=
  { s with sec := { s.sec with spdmOut := s.sec.spdmOut.set [] q (Config.spdmBody code made) } }

/-- The ERROR response. -/
abbrev spdmError : Nat := 0x7F

/-- An SPDM request on a physical function whose port is up. -/
def State.onDoe (s : State) (q : Nat) (f : State → State) : Result :=
  if 4 ≤ q || s.rst.pllLost || !(s.port q).up then .next s else .next (f s)

def execGetVersion (port : Nat) (req : List Byte) (s : State) : Result := s.onDoe port (fun s => s.spdm port 0x04 req)
def execGetCapabilities (port : Nat) (req : List Byte) (s : State) : Result := s.onDoe port (fun s => s.spdm port 0x61 req)
def execNegotiateAlgorithms (port : Nat) (req : List Byte) (s : State) : Result := s.onDoe port (fun s => s.spdm port 0x63 req)
def execGetDigests (port : Nat) (req : List Byte) (s : State) : Result := s.onDoe port (fun s => s.spdm port 0x01 (req ++ Config.sm3 s.sec.chain))

/-- GET_CERTIFICATE: a portion of the chain of slot 0, the only slot (R496, R497). -/
def execGetCertificate (port : Nat) (slot : BitVec 4) (off len : BitVec 16) (s : State) : Result :=
  s.onDoe port (fun s =>
    if slot = 0 then s.spdm port 0x02 (leBytes 2 off.toNat ++ leBytes 2 len.toNat ++ (s.sec.chain.drop off.toNat).take len.toNat) else s.spdm port spdmError (leBytes 1 slot.toNat))

/-- CHALLENGE: slot 0 only; the answer is signed under the device identity. -/
def execChallenge (port : Nat) (slot : BitVec 4) (nonce : List Byte) (s : State) : Result :=
  s.onDoe port (fun s =>
    if slot = 0 then
      let b := nonce ++ s.measurements
      s.spdm port 0x03 (b ++ Config.sm2Sign s.sec.fuses.idPriv (Config.sm3 b))
    else s.spdm port spdmError (leBytes 1 slot.toNat))

/-- GET_MEASUREMENTS: index 0 the number of measurements, 1 to 8 MR0 to MR7, 0xFF all of them. -/
def execGetMeasurements (port : Nat) (index : Byte) (nonce : List Byte) (s : State) : Result :=
  s.onDoe port (fun s =>
    let sign (b : List Byte) : List Byte := b ++ Config.sm2Sign s.sec.fuses.idPriv (Config.sm3 (nonce ++ b))
    if index = 0 then s.spdm port 0x60 (leBytes 1 8)
    else if index = 0xFF then s.spdm port 0x60 (sign s.measurements)
    else if index.toNat ≤ 8 then s.spdm port 0x60 (sign (leBytes 1 index.toNat ++ fit 0 32 (s.mr (index.toNat - 1))))
    else s.spdm port spdmError (leBytes 1 index.toNat))

/-- The session of a function. -/
def State.setSession (s : State) (q v : Nat) : State := { s with sec := { s.sec with sessions := s.sec.sessions.set 0 q v } }

/-- KEY_EXCHANGE begins a session. -/
def execKeyExchange (port : Nat) (slot : BitVec 4) (req : List Byte) (s : State) : Result :=
  s.onDoe port (fun s =>
    if slot = 0 then
      (s.spdm port 0x64 (req ++ Config.sm2Sign s.sec.fuses.idPriv (Config.sm3 (req ++ s.measurements)))).setSession port 1
    else s.spdm port spdmError (leBytes 1 slot.toNat))

/-- FINISH opens the session that KEY_EXCHANGE began. -/
def execFinish (port : Nat) (req : List Byte) (s : State) : Result :=
  s.onDoe port (fun s => if s.sec.sessions.get 0 port = 1 then (s.spdm port 0x65 req).setSession port 2 else s.spdm port spdmError req)

/-- END_SESSION closes the session. -/
def execEndSession (port : Nat) (s : State) : Result :=
  s.onDoe port (fun s => if s.sec.sessions.get 0 port = 2 then (s.spdm port 0x6C []).setSession port 0 else s.spdm port spdmError [])

end Sys2Proof.Machine
end

