-- ==== Sys2Proof/Machine/Mgmt.lean ====
section
/-! DEFINITION. The management ports (R503–R512): the operations that are no security operations, management frames on the
configuration slave port, restarts of the keeper's cores, and the I3C target's common command codes. -/

namespace Sys2Proof.Machine

/-! ## Registers, telemetry, the log (R509, R510, R512, R514) -/

/-- REG_READ: a register of management space, at its own width. -/
def State.opRegRead (s : State) (p : MPort) (seq : Byte) (off : Nat) : State :=
  match s.mgmtReg off with
  | none => s.respond p 0x01 seq.toNat stRange
  | some r => s.respond p 0x01 seq.toNat stOk (leBytes (if r.wide then 8 else 4) (s.readReg r))

def execRegRead (p : MPort) (seq : Byte) (off : W32) (s : State) : Result :=
  s.mgmt p seq 0x01 (fun s => s.opRegRead p seq off.toNat)

/-- The registers that REG_WRITE may write (R510). -/
def Reg.mgmtWritable (r : Reg) : Bool :=
  match r with
  | .rstCtl | .netSample | .secStatus | .alertStatus | .alertMask | .mgmtCfg | .logStatus => true
  | _ => false

/-- REG_WRITE. A write that resets the system is not answered: the ports stop (R503). -/
def State.opRegWrite (s : State) (p : MPort) (seq : Byte) (off : Nat) (wide : Bool) (v : Nat) : State :=
  match s.mgmtReg off with
  | none => s.respond p 0x02 seq.toNat stRange
  | some r =>
    if !r.mgmtWritable then s.respond p 0x02 seq.toNat stDenied
    else if wide != r.wide then s.respond p 0x02 seq.toNat stMalformed
    else
      let s := s.writeReg .mgmt r v
      if s.rst.level = .none then s.respond p 0x02 seq.toNat stOk else s

def execRegWrite (p : MPort) (seq : Byte) (off : W32) (wide : Bool) (v : W64) (s : State) : Result :=
  s.mgmtWrite p seq 0x02 (.regWrite p seq off wide v) (fun s => s.opRegWrite p seq off.toNat wide (if wide then v.toNat else v.toNat % 2 ^ 32))

/-- TELEMETRY: the item, taken in one step. -/
def State.opTelemetry (s : State) (p : MPort) (seq : Byte) (item index : Nat) (clear : Bool) : State :=
  match s.telemetryItem item index clear with
  | (s, .ok l) => s.respond p 0x03 seq.toNat stOk l
  | (s, .error st) => s.respond p 0x03 seq.toNat st

def execTelemetry (p : MPort) (seq : Byte) (item : Byte) (index : BitVec 16) (clear : Bool) (s : State) : Result :=
  s.mgmt p seq 0x03 (fun s => s.opTelemetry p seq item.toNat index.toNat clear)

/-- LOG_READ: up to 63 records from the one wanted on, or from the oldest held. -/
def State.opLogRead (s : State) (p : MPort) (seq : Byte) (device : Bool) (first : Nat) : State :=
  let k := s.keeper
  let (ring, size, next) := if device then (k.device, 4096, k.nextDev) else (k.general, 520192, k.nextGen)
  let start := max first (next - size)
  let n := min 63 (next - start)
  s.respond p 0x04 seq.toNat stOk
    (leBytes 8 start ++ (List.range n).flatMap (fun i => recBytes (ring.get {} ((start + i) % size))))

def execLogRead (p : MPort) (seq : Byte) (device : Bool) (first : W64) (s : State) : Result :=
  s.mgmt p seq 0x04 (fun s => s.opLogRead p seq device first.toNat)

/-! ## Block reset, limits, the port split (R391, R421, R439, R509) -/

/-- BLOCK_RESET: answered at once where it is refused, and otherwise once the block is reset. -/
def State.opBlockReset (s : State) (p : MPort) (seq : Byte) (b : BlockId) : State :=
  match s.resetRefusal b with
  | some st => s.respond p 0x05 seq.toNat st
  | none => (s.setMport p { busy := true }).beginReset { block := b, issuer := none, port := some (p, seq) }

def execBlockReset (p : MPort) (seq : Byte) (b : BlockId) (s : State) : Result :=
  s.mgmtWrite p seq 0x05 (.blockReset p seq b) (fun s => s.opBlockReset p seq b)

/-- SET_LIMITS of the management port: answered at the control interval at which it takes effect. -/
def State.opSetLimits (s : State) (p : MPort) (seq : Byte) (pairs : List (Nat × Nat)) : State :=
  if s.limitsOk pairs then (s.setMport p { busy := true }).queueLimits none (some (p, seq)) pairs
  else s.respond p 0x06 seq.toNat stRange

def execMgmtSetLimits (p : MPort) (seq : Byte) (pairs : List (BitVec 16 × W32)) (s : State) : Result :=
  s.mgmtWrite p seq 0x06 (.mgmtSetLimits p seq pairs) (fun s => s.opSetLimits p seq (usedPairs pairs))

/-- CONFIG_SET: the split of a port, in force from the next option-load phase on. -/
def State.opConfigSet (s : State) (p : MPort) (seq : Byte) (port split : Nat) : State :=
  if 2 ≤ port || 2 ≤ split then s.respond p 0x08 seq.toNat stMalformed
  else { s with keeper := { s.keeper with splits := putBit s.keeper.splits port (split == 1) } }.respond p 0x08 seq.toNat stOk

def execConfigSet (p : MPort) (seq : Byte) (port : BitVec 2) (split : Byte) (s : State) : Result :=
  s.mgmtWrite p seq 0x08 (.configSet p seq port split) (fun s => s.opConfigSet p seq port.toNat split.toNat)

/-! ## Boot slots (R511) -/

/-- SLOT_WRITE: BUSY while another port owns the slot, or the boot load reads the slots. -/
def State.opSlotWrite (s : State) (p : MPort) (seq : Byte) (slotB last : Bool) (off : Nat) (bytes : List Byte) : State :=
  let k := flag slotB
  let put (s : State) (v : NvSlot) : State := { s with loader := { s.loader with slots := s.loader.slots.set {} k v } }
  if s.loader.phase = 1 then s.respond p 0x07 seq.toNat stBusy
  else match chunkRefusal (s.slot k) p off bytes.length with
    | some st => s.respond p 0x07 seq.toNat st
    | none =>
      let v := (s.slot k).chunk p off bytes
      if !last then (put s v).respond p 0x07 seq.toNat stOk
      else
        let c := s.slotCause v hdrPersonality
        (put s { v with valid := c == 0, owner := none }).respond p 0x07 seq.toNat stOk (leBytes 1 c)

def execSlotWrite (p : MPort) (seq : Byte) (slotB last : Bool) (off : BitVec 26) (bytes : List Byte) (s : State) : Result :=
  s.mgmtWrite p seq 0x07 (.slotWrite p seq slotB last off bytes) (fun s => s.opSlotWrite p seq slotB last off.toNat bytes)

/-- Ten seconds without a chunk end the ownership of a slot: boot slots 0 and 1, firmware slots 2 to 5. -/
def execSlotOwnershipTimeout (slot : Nat) (s : State) : Result :=
  if slot < 2 then
    .next { s with loader := { s.loader with slots := s.loader.slots.set {} slot { s.slot slot with owner := none } } }
  else if slot < 6 then
    .next { s with sec := { s.sec with fw := s.sec.fw.set {} (slot - 2) { s.fwSlotOf (slot - 2) with owner := none } } }
  else .next s

/-! ## Frames on the configuration slave port (R505, R508) -/

/-- The operation of a frame whose CRC has passed (R509): OP, SEQ, ARG and payload. -/
def State.perform (s : State) (op : Nat) (seq : Byte) (arg : Nat) (l : List Byte) (fuseOk : Bool) : State :=
  let p : MPort := .csp
  let bad := s.respond p op seq.toNat stMalformed
  let n := l.length
  match op with
  | 0x01 => if n = 0 then s.opRegRead p seq arg else bad
  | 0x02 => if n = 4 || n = 8 then s.opRegWrite p seq arg (n == 8) (ofLe l) else bad
  | 0x03 => if n = 0 && arg < 2 ^ 25 then s.opTelemetry p seq (arg % 256) (bits arg 8 16) (bit arg 24) else bad
  | 0x04 => if n = 8 && arg < 2 then s.opLogRead p seq (arg == 1) (ofLe l) else bad
  | 0x05 => if n = 4 && ofLe l < 2 ^ 19 then s.opBlockReset p seq { cls := ofLe l % 8, index := bits (ofLe l) 3 16 } else bad
  | 0x06 =>
    if n % 8 = 0 then
      s.opSetLimits p seq (((chunks 8 n l).map (fun x => (field x 0 2, field x 4 4))).filter (fun x => x.1 != 0))
    else bad
  | 0x07 => if bits arg 2 4 = 0 then s.opSlotWrite p seq (bit arg 0) (bit arg 1) (arg / 64) l else bad
  | 0x08 => if n = 1 && arg < 4 then s.opConfigSet p seq arg (ofLe l) else bad
  | 0x10 => if n = 33 then s.ownerProvision p seq (field l 0 1) (BitVec.ofNat 256 (field l 1 32)) fuseOk else bad
  | 0x11 => if n = 1 then s.ownerRevoke p seq (ofLe l) fuseOk else bad
  | 0x12 => if n = 2 then s.policySet p seq (bit (field l 0 1) 0) (bit (field l 1 1) 0) fuseOk else bad
  | 0x13 => s.keyWrite p seq l
  | 0x14 => if n = 0 then s.keyErase p seq else bad
  | 0x15 => if n = 2 then s.rollbackAdvance p seq (field l 0 1) (field l 1 1) fuseOk else bad
  | 0x16 => if bits arg 2 4 = 0 then s.fwStage p seq (bit arg 0) (bit arg 1) (arg / 64) l else bad
  | 0x17 => if n = 0 && arg < 2 then s.fwActivate p seq (arg == 1) else bad
  | 0x18 => if n = 33 then s.attest p seq (l.take 32) (field l 32 1) else bad
  | _ => bad

/-- Whether a request frame is whole: its payload has LEN bytes, and its CRC agrees. -/
def frameOk (l : List Byte) : Bool :=
  12 ≤ l.length && l.length == 12 + field l 2 2 && field l 2 2 ≤ 4096
    && field l (l.length - 4) 4 == crc32c (l.take (l.length - 4))

/-- What a whole frame asks for is done. -/
def State.performFrame (s : State) (frame : List Byte) (fuseOk : Bool) : State :=
  s.perform (field frame 0 1) (BitVec.ofNat 8 (field frame 1 1)) (field frame 4 4) ((frame.drop 8).take (frame.length - 12)) fuseOk

/-- The operations that read, which run beside a write of the other port (R506). -/
def opReads (op : Nat) : Bool := op == 0x01 || op == 0x03 || op == 0x04 || op == 0x18

/-- MGMT_REQ: one request frame. One that fails its CRC is not executed. -/
def execMgmtReq (frame : List Byte) (fuseOk : Bool) (s : State) : Result :=
  let op := field frame 0 1
  let seq := BitVec.ofNat 8 (field frame 1 1)
  s.mgmt .csp seq op (fun s =>
    if !frameOk frame then s.respond .csp op seq.toNat stFrameCrc
    else if opReads op then s.performFrame frame fuseOk
    else s.oneAtATime .csp (.mgmtReq frame fuseOk) (fun s => s.performFrame frame fuseOk))

/-- MGMT_RESP: the response frame, or one byte 0xFF while it is not ready. -/
def execMgmtResp (s : State) : Result :=
  if !s.watched || !bitOf s.keeper.cfg 2 then .next s
  else .next (s.cspReturn (s.keeper.cspPort.resp.getD [0xFF]))

/-! ## Writes that waited for the other port's (R506), and the control interval -/

/-- A write that waited is executed. -/
def State.takeUp (s : State) (p : MPort) (i : Instr) : State :=
  match i with
  | .ownerProvision _ seq slot hash fuseOk => s.ownerProvision p seq slot.toNat hash fuseOk
  | .ownerRevoke _ seq slot fuseOk => s.ownerRevoke p seq slot.toNat fuseOk
  | .policySet _ seq fusedOff bbkOff fuseOk => s.policySet p seq fusedOff bbkOff fuseOk
  | .rollbackAdvance _ seq cls value fuseOk => s.rollbackAdvance p seq cls.toNat value.toNat fuseOk
  | .keyWrite _ seq cipher => s.keyWrite p seq cipher
  | .keyErase _ seq => s.keyErase p seq
  | .fwStage _ seq steward last off bytes => s.fwStage p seq steward last off.toNat bytes
  | .fwActivate _ seq steward => s.fwActivate p seq steward
  | .regWrite _ seq off wide v => s.opRegWrite p seq off.toNat wide (if wide then v.toNat else v.toNat % 2 ^ 32)
  | .blockReset _ seq b => s.opBlockReset p seq b
  | .mgmtSetLimits _ seq pairs => s.opSetLimits p seq (usedPairs pairs)
  | .configSet _ seq port split => s.opConfigSet p seq port.toNat split.toNat
  | .slotWrite _ seq slotB last off bytes => s.opSlotWrite p seq slotB last off.toNat bytes
  | .mgmtReq frame fuseOk => s.performFrame frame fuseOk
  | _ => s

/-- The first write that waits is taken up, unless the other port's is still executing: one that waits too does not. -/
def State.runHead (s : State) : State :=
  match s.keeper.held with
  | [] => s
  | (p, i) :: rest =>
    if (s.mport (otherPort p)).busy && rest.all (fun x => x.1 != otherPort p) then s
    else { s with keeper := { s.keeper with held := rest } }.takeUp p i

/-- The writes that wait, at most one a port. -/
def State.runHeld (s : State) : State := s.runHead.runHead

/-- CONTROL_INTERVAL. While the cores do not run every domain holds its point (R417). -/
def execControlInterval (watts tierWatts : Nat) (s : State) : Result :=
  if !s.watched || !s.keeperRuns then .next s else .next (s.interval watts tierWatts).runHeld

/-! ## Restarts of the keeper's cores (R504) -/

/-- CK_MGT cycles in a second. -/
abbrev secondTicks : Nat := 300000000

/-- A lockstep mismatch restarts the cores from the active firmware slot; a second one within 1 s leaves them stopped. -/
def execKeeperRestart (s : State) : Result :=
  if !s.watched || s.keeper.stopped then .next s
  else
    let now := s.ltc.toNat
    let again : Bool := match s.keeper.lockstep with
      | some t => now < t + secondTicks
      | none => false
    if again then .next { s with keeper := { s.keeper with stopped := true } }
    else
      let s := { s with keeper := { s.keeper with lockstep := some now } }
      .next ((s.switchFw false s.sec.activeFw false).raise (recOf cKeeperRestart 11 0))

/-! ## The I3C target (R507) -/

/-- A common command code, which reaches the target while the ports respond. -/
def State.i3cDo (s : State) (f : I3c → I3c) : Result :=
  if !s.watched then .next s else .next { s with keeper := { s.keeper with i3c := f s.keeper.i3c } }

/-- A directed one, which reaches it once it has a dynamic address. -/
def State.i3cGet (s : State) (f : I3c → I3c) : Result :=
  s.i3cDo (fun x => if x.addr.isSome then f x else x)

/-- Bytes in the order an I3C CCC sends them: the highest first. -/
def beBytes (n x : Nat) : List Byte := (leBytes n x).reverse

/-- The provisioned ID: Abakiod's manufacturer ID, type 1, bytes 0–3 of SM3(ID_PUB). -/
def State.provisionedId (s : State) : Nat :=
  2 ^ 33 * Config.mipiManufacturer.toNat + 2 ^ 32 + field (Config.sm3 (leBytes 64 s.sec.fuses.idPub.toNat)) 0 4

/-- ENTDAA: a target without an address takes the one assigned, which answers its Hot-Join. -/
def execEntdaa (addr : BitVec 7) (s : State) : Result :=
  s.i3cDo (fun x => if x.addr.isSome then x else { x with addr := some addr, hotJoin := false, out := beBytes 6 s.provisionedId })

/-- RSTDAA: the dynamic address is given up. -/
def execRstdaa (s : State) : Result := s.i3cDo (fun x => { x with addr := none })

/-- ENEC and DISEC enable and disable events by their bits: bit 0 in-band interrupts, bit 3 Hot-Join. -/
def execEnec (events : Byte) (s : State) : Result := s.i3cDo (fun x => { x with disabled := x.disabled &&& ~~~events })
def execDisec (events : Byte) (s : State) : Result := s.i3cDo (fun x => { x with disabled := x.disabled ||| events })

def execGetpid (s : State) : Result := s.i3cGet (fun x => { x with out := beBytes 6 s.provisionedId })
def execGetbcr (s : State) : Result := s.i3cGet (fun x => { x with out := leBytes 1 (Config.i3cCharacteristic 0x8E).toNat })
def execGetdcr (s : State) : Result := s.i3cGet (fun x => { x with out := leBytes 1 (Config.i3cCharacteristic 0x8F).toNat })
def execGetstatus (s : State) : Result := s.i3cGet (fun x => { x with out := beBytes 2 (Config.i3cCharacteristic 0x90).toNat })
def execGetmwl (s : State) : Result := s.i3cGet (fun x => { x with out := beBytes 2 x.mwl.toNat })
def execGetmrl (s : State) : Result := s.i3cGet (fun x => { x with out := beBytes 2 x.mrl.toNat ++ [1] })
def execSetmwl (n : BitVec 16) (s : State) : Result := s.i3cDo (fun x => { x with mwl := n })
def execSetmrl (n : BitVec 16) (s : State) : Result := s.i3cDo (fun x => { x with mrl := n })

end Sys2Proof.Machine
end

