-- ==== Sys2Proof/Machine/Debug.lean ====
section
/-! DEFINITION. Boundary scan and the debug network (R517–R521): the TAP's instructions, the boundary register, and the
instruments of the IEEE 1687 network. -/

namespace Sys2Proof.Machine

/-- A TAP instruction: the TAP runs whenever PWR_OK is high (R517). -/
def State.tap (s : State) (ir : TapInstr) (dr : List Byte) : Result :=
  if s.rst.level = .power then .next s else .next { s with dbg := { s.dbg with ir := ir, dr := dr } }

def execIdcode (s : State) : Result := s.tap .idcode (leBytes 4 0x1B1E5453)
def execTestLogicReset (s : State) : Result := s.tap .idcode (leBytes 4 0x1B1E5453)
def execBypass (s : State) : Result := s.tap .bypass []
def execClamp (s : State) : Result := s.tap .clamp []
def execHighz (s : State) : Result := s.tap .highz []

/-! ## The boundary register (R518) -/

/-- Whether the bank of a cell has its supply: 96 cells a bank. -/
def State.cellPowered (s : State) (c : Nat) : Bool := !s.pins.vioBad.contains (c / 96)

/-- What the cells capture: the pads, and 0 in a bank whose VIO is absent. -/
def State.captureCells (s : State) (pads : BitVec 1152) : BitVec 1152 :=
  s.pins.vioBad.foldl (fun v b => if b < 12 then v &&& ~~~(BitVec.ofNat 1152 ((2 ^ 96 - 1) * 2 ^ (96 * b))) else v) pads

/-- A scan of the boundary register: the cells capture, what they captured is shifted out, and what is shifted in stands. -/
def State.scan (s : State) (ir : TapInstr) (pads shift : BitVec 1152) : Result :=
  if s.rst.level = .power then .next s
  else
    let v := s.captureCells pads
    .next { s with dbg := { s.dbg with ir := ir, captured := v, boundary := shift, dr := leBytes 144 v.toNat } }

def execSamplePreload (pads shift : BitVec 1152) (s : State) : Result := s.scan .sample pads shift
def execExtest (pads shift : BitVec 1152) (s : State) : Result := s.scan .extest pads shift

/-- What the TAP makes of user I/O pin `k` (0 P, 1 N) of pair `p` of bank `b`: under EXTEST and CLAMP the level that its output
cell gives where its enable cell is 1, nothing under HIGHZ; in the outer option none where the TAP leaves the pad alone. -/
def State.padDrive (s : State) (b p k : Nat) : Option (Option Bool) :=
  let c := 96 * b + 6 * p + 3 * k
  match s.dbg.ir with
  | .extest | .clamp =>
    some (if s.cellPowered c && s.dbg.boundary.getLsbD (c + 2) then some (s.dbg.boundary.getLsbD (c + 1)) else none)
  | .highz => some none
  | _ => none

/-! ## The IEEE 1687 network (R519–R521) -/

/-- The debug level: the number of blown DEBUG_LOCK fuses (R519). -/
def State.debugLevel (s : State) : Nat := flag (bitOf s.sec.fuses.debugLock 0) + flag (bitOf s.sec.fuses.debugLock 1)

/-- Bytes of a trace entry. -/
def Trace.bytes (t : Trace) : List Byte :=
  leBytes 1 t.ens ++ leBytes 4 t.bar ++ leBytes 2 t.slot ++ leBytes 1 t.opcode ++ leBytes 8 t.ltc

/-- The highest debug level that allows an instrument, and whether it needs bench mode (R520). -/
def instrumentRights (i : Instrument) : Nat × Bool :=
  match i with
  | .sensor _ | .stepTrace _ | .callerTrace | .linkResends _ | .occupancy _ | .rail _ | .pll _ | .eye _ _
    | .rearmTrace => (1, false)
  | .tileStore _ _ | .accumulator _ _ _ _ | .hbm _ _ => (0, false)
  | .bistTileStore _ | .bistBlockRam _ | .keeperHalt _ => (0, true)

/-- Bytes an instrument that is not allowed reads as, all zero. -/
def instrumentSize (i : Instrument) : Nat :=
  match i with
  | .sensor _ => 2
  | .linkResends _ | .occupancy _ | .rail _ | .pll _ => 4
  | .tileStore _ _ | .hbm _ _ => 64
  | .accumulator _ _ _ _ => 256
  | .eye _ _ => 4
  | _ => 0

/-- `n` free words of a block RAM, 72 bits each (R520: a self-test destroys what it tests). -/
def State.scrambleBram (s : State) (n k : Nat) : State :=
  match n with
  | 0 => s
  | m + 1 =>
    let (s, i) := s.draw
    let (s, j) := s.draw
    let (s, l) := s.draw
    let w : BitVec 72 := BitVec.ofNat 72 ((Config.freeWord i).toNat + 2 ^ 32 * (Config.freeWord j).toNat + 2 ^ 64 * (Config.freeWord l).toNat)
    { s with bram := s.bram.set 0 k w }.scrambleBram m (k + 1)

/-- What an allowed instrument does, and what it reads. -/
def State.instrument (s : State) (i : Instrument) : State × List Byte :=
  match i with
  | .sensor n => (s, leBytes 2 (patt 16 (s.gov.temps.get 0 n)))
  | .stepTrace u => (s, (s.dbg.traces.get [] u).flatMap Trace.bytes)
  | .callerTrace => (s, s.dbg.bars.flatMap Trace.bytes)
  | .tileStore t line =>
    if 512 ≤ t || 65536 ≤ line then (s, zeros 64)
    else if 57344 ≤ line then (s, (Map.getAll (s.tile t).journal 0 (8 * (line - 57344)) 8).flatMap (fun e => leBytes 8 e.toNat))
    else (s.tsLoad t (64 * line) 64, s.tsRead t (64 * line) 64)
  | .accumulator t a b r => (s, if t < 512 && a < 4 && b < 8 && r < 64 then ((s.tile t).accRow a b r).flatMap (fun w => leBytes 4 w.toNat) else zeros 256)
  | .hbm m o => (s, if s.stackOn m && o < 2 ^ 36 then s.hbmRead m (o / 64 * 64) 64 else zeros 64)
  | .linkResends r => (s, leBytes 4 (s.resends.get 0 r))
  | .eye _ _ | .occupancy _ | .rail _ | .pll _ => s.drawBytes 4
  | .rearmTrace => ({ s with dbg := { s.dbg with frozen := false } }, [])
  | .bistTileStore t =>
    if t < 512 then
      let (s, l) := s.drawBytes (2 ^ 22)
      (s.tsPut t 0 l false, [])
    else (s, [])
  | .bistBlockRam b => (if b < 8192 then s.scrambleBram 512 (512 * b) else s, [])
  | .keeperHalt h => ({ s with dbg := { s.dbg with halted := h } }, [])

/-- IJTAG: at level 2 it acts as BYPASS; an instrument that the level or the mode does not allow reads as zeros and ignores
writes. -/
def execIjtag (i : Instrument) (s : State) : Result :=
  if s.rst.level = .power then .next s
  else if 2 ≤ s.debugLevel then s.tap .bypass []
  else if s.debugLevel ≤ (instrumentRights i).1 && (!(instrumentRights i).2 || !s.installed) then
    match s.instrument i with
    | (s, l) => s.tap .ijtag l
  else s.tap .ijtag (zeros (instrumentSize i))

end Sys2Proof.Machine
end

