-- ==== Sys2Proof/Machine/Zegus.lean ====
section
/-! DEFINITION. Zegus links (R444–R460): receiving and delivering frames, flow control and retry, the states of a link, lane
sparing, and the redirection of device IDs. Link 16 stands for the partner link, which uses the same PHY (R464). -/

namespace Sys2Proof.Machine

/-! ## Receiving (R446, R447, R452, R454) -/

/-- Whether an LSEQ lies before another, counting modulo 2¹⁶. -/
def seqBefore (a b : BitVec 16) : Bool := a != b && (b - a).toNat < 32768

/-- The frames a LACK passes leave the retry buffer; a NACK is then no longer one in a row. -/
def Link.absorbLack (l : Link) (lack : BitVec 16) : Link :=
  let buffer := l.buffer.filter (fun f => !seqBefore f.lseq lack)
  if buffer.length < l.buffer.length then { l with buffer := buffer, nackSeq := none, nacks := 0 } else l

/-- Credits returned, one byte for each virtual channel. -/
def Link.absorbCred (l : Link) (cred : BitVec 32) : Link :=
  { l with credits := (List.range 4).foldl (fun m v => Map.set m 0 v (m.get 0 v + fld cred (8 * v) 8)) l.credits }

/-- A frame accepted in order: its LACK and credits count, its own credit is owed, and the next LSEQ is expected. -/
def Link.accept (l : Link) (f : Frame) : Link :=
  let l := (l.absorbLack f.lack).absorbCred f.cred
  { l with rxSeq := l.rxSeq + 1, dropping := false, owedCred := l.owedCred.set 0 f.vc.toNat (l.owedCred.get 0 f.vc.toNat + 1) }

/-- A link die receives a frame: what `deliver` does with it where the link is UP and the frame the next in order; a
duplicate, or a frame after a lost one, is discarded. -/
def State.receive (s : State) (die : Nat) (f : Frame) (deliver : State → Option State) : Result :=
  let l := s.link die
  if 16 ≤ die || s.rst.pllLost || l.st != .up || f.lseq != l.rxSeq then .next s
  else match deliver (s.setLink die (l.accept f)) with
    | some s => .next (s.pumpLink die)
    | none => .next s

/-- A frame of a reserved type, or on the wrong channel, is discarded and counted (R447). -/
def State.discard (s : State) : State := { s with zegus := { s.zegus with discarded := s.zegus.discarded + 1 } }

/-- Whether frames to a device are delivered here: its own ID, or one it has adopted (R458). -/
def State.isHere (s : State) (dst : BitVec 14) : Bool := dst == s.devId || s.zegus.adopted.contains dst.toNat

/-- Sends a frame on its way to another device, with one hop fewer left (R458). -/
def State.forward (s : State) (f : Frame) : State :=
  if f.ttl = 0 then s.unreachable f else s.sendFrame { f with ttl := f.ttl - 1 }

/-- A frame for this device, of the type and channel that its command stands for; any other is forwarded or discarded. -/
def State.arrived (s : State) (die : Nat) (f : Frame) (type vc : Nat) (deliver : State → Option State) : Result :=
  s.receive die f (fun s =>
    if f.type.toNat != type || f.vc.toNat != vc then some s.discard
    else if !s.isHere f.dst then some (s.forward f)
    else deliver s)

/-- An answer to a frame by an ACK (R451). -/
def State.ackFrame (s : State) (f : Frame) (code : Nat) : State := s.sendFrame (ackOf s.devId f code)

/-- The channel of a type (R447); none for a reserved one. -/
def typeVc (type : Nat) : Option Nat :=
  match type with
  | 0x0 | 0x1 | 0x2 => some 0
  | 0x3 | 0x4 | 0x5 | 0x6 => some 1
  | 0x7 => some 2
  | 0x8 => some 3
  | _ => none

/-- FORWARD: a frame for another device (R458). -/
def execForward (die : Nat) (f : Frame) (s : State) : Result :=
  s.receive die f (fun s =>
    if typeVc f.type.toNat != some f.vc.toNat then some s.discard
    else if s.isHere f.dst then none
    else some (s.forward f))

/-! ## Remote access (R450, R451) -/

/-- The initiator of a link die (R276). -/
def linkInit (die : Nat) : Nat := 0x360 + die

/-- The address space of incoming PUT and GET. -/
def State.remoteAsid (s : State) : Nat := fld s.zegus.ctl 1 10

/-- The place of an address that a peer accesses: a LOCAL page with REMOTE set and the permission; a cause otherwise; none
where it cannot be told yet. -/
def State.remotePlace (s : State) (die va : Nat) (write : Bool) : State × Option (Except Nat (Nat × Nat)) :=
  match s.translate (linkInit die) s.remoteAsid va with
  | (s, .later) => (s, none)
  | (s, .bad c) => (s, some (.error c))
  | (s, .leaf pte big) =>
    match s.leafPlace pte big va write with
    | .hbm m o => (s, some (if bitOf pte 5 then .ok (m, o) else .error causePermission))
    | .bad c => (s, some (.error c))
    | _ => (s, some (.error causePermission))

/-- The ACK status of a cause. -/
def remoteCode (cause : Nat) : Nat := if cause = causePcFrozen then 2 else 1

/-- The runs of neighbouring pieces that a frame brings, each with its place in the block and its bytes. -/
def pieceRuns (mask : BitVec 4) (data : List Byte) : List (Nat × List Byte) :=
  ((onesOf mask.toNat 4).zipIdx).foldl (fun (l : List (Nat × List Byte)) (j : Nat × Nat) =>
    let b := fit 0 64 ((data.drop (64 * j.2)).take 64)
    match l.getLast? with
    | some (k, c) => if k + c.length = 64 * j.1 then l.dropLast ++ [(k, c ++ b)] else l ++ [(64 * j.1, b)]
    | none => [(64 * j.1, b)]) []

/-- PUT: a write of the pieces present at class 2, acknowledged once it is written; it waits while memory cannot be reached. -/
def State.put (s : State) (die : Nat) (f : Frame) : Option State :=
  if !bitOf s.zegus.ctl 0 then some (s.ackFrame f 1)
  else
    let a := f.addr.toNat / 256 * 256
    match s.remotePlace die a true with
    | (_, none) => none
    | (s, some (.error c)) => some (s.ackFrame f (remoteCode c))
    | (s, some (.ok (m, o))) =>
      match (pieceRuns f.len f.data).foldl (fun (x : State × Put) (j : Nat × List Byte) => match x with
          | (s, .done) => s.writePlace (linkInit die) (.hbm m (o + j.1)) j.2 (f.vstate == 2) a
          | x => x) (s, Put.done) with
      | (s, .done) => some (s.ackFrame f 0)
      | (s, .bad c _) => some (s.ackFrame f (remoteCode c))
      | (_, .later) => none

def execPut (die : Nat) (f : Frame) (s : State) : Result := s.arrived die f 0x0 0 (fun s => s.put die f)

/-- GET_REQ: the block is read at class 1 and answered with a GET_RESP that returns its stream, sequence number and EPOCH (R272),
or with an ACK where it fails. -/
def State.getReq (s : State) (die : Nat) (f : Frame) : Option State :=
  if !bitOf s.zegus.ctl 0 then some (s.ackFrame f 1)
  else
    let a := f.addr.toNat / 256 * 256
    match s.remotePlace die a false with
    | (_, none) => none
    | (s, some (.error c)) => some (s.ackFrame f (remoteCode c))
    | (s, some (.ok (m, o))) =>
      match s.readPlace (linkInit die) (.hbm m o) 256 a with
      | (_, .later) => none
      | (s, .bad c _) => some (s.ackFrame f (remoteCode c))
      | (s, .bytes l bad) =>
        let r := newFrame s.devId f.src.toNat 0 0x2 15 f.sid.toNat f.tseq.toNat f.addr.toNat l
        some (s.sendFrame { r with vstate := if bad then 2 else 0, epoch := f.epoch })

def execGetReq (die : Nat) (f : Frame) (s : State) : Result := s.arrived die f 0x3 1 (fun s => s.getReq die f)

/-- The engine and context of a stream ID (R158). -/
def sidEngine (sid : BitVec 16) : Option (Nat × Nat) := if sid.toNat < 2048 then some (sid.toNat / 8, sid.toNat % 8) else none

/-- GET_RESP: lands in the slot of the transaction. -/
def State.getResp (s : State) (f : Frame) : State :=
  match sidEngine f.sid with
  | none => s
  | some (n, c) =>
    let ks := onesOf f.len.toNat 4
    let data := ks.zipIdx.foldl (fun (l : List Byte) (j : Nat × Nat) =>
      overlay l (64 * j.1) (fit 0 64 ((f.data.drop (64 * j.2)).take 64))) (zeros 256)
    let r : Resp := { init := BitVec.ofNat 12 (seInit n), sub := BitVec.ofNat 4 c, seq := f.tseq, stack := atPeer,
                      block := f.addr.toNat / 256 * 256, mask := f.len, epoch := f.epoch,
                      vstate := f.vstate, data := data }
    (s.countResp (seInit n) c f.tseq.toNat (64 * ks.length)).streamResp n c r

def execGetResp (die : Nat) (f : Frame) (s : State) : Result := s.arrived die f 0x2 0 (fun s => some (s.getResp f))

/-- The context a frame names in ADDR: unit and context. -/
def frameCtx (f : Frame) : Option (Nat × Nat) :=
  let u := fld f.addr 0 10
  if unitKind u = .stream then some (u - 512, fld f.addr 10 3) else none

/-- RING: lands in the ring of the RECV context that takes the sender's transaction; refused otherwise (R168). -/
def State.ringFrame (s : State) (f : Frame) : State :=
  if !bitOf s.zegus.ctl 0 then s.ackFrame f 1
  else match frameCtx f with
    | none => s.ackFrame f 3
    | some (n, c) =>
      if (s.ctx n c).takesFrom f.src.toNat f.sid.toNat f.tseq.toNat && s.unitHere (512 + n) then
        (s.ringLand n c f.tseq.toNat (fit 0 256 f.data) f.vstate f.epoch f.arith).ackFrame f 0
      else s.ackFrame f 3

def execRing (die : Nat) (f : Frame) (s : State) : Result := s.arrived die f 0x1 0 (fun s => some (s.ringFrame f))

/-- GRANT: ring grants to a sending context, from the receiving context that the frame's source names (R168). -/
def execGrant (die : Nat) (f : Frame) (s : State) : Result :=
  s.arrived die f 0x5 1 (fun s => match frameCtx f with
    | none => some s
    | some (n, c) =>
      let v := s.ctx n c
      let k := f.src.toNat * 2 ^ 16 + f.sid.toNat
      some (s.setCtx n c { v with grants := v.grants.set 0 k (v.grants.get 0 k + f.tseq.toNat) }))

/-- ARRIVE: one TOKEN packet on the floor (R202). -/
def execArriveFrame (die : Nat) (f : Frame) (s : State) : Result :=
  s.arrived die f 0x6 1 (fun s => some (s.arriveFromLink die f))

/-- The VERDICT body a frame carries (R285, R447). -/
def frameVerdict (f : Frame) (n c : Nat) : VerdictBody :=
  { se := n, ctx := c, first := BitVec.ofNat 32 (field f.data 0 4), last := BitVec.ofNat 32 (field f.data 4 4),
    outcome := BitVec.ofNat 2 (field f.data 8 1) }

/-- A trailing VERDICT, as a packet or as a frame, is applied or kept (R287). -/
def execVerdictPacket (v : VerdictSource) (s : State) : Result :=
  match v with
  | .packet v => if v.se < 256 && v.ctx < 8 then .next (s.applyVerdict v.se v.ctx v) else .next s
  | .frame die f => s.arrived die f 0x7 2 (fun s => match frameCtx f with
    | some (n, c) => some (s.applyVerdict n c (frameVerdict f n c))
    | none => some s)

/-! ## Barriers (R448, R449, R457, R474) -/

/-- What a BARRIER frame's piece says: its kind and the device concerned. -/
def barrierKind (f : Frame) : Nat := field f.data 0 1
def barrierDev (f : Frame) : Nat := field f.data 2 2 % 2 ^ 14

/-- A BARRIER frame of a kind: one of another kind is not this command's. -/
def State.barrierFrame (s : State) (die : Nat) (f : Frame) (kind : Nat) (g : State → State) : Result :=
  s.arrived die f 0x8 3 (fun s => if barrierKind f = kind then some (g s) else none)

/-- FENCE: delivered behind every earlier frame of its link; nothing further follows. -/
def execFence (die : Nat) (f : Frame) (s : State) : Result := s.barrierFrame die f 0 id

/-- ADOPT: accepted where the route entry of the ID names the sender as its understudy and the sender is not itself
redirected to another device; answered in either case (R449, R474). -/
def State.adopt (s : State) (f : Frame) : State :=
  let x := barrierDev f
  let e := s.zegus.routes.get 0 x
  let z := s.zegus
  if bitOf e 30 && BitVec.ofNat 14 (fld e 16 14) == f.src && f.src != 0x3FFF && z.redirects.get 0x3FFF f.src.toNat == 0x3FFF then
    { s with zegus := { z with redirects := z.redirects.set 0x3FFF x f.src } }.ackFrame f 0
  else (s.raise { recOf cZlAdoptRefused 11 0 with detail := x + 2 ^ 16 * f.src.toNat }).ackFrame f 3

def execAdopt (die : Nat) (f : Frame) (s : State) : Result := s.barrierFrame die f 1 (fun s => s.adopt f)

/-- UNADOPT clears the redirection of an ID. -/
def execUnadopt (die : Nat) (f : Frame) (s : State) : Result :=
  s.barrierFrame die f 2 (fun s =>
    { s with zegus := { s.zegus with redirects := s.zegus.redirects.erase (barrierDev f) } })

/-! ## The states of a link (R455, R456, R460, R464) -/

/-- The lanes a link trains with: 16 of those not retired, and the spares left over. -/
def State.trainLanes (s : State) (die : Nat) : List Nat × List Nat :=
  ((s.goodLanes die).take 16, (s.goodLanes die).drop 16)

/-- The partner lanes that are not retired; a retired one is dropped (R464). -/
def State.partnerLanes (s : State) : List Nat := (List.range 16).filter (fun k => (s.hl (4480 + k)).st != .retired)

/-- A link loses its place: its frames go by other links of their routes, or are answered UNREACHABLE (R455). -/
def State.leaveUp (s : State) (die : Nat) (st : LinkState) : State :=
  let l := s.link die
  let fs := l.buffer ++ l.waiting
  let s := s.setLink die { l with st := st, buffer := [], waiting := [], credits := [], owedCred := [], txSeq := 0, rxSeq := 0,
                                  nackSeq := none, nacks := 0, failed := 0, dropping := false, active := [] }
  fs.foldl (fun s f => s.sendFrame f) s

/-- A link goes DOWN, with its record. -/
def State.linkDown (s : State) (die failed : Nat) : State :=
  let s := s.leaveUp die .down
  (s.setLink die { s.link die with failed := failed }).raise (recLink cZlLinkDown die)

/-- A link starts to train. -/
def State.linkTrain (s : State) (die : Nat) : State := s.leaveUp die .training

/-- A link into RECOVERY: every frame is held (R455). -/
def State.recover (s : State) (die : Nat) : State :=
  let l := s.link die
  if l.st = .up then s.setLink die { l with st := .recovery, failed := 0, nackSeq := none, nacks := 0 } else s

/-- A spare lane that has become RETIRED is unused no more (R27); a lane that has, with no spare left, leaves its link; below 8 lanes the link goes DOWN (R460). A retired
partner lane is dropped (R464). -/
def State.dropRetired (s : State) (die : Nat) : State :=
  if die = 16 then { s with partner := { s.partner with lanes := if s.partner.linkUp then s.partnerLanes else s.partner.lanes } }
  else
    let l := s.link die
    let retired (k : Nat) : Bool := (s.hl (4192 + 18 * die + k)).st == .retired
    let spares := l.spares.filter (fun k => !retired k)
    let s := s.setLink die { l with spares := spares }
    if spares.isEmpty && l.active.any retired then
      let active := l.active.filter (fun k => !retired k)
      let s := s.setLink die { l with active := active, spares := spares }
      if active.length < 8 then s.linkDown die 3 else s
    else s

/-- Health events of lanes of a link, or of the partner link. -/
def State.laneEvents (s : State) (die : Nat) (lanes : List Nat) : State :=
  let s := lanes.foldl (fun s k =>
    if die = 16 then (if k < 16 then s.healthEvent 13 k else s)
    else if k < 18 then s.healthEvent 7 (18 * die + k) else s) s
  s.dropRetired die

/-- What a link die or its PHY does needs its clock, which the root PLL gives (R398). -/
def State.clocked (s : State) (r : Result) : Result := if s.rst.pllLost then .next s else r

/-- An uncorrectable codeword or a failed check: this frame and every later one are discarded, and a NACK names the first
missing LSEQ, which is the one expected (R454); lanes that most of the errors lie on have a health event (R460). -/
def execUncorrectableCodeword (die : Nat) (lanes : List Nat) (s : State) : Result :=
  s.clocked <| if die = 16 then (if s.partner.linkUp then .next (s.laneEvents 16 lanes) else .next s)
  else
    let l := s.link die
    if 16 < die || l.st != .up then .next s
    else .next ((s.setLink die { l with dropping := true }).laneEvents die lanes)

/-- A LINK NACK: the frames from the LSEQ it names are sent again; the eighth of one LSEQ in a row puts the link into
RECOVERY (R454, R455). -/
def execNack (die : Nat) (lseq : BitVec 16) (s : State) : Result :=
  let l := (s.link die).absorbLack lseq
  if 16 ≤ die || s.rst.pllLost || l.st != .up then .next s
  else
    let n := if l.nackSeq = some lseq then l.nacks + 1 else 1
    let s := s.setLink die { l with nackSeq := some lseq, nacks := n, retries := l.retries + 1 }
    let s := s.raise (recLink cZlRetry die)
    if 8 ≤ n then .next (s.recover die) else .next (s.pumpLink die)

/-- Loss of lock: a health event of each lane; on more lanes than leave eight, the link goes into RECOVERY. -/
def execRecovery (die : Nat) (lanes : List Nat) (s : State) : Result :=
  s.clocked <| if die = 16 then
    if s.partner.linkUp then
      let s := s.laneEvents 16 lanes
      .next { s with partner := { s.partner with link := .recovery, failed := 0 } }
    else .next s
  else
    let l := s.link die
    if 16 < die || l.st != .up then .next s
    else
      let left := (l.active.filter (fun k => !lanes.contains k)).length + l.spares.length
      let s := s.laneEvents die lanes
      if lanes.isEmpty || left < 8 then .next (s.recover die) else .next s

/-- The PHY of a link has trained or retrained, or a retrain has failed. -/
def execPhyTrained (die : Nat) (ok : Bool) (s : State) : Result :=
  s.clocked <| if die = 16 then
    let p := s.partner
    match p.link with
    | .training => if ok then .next { s with partner := { p with link := .ident, lanes := s.partnerLanes } } else .next s
    | .recovery =>
      if ok then .next { s with partner := { p with link := .up, failed := 0 } }
      else if 2 ≤ p.failed then .next { s with partner := { p with link := .training, failed := 0, lanes := [] } }
      else .next { s with partner := { p with failed := p.failed + 1 } }
    | _ => .next s
  else
    let l := s.link die
    match l.st with
    | .training =>
      if ok then
        let (a, sp) := s.trainLanes die
        .next (s.setLink die { l with st := .ident, active := a, spares := sp })
      else .next s
    | .recovery =>
      if ok then .next ((s.setLink die { l with st := .up, failed := 0 }).pumpLink die)
      else if 2 ≤ l.failed then .next (s.linkDown die 3)
      else .next (s.setLink die { l with failed := l.failed + 1 })
    | _ => .next s

/-- A LINK frame with only LACK and CRED (R452). -/
def execLackCred (die : Nat) (lack : BitVec 16) (cred : BitVec 32) (s : State) : Result :=
  let l := s.link die
  if 16 ≤ die || s.rst.pllLost || l.st != .up then .next s
  else .next ((s.setLink die ((l.absorbLack lack).absorbCred cred)).pumpLink die)

/-- IDENT of a link: UP only where the peer and its link die are exactly those the installation map names. -/
def State.identLink (s : State) (die : Nat) (peer : BitVec 14) (peerDie : BitVec 4) (version : Byte) (credits : List Nat) : State :=
  let l := s.link die
  if s.rst.pllLost || l.st != .ident then s
  else
    let l := { l with peer := peer }
    if peer = l.mapDev && peerDie = l.mapDie && version = 1 then
      let c := (credits.take 4).zipIdx.foldl (fun (m : Map Nat) (x : Nat × Nat) => m.set 0 x.2 x.1) []
      (s.setLink die { l with st := .up, credits := c, owedCred := [], txSeq := 0, rxSeq := 0 }).pumpLink die
    else
      ((s.mark (96 + die) 24).setLink die { l with st := .refused, mismatch := true }).raise
        { recLink cZlPeerMismatch die with detail := l.mapDev.toNat + 2 ^ 16 * peer.toNat }

/-- A link not trained in time goes DOWN and is tried again; a REFUSED link trains again (R456). -/
def execTrainingTimeout (die : Nat) (s : State) : Result :=
  s.clocked <| if die = 16 then
    let p := s.partner
    if p.link = .refused || (p.link = .down && p.id != 0x3FFF && p.st != .bench) then
      .next { s with partner := { p with link := .training } }
    else if p.link = .training then .next { s with partner := { p with link := .down } }
    else .next s
  else
    let l := s.link die
    match l.st with
    | .training => .next (s.linkDown die 0)
    | .refused => .next (s.linkTrain die)
    | .down => if l.mapDev != 0x3FFF && l.failed < 3 && s.linkOn die then .next (s.linkTrain die) else .next s
    | _ => .next s

/-- A virtual channel has held a frame ready without credit for 100 µs (R453). -/
def execZlStalled (die : Nat) (vc : BitVec 2) (s : State) : Result :=
  let l := s.link die
  if die < 16 && !s.rst.pllLost && l.st = .up && l.credits.get 0 vc.toNat = 0 && l.waiting.any (fun f => f.vc == vc) then
    .next (s.raise { recLink cZlStalled die with detail := vc.toNat })
  else .next s

/-- Both ends switch a lane to a spare; the link stays UP (R460). -/
def execLaneSparing (die lane spare : Nat) (s : State) : Result :=
  let l := s.link die
  if die < 16 && !s.rst.pllLost && l.st = .up && l.active.contains lane && l.spares.contains spare then
    let s := s.setLink die { l with active := l.active.map (fun k => if k = lane then spare else k), spares := l.spares.erase spare }
    .next (s.raise { recOf cZlLaneSpared 7 (18 * die + lane) with detail := spare })
  else .next s

end Sys2Proof.Machine
end

