-- ==== Sys2Proof/Machine/Partner.lean ====
section
/-! DEFINITION. The partnership (R443, R461–R480): the installation map, the partner link, mirroring and checkpoints, pair
states, takeover, release and admission; and the ACK frames that answer an ADOPT. -/

namespace Sys2Proof.Machine

/-! ## Pair states (R472) -/

/-- Acknowledgements held for room in the mirror queue are sent (R468). -/
def State.releaseHeld (s : State) : State :=
  { s.sendAll (s.partner.held.map Packet.ack) with partner := { s.partner with held := [] } }

/-- A change of pair state: measured into MR6 (R493), and recorded. -/
def State.setPair (s : State) (st : PairState) : State :=
  let old := s.partner.st
  if old = st then s
  else
    let s := { s with partner := { s.partner with st := st } }
    let s := if st = .paired then s else s.releaseHeld
    let s := s.extend 6 4 0xFFFF 0 (Config.sm3 [BitVec.ofNat 8 st.code])
    s.raise { recOf cPtnState 11 0 with detail := old.code + st.code * 2 ^ 8 }

/-- Partner commands that wait end with a status, as the pair leaves the states they need. -/
def State.dropWaits (s : State) (st : Nat) : State :=
  let p := s.partner
  let s := { s with partner := { p with waitAdmit := none, waitRelease := none, admission := .none } }
  let s := match p.waitAdmit with
    | some h => s.answer h 0x24 st
    | none => s
  match p.waitRelease with
  | some h => s.answer h 0x23 st
  | none => s

/-- Stops an ensemble whatever its state (R37). -/
def State.stopAny (s : State) (e : Nat) : State :=
  let x := s.en e
  match x.st with
  | .idle => s
  | .loaded => s.enterIdle e
  | .done => s.enterIdle e
  | _ => if x.stopping then s else s.stopEns e

/-- The device stops every ensemble and enters FENCED. -/
def State.fenceOff (s : State) : State :=
  let s := (List.range 8).foldl State.stopAny s
  (s.setPair .fenced).dropWaits stNotIdle

/-! ## Bulk copies (R468, R478) -/

/-- The copies of every entry of a map; one of nothing where the map has no entry, so that the other side learns of the end. -/
def copiesOf (m : Map MirrorEntry) (own : Bool) : List BulkCopy :=
  let l := (m.filter (fun (x : Nat × MirrorEntry) => x.2.valid)).map (fun (x : Nat × MirrorEntry) =>
    ({ range := { entry := x.1, addr := x.2.addr, len := x.2.len, partner := x.2.partner }, own := own } : BulkCopy))
  if l.isEmpty then [{ range := { entry := 64, addr := 0, len := 0, partner := 0 }, own := own }] else l

/-- Bytes of a partner frame's pieces (R465). -/
abbrev partnerPieces : Nat := 1024

/-- What waits to be sent leaves while the partner link is up: the messages and mirrored lines, the next frame of a bulk
copy, and the acknowledgements that the mirror queue held. -/
def State.partnerSend (s : State) : State :=
  if s.partner.linkUp then
    let p := s.partner
    let (copies, sent) := match p.copies with
      | [] => ([], 0)
      | c :: r =>
        let n := min partnerPieces (c.range.len - c.off)
        (if c.range.len ≤ c.off + n then r else { c with off := c.off + n } :: r, n)
    { s with partner := { p with queue := [], memory := [], controls := [], copies := copies, copySent := p.copySent + sent } }.releaseHeld
  else s

/-- The pair becomes PAIRED and each side copies its mirror ranges (R468, R473). -/
def State.joinPair (s : State) : State :=
  let s := s.setPair .paired
  { s with partner := { s.partner with copies := copiesOf s.partner.out false } }

/-! ## The fabric's answers (R449, R474) -/

/-- Every device with a VALID route entry but the pair. -/
def State.peers (s : State) : List Nat :=
  (s.zegus.routes.filter (fun (x : Nat × W64) => bitOf x.2 30 && x.1 != s.devId.toNat && x.1 != s.partner.id.toNat)).map Prod.fst

/-- The stream ID of BARRIER frames about the partner, which no stream has; TSEQ is the peer asked. -/
abbrev adoptSid : Nat := 0x1000

/-- Sends a BARRIER frame of a kind about the partner to each peer (R449). -/
def State.notify (s : State) (kind : Nat) (peers : List Nat) : State :=
  let piece := fit 0 64 (leBytes 1 kind ++ leBytes 1 0 ++ leBytes 2 s.partner.id.toNat)
  peers.foldl (fun s d => s.sendFrame (newFrame s.devId d 3 0x8 1 adoptSid d 0 piece)) s

/-! ## Checkpoints (R469) -/

/-- The sync object that an image holds (R190). -/
def SyncObj.ofImage (v : BitVec 128) : SyncObj :=
  { count := BitVec.ofNat 32 (fld v 0 32), target := BitVec.ofNat 32 (fld v 32 32), gen := BitVec.ofNat 8 (fld v 64 8),
    complete := bitOf v 72, auto := bitOf v 73, tree := bitOf v 74, ovf := bitOf v 75, owner := BitVec.ofNat 4 (fld v 76 4),
    wtk := BitVec.ofNat 5 (fld v 80 5) }

/-- The halted contexts of an ensemble's engines, with their saved positions (R184). -/
def State.savedPositions (s : State) (x : Ens) : List SavedPos :=
  (x.units.filter (fun u => unitKind u == .stream)).flatMap (fun u => (List.range 8).filterMap (fun c =>
    let v := s.ctx (u - 512) c
    if v.st = .halted && v.ub = u + 1024 * x.bank then
      some { se := u - 512, ctx := c, desc := v.desc, use := v.use, tH := v.low, bytes := v.bytes, done := v.done,
             cause := v.cause, addr := v.failAddr }
    else none))

/-- The CHECKPOINT record of an ensemble at its MARK bar. -/
def State.checkpoint (s : State) (e number : Nat) : Ckpt :=
  let x := s.en e
  { ens := e, number := number, base := x.base, asid := x.asid, dyn := x.markAt.getD 0, next := x.next, epoch := x.epoch,
    figs := x.figs,
    units := x.units.map (fun u =>
      let b := s.bk (u + 1024 * x.bank)
      { unit := u, tk := b.tk, cp := b.cp, epoch := b.epoch, mode := b.mode }),
    syncs := (s.sync.filter (fun p => p.1 / 16384 == x.bank)).map (fun p => (p.1, s.imageOf p.1)),
    remote := s.remote.filter (fun p => p.1 / 2048 == x.bank),
    halted := s.savedPositions x,
    chans := (s.boundChans e).map (fun c => (c, (s.chan c).sqHead)) }

/-- A context with the saved position of a record: HALTED, until RESUME_STREAM (R475). -/
def ctxOf (ub : Nat) (p : SavedPos) : Ctx :=
  { st := .halted, ub := ub, desc := p.desc, use := p.use, low := p.tH, next := p.done.foldl (fun m t => max m (t + 1)) p.tH,
    done := p.done, bytes := p.bytes, cause := p.cause, failAddr := p.addr, failT := p.tH,
    ringBase := field p.desc 0x44 2, ringSlots := field p.desc 0x46 2 }

/-- The ensemble of a checkpoint starts in a bank from its prologue `p` and takes up what the record holds (R475). -/
def State.restoreFrom (s : State) (bank : Nat) (c : Ckpt) (p : List Byte) : State :=
  let e := c.ens
  let s := (s.setEn e (loadedEns bank p c.base c.asid c.number)).startEns e none
  let s := s.setEn e { s.en e with next := c.next, dyn := c.dyn + 1, figs := c.figs, epoch := c.epoch, restored := true }
  let s := c.units.foldl (fun s u =>
    let ub := u.unit + 1024 * bank
    s.setBk ub { s.bk ub with tk := u.tk.foldl (fun m x => Map.set m 0 x.1 x.2) [], cp := u.cp.foldl (fun m x => Map.set m 0 x.1 x.2) [],
                              epoch := u.epoch, mode := u.mode }) s
  let s := { s with sync := s.sync.drop (fun k => k / 16384 == bank), remote := s.remote.drop (fun k => k / 2048 == bank) }
  let s := (c.syncs.filter (fun x => x.1 / 16384 == bank)).foldl (fun s x => s.setObj x.1 (SyncObj.ofImage x.2)) s
  let s := { s with remote := (c.remote.filter (fun x => x.1 / 2048 == bank)).foldl (fun m x => Map.set m 0 x.1 x.2) s.remote }
  c.halted.foldl (fun s h => s.setCtx h.se h.ctx (ctxOf (512 + h.se + 1024 * bank) h)) s

/-- Restores a checkpoint of the shard of role `role` in a bank; false where the ensemble or its address space is outside the
role's half, its number is taken, or its prologue cannot be read (R462, R475). -/
def State.restore (s : State) (bank role : Nat) (c : Ckpt) : State × Bool :=
  if c.ens / 4 != role || c.asid / 512 != role || (s.en c.ens).st != .idle then (s, false)
  else match s.fetchVa callerTlb c.asid c.base 4096 with
    | (s, .bytes p false) =>
      if prologueOk p c.asid && field p 6 1 == c.ens then (s.restoreFrom bank c p, true) else (s, false)
    | (s, _) => (s, false)

/-! ## Takeover (R474–R476) -/

/-- The partner's role. -/
def State.partnerRole (s : State) : Nat := 1 - s.ownBank

/-- The device enters TAKEN_OVER: the partner's ensembles start from their latest complete checkpoints, and frames to the
partner's ID are delivered here. DETAIL of the record holds the ensembles adopted and, from bit 8 on, those that are not. -/
def State.takeOver (s : State) : State :=
  let s := s.setPair .takenOver
  let role := s.partnerRole
  let s := { s with
    zegus := { s.zegus with adopted := addIdx s.zegus.adopted s.partner.id.toNat },
    partner := { s.partner with asked := [], refusals := [], queue := [], copies := [], adopted := [], taken := [], lost := [] } }
  let s := s.partner.ckpts.foldl (fun s (x : Nat × List Ckpt) =>
    match x.2.getLast? with
    | none => s
    | some c =>
      let (s, good) := s.restore role role c
      if good then { s with partner := { s.partner with adopted := s.partner.adopted ++ [c.ens],
                                                          taken := s.partner.taken ++ [(c.ens, c.number, c.chans)] } }
      else { s with partner := { s.partner with lost := s.partner.lost ++ [c.ens] } }) s
  let mask (l : List Nat) : Nat := (l.map (fun e => 2 ^ e)).sum
  let s := s.raise { recOf cPtnTakenOver 11 0 with detail := mask s.partner.adopted % 256 + mask s.partner.lost % 256 * 2 ^ 8 }
  match s.partner.waitRelease with
  | some h => { s with partner := { s.partner with waitRelease := none } }.answer h 0x23 stOk
  | none => s

/-- The device asks every peer to adopt the partner's ID. -/
def State.askPeers (s : State) : State :=
  let ps := s.peers
  { s with partner := { s.partner with asked := ps, oks := [], refusals := [] } }.notify 1 ps

/-- No decision: peers that accepted are told otherwise, and the host decides (R474). -/
def State.undecided (s : State) : State :=
  let s := s.notify 2 s.partner.oks
  { s with partner := { s.partner with asked := [], oks := [], refusals := [] } }.raise (recOf cPtnSevered 11 0)

/-- The device enters SEVERED and seeks a quorum where it may. -/
def State.sever (s : State) : State :=
  let s := s.setPair .severed
  if bitOf s.partner.ctl 16 && s.partner.shadowOk && s.variant.linkDies.any (fun l => (s.link l).st == .up) && !s.peers.isEmpty
  then s.askPeers
  else s.undecided

/-- The outcome of a quorum, once enough peers have answered. -/
def State.decide (s : State) : State :=
  let p := s.partner
  let n := p.asked.length
  if n < 2 * p.oks.length then s.takeOver
  else if n ≤ 2 * p.refusals.length then
    let s := s.notify 2 p.oks
    { s with partner := { s.partner with asked := [], oks := [], refusals := [] } }.fenceOff
  else s

/-- A peer's answer to an ADOPT: counted while a quorum is sought; a peer that accepts when none is sought any more, and the
partner has not been taken over, is told otherwise. -/
def State.adoptAnswer (s : State) (peer code : Nat) : State :=
  let p := s.partner
  if p.st = .severed && p.asked.contains peer then
    if p.oks.contains peer || p.refusals.contains peer then s
    else if code = 0 then { s with partner := { p with oks := addIdx p.oks peer } }.decide
    else if code = 3 then { s with partner := { p with refusals := addIdx p.refusals peer } }.decide
    else s
  else if code != 0 then s
  else if p.st = .takenOver then { s with partner := { p with oks := addIdx p.oks peer } }
  else s.notify 2 [peer]

/-- QUORUM_WAIT µs have passed without a decision. -/
def execQuorumWait (s : State) : Result :=
  if s.partner.st = .severed && !s.partner.asked.isEmpty then .next s.undecided else .next s

/-- ACK (R451): the answer to an ADOPT, or the end of a transaction of a stream. -/
def execAckFrame (die : Nat) (f : Frame) (s : State) : Result :=
  s.arrived die f 0x4 1 (fun s =>
    let code := f.addr.toNat % 16
    if f.sid.toNat = adoptSid then some (s.adoptAnswer f.src.toNat code)
    else match sidEngine f.sid with
      | none => some s
      | some (n, c) =>
        let s := s.countResp (seInit n) c f.tseq.toNat 0
        some (s.streamAck n c (peerAck f.sid f.tseq (ackStatusOf code) f.epoch)))

/-! ## Release (R477) -/

/-- The released device has stopped every ensemble at its MARK bar: it says so and is FENCED. -/
def State.endRelease (s : State) : State :=
  if s.partner.releasing && (List.range 8).all (fun e => (s.en e).st != .running || (s.en e).stopping) then
    ({ s with partner := { s.partner with releasing := false, controls := s.partner.controls ++ [Control.released] } }.setPair .fenced).dropWaits stNotIdle
  else s

/-! ## Admission (R478, R479) -/

/-- The ensembles adopted that are still to be handed back: those that run, and those whose handback is not confirmed. -/
def State.stillAdopted (s : State) : List Nat :=
  s.partner.adopted.filter (fun e => (s.en e).st == .running || s.partner.handed.any (fun c => c.ens == e))

/-- Phase 1 is over once every adopted ensemble is handed back: the peers are told, the pair is PAIRED, phase 2 begins. -/
def State.settleHandback (s : State) : State :=
  if s.partner.admission = .handingBack && s.stillAdopted.isEmpty then
    let s := s.notify 2 s.peers
    let s := { s with zegus := { s.zegus with adopted := remIdx s.zegus.adopted s.partner.id.toNat },
                      partner := { s.partner with adopted := [], oks := [] } }
    let s := s.joinPair
    { s with partner := { s.partner with admission := .phaseTwo } }
  else s

/-- The replacement is lost: an ensemble handed back and not confirmed starts again here from the same checkpoint. -/
def State.admissionLost (s : State) : State :=
  if s.partner.admission = .none then s
  else
    let hs := s.partner.handed
    let s := { s with partner := { s.partner with handed := [], copies := [] } }
    let s := hs.foldl (fun s c => ((s.setEn c.ens {}).restore s.partnerRole s.partnerRole c).1) s
    match s.partner.waitAdmit with
    | some h => { s with partner := { s.partner with admission := .none, waitAdmit := none } }.answer h 0x24 stNotIdle
    | none => { s with partner := { s.partner with admission := .none } }

/-! ## MARK (R469) -/

/-- The MARK bar of an ensemble, once every earlier step of every member has completed: a CHECKPOINT record goes behind every
earlier line of the MIRROR sequence; an ensemble that is handed back, or whose device is released, stops. -/
def execMark (e : BitVec 3) (s : State) : Result :=
  let e := e.toNat
  let x := s.en e
  if s.rst.pllLost || x.st != .running || x.stopping || x.markAt.isNone || !x.live.isEmpty then .next s
  else
    let p := s.partner
    let back := p.admission = .handingBack && p.adopted.contains e
    if p.st != .paired && !back then .next (s.setEn e { x with markAt := none })
    else
      let c := s.checkpoint e (x.ckpts + 1)
      let s := s.setEn e { x with markAt := none, ckpts := x.ckpts + 1 }
      if back then
        .next ({ s with partner := { p with handed := p.handed ++ [c], controls := p.controls ++ [Control.handback c] } }.stopEns e)
      else
        let s := { s with partner := { p with queue := p.queue ++ [MirrorItem.checkpoint c] } }
        if p.releasing then .next (s.stopEns e).endRelease else .next s

/-! ## Heartbeats and silence (R466, R473) -/

/-- A heartbeat of the partner. -/
def execHeartbeat (p : HbPath) (s : State) : Result :=
  if s.partner.st = .bench then .next s
  else match p with
    | .sideband => .next { s with partner := { s.partner with sideband := true } }
    | .frames => if !s.rst.pllLost && s.partner.linkUp && s.partner.st = .partitioned then .next s.joinPair else .next s

/-- The device's own heartbeat on both paths: none in bench mode, none once it is FENCED. -/
def execHeartbeatSend (s : State) : Result :=
  if !s.portsUp || s.partner.st = .bench || s.partner.st = .fenced then .next s
  else
    let p := s.partner
    let s := { s with pins := { s.pins with hbOut := !s.pins.hbOut }, partner := { p with beat := some (s.ltc, p.st, p.ckptNo) } }
    .next s.endRelease.settleHandback

/-- The paths named have been silent for 31 µs. -/
def execSilence (link sideband : Bool) (s : State) : Result :=
  if s.partner.st = .bench then .next s
  else
    let s := if sideband then { s with partner := { s.partner with sideband := false } } else s
    let s := if link then s.admissionLost else s
    if s.partner.st != .paired then .next s
    else if link && sideband then .next s.sever
    else if link then .next ({ s with partner := { s.partner with shadowOk := false, copies := [] } }.setPair .partitioned)
    else if sideband then .next (s.raise (recOf cPtnSidebandLost 11 0))
    else .next s

/-! ## Frames of the partner link (R465, R468, R478) -/

/-- The initiator of the partner lanes (R276); the model takes the lanes of H0 for all of them (DESIGN CHOICE). -/
abbrev partnerInit : Nat := 0x372

/-- Writes lines at a device address as the partner's, which are not mirrored back; none while memory cannot be reached. -/
def State.applyLines (s : State) (fuel a : Nat) (data : List Byte) (poisoned : Bool) : Option State :=
  match fuel with
  | 0 => some s
  | k + 1 => match data with
    | [] => some s
    | _ =>
      let w := lineRun a data.length
      match s.place a with
      | none => s.applyLines k (a + w) (data.drop w) poisoned
      | some (m, o) => match s.availFor partnerInit m o true with
        | .later => none
        | .bad _ => s.applyLines k (a + w) (data.drop w) poisoned
        | .ok =>
          let s := ((s.reach partnerInit m o w).noteWrite m (s.servingPc m o) (snapAt partnerInit o .write)).moved m 0 w
          ((s.hbmWrite m o (data.take w)).hbmPoison m o poisoned).applyLines k (a + w) (data.drop w) poisoned

/-- A MIRROR line is applied to the shadow as it arrives (R470); a CHECKPOINT record is complete, and the last two of each
ensemble are kept (R469). -/
def execMirror (m : MirrorItem) (s : State) : Result :=
  if s.rst.pllLost || !s.partner.linkUp then .next s
  else match m with
    | .lines a data poisoned => .next ((s.applyLines 17 a data poisoned).getD s)
    | .checkpoint c =>
      let l := s.partner.ckpts.get [] c.ens ++ [c]
      .next { s with partner := { s.partner with ckpts := s.partner.ckpts.set [] c.ens (l.drop (l.length - 2)), ckptNo := c.number } }

/-! ## What a shadow may hold (R17, R467) -/

/-- The most that mirror ranges may total (R467). -/
abbrev shadowLimit : Nat := 384 * 2 ^ 30

/-- Bytes of the ranges that the entries of a mirror map declare. -/
def mirrorBytes (m : Map MirrorEntry) : Nat :=
  ((m.filter (fun (x : Nat × MirrorEntry) => x.2.valid)).map (fun (x : Nat × MirrorEntry) => x.2.len)).sum

/-- Whether an entry fits in a shadow: with the entries `there` it totals at most 384 GiB, beside the own shard `shard` the memory of
the part that holds it, and it lies in that memory (R17, R467). Both parts are of one variant. The own shard is what a part itself
mirrors (DESIGN CHOICE). -/
def State.shadowHolds (s : State) (there shard : Map MirrorEntry) (k len addr : Nat) : Bool :=
  let total := mirrorBytes (there.erase k) + len
  total ≤ shadowLimit && total + mirrorBytes shard ≤ 2 ^ 36 * s.nStacks && addr + len ≤ 2 ^ 36 * s.nStacks

/-- Whether an entry of this device fits in the partner's memory, and one of the partner's in its own. -/
def State.mirrorFits (s : State) (k len partner : Nat) : Bool := s.shadowHolds s.partner.out s.partner.inn k len partner
def State.shadowFits (s : State) (inn : Map MirrorEntry) (r : MirrorRange) : Bool :=
  s.shadowHolds inn s.partner.out r.entry r.len r.partner

/-- The partner's entries as far as they fit, in order (DESIGN CHOICE: the spec does not say what becomes of one that does not). -/
def State.takeMirrors (s : State) (inn : Map MirrorEntry) (rs : List MirrorRange) : Map MirrorEntry :=
  rs.foldl (fun m r => if s.shadowFits m r then m.set {} r.entry { valid := true, addr := r.addr, len := r.len, partner := r.partner } else m) inn

/-- A RESILVER frame: a piece of the copy of an entry, to the shadow or, in the first phase of an admission, back to the
device's own addresses. The last one ends the copy, and is answered. An entry that does not fit is not taken. -/
def execResilver (r : MirrorRange) (own : Bool) (off : Nat) (data : List Byte) (last : Bool) (s : State) : Result :=
  let fits := own || 64 ≤ r.entry || s.shadowFits s.partner.inn r
  if s.rst.pllLost || !s.partner.linkUp then .next s
  else match (if fits then s.applyLines 17 ((if own then r.addr else r.partner) + off) data false else some s) with
    | none => .next s
    | some s =>
      let p := s.partner
      .next { s with partner := { p with
        inn := if own || 64 ≤ r.entry then p.inn else s.takeMirrors p.inn [r],
        shadowOk := if own then p.shadowOk else last && fits,
        controls := if last then p.controls ++ [if own then Control.phaseOneDone else Control.phaseTwoDone] else p.controls } }

/-- Sends a response to a MEMORY request. -/
def State.memoryAnswer (s : State) (addr : Nat) (seq : W32) (sid : BitVec 16) (st : AckStatus) (data : List Byte) : State :=
  { s with partner := { s.partner with memory := s.partner.memory ++ [PartnerMemory.response addr seq sid st data] } }

/-- The status of a cause for the partner. -/
def partnerStatus (cause : Nat) : AckStatus := if cause = causePcFrozen then .pcFrozen else .permission

/-- Writes of a MEMORY request, one after another, until one does not end as it should. -/
def State.writeRuns (s : State) (m : Nat) (l : List (Nat × List Byte)) (poisoned : Bool) : State × Put :=
  match l with
  | [] => (s, .done)
  | x :: r => match s.writePlace partnerInit (.hbm m x.1) x.2 poisoned 0 with
    | (s, .done) => s.writeRuns m r poisoned
    | y => y

/-- The pieces of 256 bytes that a mask names, packed one behind another. -/
def packed (mask : BitVec 4) (data : List Byte) : List Byte :=
  (onesOf mask.toNat 4).flatMap (fun j => fit 0 64 ((data.drop (64 * j)).take 64))

/-- A MEMORY request of the partner, served in this device's HBM, poisoned data and all (R172, R273); none while memory cannot be
reached. -/
def State.serveMemory (s : State) (addr : Nat) (write : Bool) (mask : BitVec 4) (seq : W32) (sid : BitVec 16) (data : List Byte)
    (poisoned : Bool) : Option State :=
  match s.place addr with
  | none => some (s.memoryAnswer addr seq sid .permission [])
  | some (m, o) =>
    let b := o / 256 * 256
    if write then
      let l := if mask = 0 then [(o, data.take (64 - o % 64))] else (pieceRuns mask (packed mask data)).map (fun x => (b + x.1, x.2))
      match s.writeRuns m l poisoned with
      | (_, .later) => none
      | (s, .bad c _) => some (s.memoryAnswer addr seq sid (partnerStatus c) [])
      | (s, .done) => some (s.memoryAnswer addr seq sid .ok [])
    else match s.readPlace partnerInit (.hbm m b) 256 0 with
      | (_, .later) => none
      | (s, .bad c _) => some (s.memoryAnswer addr seq sid (partnerStatus c) [])
      | (s, .bytes l _) =>
        let bad := (onesOf mask.toNat 4).any (fun j => s.hbmBad m (b + 64 * j))
        some (s.memoryAnswer addr seq sid (if bad then .poisoned else .ok) l)

/-- A response of the partner's: to a stream's transaction, or to a gateway's command. -/
def State.memoryResponse (s : State) (addr : Nat) (seq : W32) (sid : BitVec 16) (st : AckStatus) (data : List Byte) : State :=
  let good := st = .ok || st = .poisoned
  match sidEngine sid with
  | some (n, c) =>
    let s := s.countResp (seInit n) c seq.toNat data.length
    if good && !data.isEmpty then
      s.streamResp n c { init := BitVec.ofNat 12 (seInit n), sub := BitVec.ofNat 4 c, seq := seq, stack := atPartner, block := addr,
                         mask := 15, epoch := 0, vstate := if st = .poisoned then 2 else 0, data := data }
    else s.streamAck n c { init := BitVec.ofNat 12 (seInit n), sub := BitVec.ofNat 4 c, seq := seq, stack := atPartner,
                           block := addr, status := st }
  | none =>
    let g := sid.toNat - 2048
    if 28 ≤ g then s
    else
      let s := s.countResp (gwInit g) 0 seq.toNat data.length
      if good && !data.isEmpty then s.gwResp g seq.toNat (st = .poisoned) data else s.gwAck g seq.toNat st

def execMemory (m : PartnerMemory) (s : State) : Result :=
  if s.rst.pllLost || !s.partner.linkUp then .next s
  else match m with
    | .request addr write mask seq sid data poisoned => .next ((s.serveMemory addr write mask seq sid data poisoned).getD s)
    | .response addr seq sid st data => .next (s.memoryResponse addr seq sid st data)

/-- A CONTROL message (R477–R479). -/
def execControl (c : Control) (s : State) : Result :=
  let p := s.partner
  if s.rst.pllLost || !p.linkUp then .next s
  else match c with
    | .release => if p.st = .paired then .next { s with partner := { p with releasing := true } }.endRelease else .next s
    | .released => if p.waitRelease.isSome && p.st = .paired then .next s.askPeers.takeOver else .next s
    | .handback c =>
      if p.st != .paired then .next s
      else match s.restore s.ownBank s.ownBank c with
        | (s, true) => .next { s with partner := { s.partner with controls := s.partner.controls ++ [Control.confirm c.ens] } }
        | (s, false) => .next s
    | .confirm e =>
      if p.admission = .handingBack && p.handed.any (fun c => c.ens == e) then
        .next { s with partner := { p with handed := p.handed.filter (fun c => c.ens != e), adopted := p.adopted.filter (· != e) } }.settleHandback
      else .next s
    | .phaseOneDone => if p.admission = .phaseOne then .next { s with partner := { p with admission := .handingBack } }.settleHandback else .next s
    | .phaseTwoDone =>
      if p.admission != .phaseTwo then .next s
      else match p.waitAdmit with
        | some h => .next ({ s with partner := { p with admission := .none, waitAdmit := none } }.answer h 0x24 stOk)
        | none => .next { s with partner := { p with admission := .none } }

/-! ## IDENT of a link (R456, R464) -/

/-- The partner link comes up where the other side is the mapped partner with identical digests; it is refused otherwise. -/
def State.identPartner (s : State) (peer : BitVec 14) (digests : Bool) (mirrors : List MirrorRange) : State :=
  let p := s.partner
  if s.rst.pllLost || p.link != .ident then s
  else if peer = p.id && digests then
    let inn := if p.st = .takenOver then p.inn
      else s.takeMirrors [] mirrors
    let s := { s with partner := { p with link := .up, failed := 0, inn := inn } }
    if p.st = .linking || p.st = .partitioned then s.joinPair else s
  else { s with partner := { p with link := .refused } }.raise (recOf cPtnPairMismatch 13 0)

def execIdent (die : Nat) (peer : BitVec 14) (peerDie : BitVec 4) (version : Byte) (credits : List Nat) (digests : Bool)
    (mirrors : List MirrorRange) (s : State) : Result :=
  if die < 16 then .next (s.identLink die peer peerDie version credits)
  else if die = 16 then .next (s.identPartner peer digests mirrors)
  else .next s

/-! ## The installation map (R443, R457, R461) -/

/-- The entry of a link die that a map installs; a link whose entry changes retrains. -/
def State.installLink (s : State) (die : Nat) (dev : BitVec 14) (peerDie : BitVec 4) : State :=
  let l := s.link die
  if l.mapDev = dev && l.mapDie = peerDie then s
  else
    let s := s.setLink die { l with mapDev := dev, mapDie := peerDie, failed := 0 }
    if dev.toNat = noDevice then (if l.st = .down then s else s.linkDown die 0) else s.linkTrain die

/-- The partner that a map installs (R461, R472). -/
def State.installPartner (s : State) (id : BitVec 14) : State :=
  let p := s.partner
  let s := { s with partner := { p with roleB := id.toNat != noDevice && id.toNat < s.devId.toNat } }
  if p.id = id then s
  else
    let none' := id.toNat = noDevice
    let s := s.dropWaits stNotInstalled
    let s := { s with zegus := { s.zegus with adopted := remIdx s.zegus.adopted p.id.toNat } }
    let s := { s with partner := { s.partner with
      id := id, link := if none' then .down else .training, failed := 0, lanes := [], sideband := false, shadowOk := false,
      ckpts := [], ckptNo := 0, inn := [], copies := [], queue := [], memory := [], controls := [], asked := [], oks := [],
      refusals := [], adopted := [], handed := [], releasing := false } }
    if p.st = .fenced then s.releaseHeld else s.setPair (if none' then .bench else .linking)

/-- Installs a map whose checks have passed, with the route table read at ZL_RT_BASE. -/
def State.install (s : State) (m routes : List Byte) : State :=
  let entry (d : Nat) : W64 := BitVec.ofNat 64 (field (routes.drop (8 * d)) 0 8 % 2 ^ 31)
  let s := { s with devId := BitVec.ofNat 14 (field m 0 2),
                    zegus := { s.zegus with routes := Map.setAll [] 0 0 ((List.range 16384).map entry) } }
  let s := s.extend 6 3 0xFFFF 0 (Config.sm3 m)
  let s := s.variant.linkDies.foldl (fun s l =>
    let w := field m (16 + 4 * l) 4
    s.installLink l (BitVec.ofNat 14 w) (BitVec.ofNat 4 (bits w 14 4))) s
  s.installPartner (BitVec.ofNat 14 (field m 2 2))

/-- The status that refuses a map, or none. -/
def State.mapRefusal (s : State) (m : List Byte) : Option Nat :=
  let dev := field m 0 2 % 2 ^ 14
  if dev = noDevice || field m 2 2 % 2 ^ 14 = dev then some stMalformed
  else if dev != s.devId.toNat && (List.range 8).any (fun e => (s.en e).st != .idle) then some stNotIdle
  else none

def execWriteInstallationMap (h : Issuer) (addr : W64) (s : State) : Result :=
  if !s.mayBegin h then .next s
  else
    let s₁ := s.begin h
    if s₁.isVf h.chan then .next (s₁.answer h 0x11 stDenied)
    else match s₁.hostFetch (s₁.hostTlb h.chan) (s₁.chanPort h.chan) addr.toNat 80 with
    | (s₁, none) => .next (s₁.answer h 0x11 stHostErr)
    | (s₁, some m) => match s₁.mapRefusal m with
    | some st => .next (s₁.answer h 0x11 st)
    | none => match s₁.readDev (s₁.hostTlb h.chan) 2049 s₁.zegus.rtBase.toNat 131072 with
      | (_, .later) => .next s
      | (s₂, .bad c _) => .next (s₂.answer h 0x11 (accessStatus c))
      | (s₂, .bytes l poisoned) =>
        if poisoned then .next (s₂.answer h 0x11 stMalformed) else .next ((s₂.install m l).answer h 0x11 stOk)

/-! ## Partner commands (R480) -/

/-- A partner command: physical functions only, never in bench mode, and in a state that allows it. -/
def State.partnerCommand (s : State) (h : Issuer) (op : Nat) (allowed : PairState → Bool) (f : State → State) : Result :=
  s.command h (fun s =>
    if s.isVf h.chan then s.answer h op stDenied
    else if s.partner.st = .bench then s.answer h op stNotInstalled
    else if !allowed s.partner.st then s.answer h op stNotIdle
    else f s)

def execPtnMirror (h : Issuer) (entry : BitVec 6) (valid : Bool) (addr len partner : W64) (s : State) : Result :=
  s.partnerCommand h 0x20 (fun _ => true) (fun s =>
    let k := entry.toNat
    if addr.toNat % 65536 != 0 || len.toNat % 65536 != 0 || partner.toNat % 65536 != 0 then s.answer h 0x20 stMalformed
    else if valid && !s.mirrorFits k len.toNat partner.toNat then s.answer h 0x20 stRange
    else
      let p := s.partner
      let m : MirrorEntry := if valid then { valid := true, addr := addr.toNat, len := len.toNat, partner := partner.toNat } else {}
      let rest := p.copies.filter (fun c => c.own || c.range.entry != k)
      let copies := if valid && p.st = .paired then
          rest ++ [{ range := { entry := k, addr := m.addr, len := m.len, partner := m.partner }, own := false }] else rest
      { s with partner := { p with out := p.out.set {} k m, copies := copies } }.answer h 0x20 stOk)

def execPtnTakeover (h : Issuer) (s : State) : Result :=
  s.partnerCommand h 0x21 (fun st => st == .severed || st == .partitioned) (fun s => s.askPeers.takeOver.answer h 0x21 stOk)

def execPtnStandDown (h : Issuer) (s : State) : Result :=
  s.partnerCommand h 0x22 (fun st => st == .severed || st == .partitioned) (fun s =>
    { s with partner := { s.partner with waitStand := some h } }.fenceOff.standDone)

def execPtnRelease (h : Issuer) (s : State) : Result :=
  s.partnerCommand h 0x23 (fun st => st == .paired) (fun s =>
    if s.partner.waitRelease.isSome then s.answer h 0x23 stNotIdle
    else { s with partner := { s.partner with waitRelease := some h, controls := s.partner.controls ++ [Control.release] } })

def execPtnAdmit (h : Issuer) (s : State) : Result :=
  s.partnerCommand h 0x24 (fun st => st == .takenOver) (fun s =>
    let p := s.partner
    if !p.linkUp || p.admission != .none then s.answer h 0x24 stNotIdle
    else { s with partner := { p with admission := .phaseOne, waitAdmit := some h, copies := copiesOf p.inn true } })

end Sys2Proof.Machine
end

