-- ==== Sys2Proof/Machine/TileStore.lean ====
section
/-! DEFINITION. The tile store's scrubber (R132–R134). -/

namespace Sys2Proof.Machine

/-- The scrubber reads a line, and `found` is what the read itself adds to the line's own errors. A line whose correction has
not been written back yet is not counted again (R132). -/
def execTsScrub (tile line : Nat) (found : Ecc) (s : State) : Result :=
  if s.rst.pllLost || 512 ≤ tile || 65536 ≤ line then .next s else .next (s.tsLoadLine tile false found line)

end Sys2Proof.Machine
end

