-- ==== Sys2Proof/Machine/Dispatch.lean ====
section
/-! DEFINITION. One arm for each command: the call of its meaning. -/

namespace Sys2Proof.Machine

def exec (i : Instr) (s : State) : Host.Outcome State Fault Refusal :=
  match i with
  | .loadChoreography h base asid => Sys2Proof.Machine.execLoadChoreography h base asid s
  | .start h e => Sys2Proof.Machine.execStart h e s
  | .routeSectionRead e => Sys2Proof.Machine.execRouteSectionRead e s
  | .cancel h e group action => Sys2Proof.Machine.execCancel h e group action s
  | .stop h e => Sys2Proof.Machine.execStop h e s
  | .stopComplete e => Sys2Proof.Machine.execStopComplete e s
  | .barFetch e => Sys2Proof.Machine.execBarFetch e s
  | .fetchResume e => Sys2Proof.Machine.execFetchResume e s
  | .barDeal e => Sys2Proof.Machine.execBarDeal e s
  | .branch e => Sys2Proof.Machine.execBranch e s
  | .ensembleDone e => Sys2Proof.Machine.execEnsembleDone e s
  | .mark e => Sys2Proof.Machine.execMark e s
  | .stepFire ub => Sys2Proof.Machine.execStepFire ub s
  | .stepComplete ub => Sys2Proof.Machine.execStepComplete ub s
  | .nop ub => Sys2Proof.Machine.execNop ub s
  | .mode ub => Sys2Proof.Machine.execMode ub s
  | .modeAdopt ub => Sys2Proof.Machine.execModeAdopt ub s
  | .cancelStep ub => Sys2Proof.Machine.execCancelStep ub s
  | .cancelBroadcast ub e group action => Sys2Proof.Machine.execCancelBroadcast ub e group action s
  | .sync x => Sys2Proof.Machine.execSync x s
  | .route ub => Sys2Proof.Machine.execRoute ub s
  | .token ub tk => Sys2Proof.Machine.execToken ub tk s
  | .credit ub pool n => Sys2Proof.Machine.execCredit ub pool n s
  | .absent ub => Sys2Proof.Machine.execAbsent ub s
  | .mxp ub => Sys2Proof.Machine.execMxp ub s
  | .tcfg ub => Sys2Proof.Machine.execTcfg ub s
  | .drain ub => Sys2Proof.Machine.execDrain ub s
  | .verdict ub disagree => Sys2Proof.Machine.execVerdict ub disagree s
  | .locateReRun ub found => Sys2Proof.Machine.execLocateReRun ub found s
  | .blockReplay ub disagree => Sys2Proof.Machine.execBlockReplay ub disagree s
  | .walkThrough u failed arrays => Sys2Proof.Machine.execWalkThrough u failed arrays s
  | .vmov ub chk => Sys2Proof.Machine.execVmov ub chk s
  | .vadd ub chk => Sys2Proof.Machine.execVadd ub chk s
  | .vsub ub chk => Sys2Proof.Machine.execVsub ub chk s
  | .vmul ub chk => Sys2Proof.Machine.execVmul ub chk s
  | .vfma ub chk => Sys2Proof.Machine.execVfma ub chk s
  | .vmax ub chk => Sys2Proof.Machine.execVmax ub chk s
  | .vmin ub chk => Sys2Proof.Machine.execVmin ub chk s
  | .vcmp ub chk => Sys2Proof.Machine.execVcmp ub chk s
  | .vsel ub chk => Sys2Proof.Machine.execVsel ub chk s
  | .vexp2 ub chk => Sys2Proof.Machine.execVexp2 ub chk s
  | .vlog2 ub chk => Sys2Proof.Machine.execVlog2 ub chk s
  | .vrcp ub chk => Sys2Proof.Machine.execVrcp ub chk s
  | .vrsq ub chk => Sys2Proof.Machine.execVrsq ub chk s
  | .vred ub chk => Sys2Proof.Machine.execVred ub chk s
  | .vsmx ub chk => Sys2Proof.Machine.execVsmx ub chk s
  | .vcmb ub chk => Sys2Proof.Machine.execVcmb ub chk s
  | .vperm ub chk => Sys2Proof.Machine.execVperm ub chk s
  | .vrand ub chk => Sys2Proof.Machine.execVrand ub chk s
  | .vseed ub chk => Sys2Proof.Machine.execVseed ub chk s
  | .vscl ub chk => Sys2Proof.Machine.execVscl ub chk s
  | .tsScrub tile line found => Sys2Proof.Machine.execTsScrub tile line found s
  | .dload ub => Sys2Proof.Machine.execDload ub s
  | .dloadComplete ub slot => Sys2Proof.Machine.execDloadComplete ub slot s
  | .dloadResume ub => Sys2Proof.Machine.execDloadResume ub s
  | .stream ub => Sys2Proof.Machine.execStream ub s
  | .rfree ub => Sys2Proof.Machine.execRfree ub s
  | .transactionIssue se ctx => Sys2Proof.Machine.execTransactionIssue se ctx s
  | .tableWalk requester asid va => Sys2Proof.Machine.execTableWalk requester asid va s
  | .rdResp r => Sys2Proof.Machine.execRdResp r s
  | .ack a => Sys2Proof.Machine.execAck a s
  | .hostFlush se ctx ok => Sys2Proof.Machine.execHostFlush se ctx ok s
  | .resumeStream h unit ctx => Sys2Proof.Machine.execResumeStream h unit ctx s
  | .streamStalled se ctx => Sys2Proof.Machine.execStreamStalled se ctx s
  | .retry init sub seq => Sys2Proof.Machine.execRetry init sub seq s
  | .arrive a obj n => Sys2Proof.Machine.execArrive a obj n s
  | .wait a obj => Sys2Proof.Machine.execWait a obj s
  | .set a obj v => Sys2Proof.Machine.execSet a obj v s
  | .reset a obj target auto => Sys2Proof.Machine.execReset a obj target auto s
  | .read a obj => Sys2Proof.Machine.execRead a obj s
  | .syncResp a obj => Sys2Proof.Machine.execSyncResp a obj s
  | .waitRetry a obj => Sys2Proof.Machine.execWaitRetry a obj s
  | .syncConfig h obj owner tree wtk => Sys2Proof.Machine.execSyncConfig h obj owner tree wtk s
  | .remoteMap h index entry => Sys2Proof.Machine.execRemoteMap h index entry s
  | .arriveFrame die f => Sys2Proof.Machine.execArriveFrame die f s
  | .mload ub => Sys2Proof.Machine.execMload ub s
  | .mrun ub => Sys2Proof.Machine.execMrun ub s
  | .gather stack job => Sys2Proof.Machine.execGather stack job s
  | .scatterAdd stack job => Sys2Proof.Machine.execScatterAdd stack job s
  | .reduce stack job => Sys2Proof.Machine.execReduce stack job s
  | .convert stack job => Sys2Proof.Machine.execConvert stack job s
  | .workCopy stack job => Sys2Proof.Machine.execWorkCopy stack job s
  | .fill stack job => Sys2Proof.Machine.execFill stack job s
  | .topk stack job => Sys2Proof.Machine.execTopk stack job s
  | .scrub stack job found => Sys2Proof.Machine.execScrub stack job found s
  | .gemv stack job => Sys2Proof.Machine.execGemv stack job s
  | .adec stack job => Sys2Proof.Machine.execAdec stack job s
  | .jobPiece stack job cluster chk => Sys2Proof.Machine.execJobPiece stack job cluster chk s
  | .jobComplete stack job => Sys2Proof.Machine.execJobComplete stack job s
  | .memRegionWrite v => Sys2Proof.Machine.execMemRegionWrite v s
  | .astBaseWrite v => Sys2Proof.Machine.execAstBaseWrite v s
  | .rdReq r => Sys2Proof.Machine.execRdReq r s
  | .wrReq r => Sys2Proof.Machine.execWrReq r s
  | .addReq r => Sys2Proof.Machine.execAddReq r s
  | .requestIssue stack pc ready found chk => Sys2Proof.Machine.execRequestIssue stack pc ready found chk s
  | .agePromotion stack pc init seq => Sys2Proof.Machine.execAgePromotion stack pc init seq s
  | .rowClose stack pc bank => Sys2Proof.Machine.execRowClose stack pc bank s
  | .refresh stack pc bank postpone => Sys2Proof.Machine.execRefresh stack pc bank postpone s
  | .refreshWindowEnd stack pc bank => Sys2Proof.Machine.execRefreshWindowEnd stack pc bank s
  | .throttleCooldown stack pc init => Sys2Proof.Machine.execThrottleCooldown stack pc init s
  | .dramTempRead stack dies => Sys2Proof.Machine.execDramTempRead stack dies s
  | .hbmScrub stack line found => Sys2Proof.Machine.execHbmScrub stack line found s
  | .parityAlert stack pc offset => Sys2Proof.Machine.execParityAlert stack pc offset s
  | .unfreeze h stack pc => Sys2Proof.Machine.execUnfreeze h stack pc s
  | .retirePc h stack pc => Sys2Proof.Machine.execRetirePc h stack pc s
  | .evacuation stack unreadable => Sys2Proof.Machine.execEvacuation stack unreadable s
  | .initialTraining stack failed temp => Sys2Proof.Machine.execInitialTraining stack failed temp s
  | .retrainingPiece stack pc => Sys2Proof.Machine.execRetrainingPiece stack pc s
  | .linkResend link => Sys2Proof.Machine.execLinkResend link s
  | .statWindow flits => Sys2Proof.Machine.execStatWindow flits s
  | .restart v => Sys2Proof.Machine.execRestart v s
  | .verdictPacket v => Sys2Proof.Machine.execVerdictPacket v s
  | .verdictTimeout se ctx slot => Sys2Proof.Machine.execVerdictTimeout se ctx slot s
  | .tileMigration tile => Sys2Proof.Machine.execTileMigration tile s
  | .seMigration se => Sys2Proof.Machine.execSeMigration se s
  | .record code cls sev unit detail => Sys2Proof.Machine.execRecord code cls sev unit detail s
  | .countPeriod cls unit code => Sys2Proof.Machine.execCountPeriod cls unit code s
  | .eventDelivery chan => Sys2Proof.Machine.execEventDelivery chan s
  | .fabClkWrite k v => Sys2Proof.Machine.execFabClkWrite k v s
  | .gwRead gw cmd => Sys2Proof.Machine.execGwRead gw cmd s
  | .gwWrite gw cmd data => Sys2Proof.Machine.execGwWrite gw cmd data s
  | .gwAdd gw cmd data => Sys2Proof.Machine.execGwAdd gw cmd data s
  | .tsRead gw cmd => Sys2Proof.Machine.execTsRead gw cmd s
  | .tsWrite gw cmd data => Sys2Proof.Machine.execTsWrite gw cmd data s
  | .gwToken gw cmd => Sys2Proof.Machine.execGwToken gw cmd s
  | .gwResponse gw tag => Sys2Proof.Machine.execGwResponse gw tag s
  | .dspNop b ops x => Sys2Proof.Machine.execDspNop b ops x s
  | .clr b ops x => Sys2Proof.Machine.execClr b ops x s
  | .mul b ops x => Sys2Proof.Machine.execMul b ops x s
  | .mac b ops x => Sys2Proof.Machine.execMac b ops x s
  | .msu b ops x => Sys2Proof.Machine.execMsu b ops x s
  | .adda b ops x => Sys2Proof.Machine.execAdda b ops x s
  | .mov b ops x => Sys2Proof.Machine.execMov b ops x s
  | .setp b ops x => Sys2Proof.Machine.execSetp b ops x s
  | .repeatN b ops x => Sys2Proof.Machine.execRepeatN b ops x s
  | .waitv b ops x => Sys2Proof.Machine.execWaitv b ops x s
  | .jmp b ops x => Sys2Proof.Machine.execJmp b ops x s
  | .halt b ops x => Sys2Proof.Machine.execHalt b ops x s
  | .dspRestart b => Sys2Proof.Machine.execDspRestart b s
  | .loadPersonality h image length asid dest => Sys2Proof.Machine.execLoadPersonality h image length asid dest s
  | .partialLoad => Sys2Proof.Machine.execPartialLoad s
  | .regionRelease region => Sys2Proof.Machine.execRegionRelease region s
  | .tablesLoad => Sys2Proof.Machine.execTablesLoad s
  | .tableCommit => Sys2Proof.Machine.execTableCommit s
  | .modelLoad => Sys2Proof.Machine.execModelLoad s
  | .staticLoad => Sys2Proof.Machine.execStaticLoad s
  | .bootLoad => Sys2Proof.Machine.execBootLoad s
  | .globalRelease doneHigh => Sys2Proof.Machine.execGlobalRelease doneHigh s
  | .imageStart dest => Sys2Proof.Machine.execImageStart dest s
  | .imageData bytes => Sys2Proof.Machine.execImageData bytes s
  | .cfgStatus => Sys2Proof.Machine.execCfgStatus s
  | .cspStatus => Sys2Proof.Machine.execCspStatus s
  | .mgmtReq frame fuseOk => Sys2Proof.Machine.execMgmtReq frame fuseOk s
  | .mgmtResp => Sys2Proof.Machine.execMgmtResp s
  | .powerOnReset => Sys2Proof.Machine.execPowerOnReset s
  | .systemReset byPin => Sys2Proof.Machine.execSystemReset byPin s
  | .coreReset byHost => Sys2Proof.Machine.execCoreReset byHost s
  | .sysWdog => Sys2Proof.Machine.execSysWdog s
  | .optionLoad bbkIntact repairCopies => Sys2Proof.Machine.execOptionLoad bbkIntact repairCopies s
  | .pllUnlock => Sys2Proof.Machine.execPllUnlock s
  | .resetBlock h b => Sys2Proof.Machine.execResetBlock h b s
  | .blockReset p seq b => Sys2Proof.Machine.execBlockReset p seq b s
  | .blockIdle b => Sys2Proof.Machine.execBlockIdle b s
  | .blockIdleTimeout b => Sys2Proof.Machine.execBlockIdleTimeout b s
  | .perst port => Sys2Proof.Machine.execPerst port s
  | .pcieTraining port half => Sys2Proof.Machine.execPcieTraining port half s
  | .flr port fn => Sys2Proof.Machine.execFlr port fn s
  | .controlInterval watts tierWatts => Sys2Proof.Machine.execControlInterval watts tierWatts s
  | .sensorRead sensor temp => Sys2Proof.Machine.execSensorRead sensor temp s
  | .iFast => Sys2Proof.Machine.execIFast s
  | .thermTrip sensor temp => Sys2Proof.Machine.execThermTrip sensor temp s
  | .railFault rail tier => Sys2Proof.Machine.execRailFault rail tier s
  | .poll fn w => Sys2Proof.Machine.execPoll fn w s
  | .doorbellReread chan => Sys2Proof.Machine.execDoorbellReread chan s
  | .completionWrite chan => Sys2Proof.Machine.execCompletionWrite chan s
  | .interrupt chan timeExpired => Sys2Proof.Machine.execInterrupt chan timeExpired s
  | .completionTimeout init sub seq => Sys2Proof.Machine.execCompletionTimeout init sub seq s
  | .hostNop h => Sys2Proof.Machine.execHostNop h s
  | .copy h src dst len srcSpace dstSpace asid => Sys2Proof.Machine.execCopy h src dst len srcSpace dstSpace asid s
  | .mapPages h asid all va len list n => Sys2Proof.Machine.execMapPages h asid all va len list n s
  | .setLimits h pairs => Sys2Proof.Machine.execSetLimits h pairs s
  | .query h item index clear buf len => Sys2Proof.Machine.execQuery h item index clear buf len s
  | .correlateTime h ptm => Sys2Proof.Machine.execCorrelateTime h ptm s
  | .writeInstallationMap h addr => Sys2Proof.Machine.execWriteInstallationMap h addr s
  | .enable h chan => Sys2Proof.Machine.execEnable h chan s
  | .disable h chan => Sys2Proof.Machine.execDisable h chan s
  | .registerWrite fn off wide v => Sys2Proof.Machine.execRegisterWrite fn off wide v s
  | .put die f => Sys2Proof.Machine.execPut die f s
  | .ring die f => Sys2Proof.Machine.execRing die f s
  | .getReq die f => Sys2Proof.Machine.execGetReq die f s
  | .getResp die f => Sys2Proof.Machine.execGetResp die f s
  | .ackFrame die f => Sys2Proof.Machine.execAckFrame die f s
  | .grant die f => Sys2Proof.Machine.execGrant die f s
  | .fence die f => Sys2Proof.Machine.execFence die f s
  | .adopt die f => Sys2Proof.Machine.execAdopt die f s
  | .unadopt die f => Sys2Proof.Machine.execUnadopt die f s
  | .forward die f => Sys2Proof.Machine.execForward die f s
  | .nack die lseq => Sys2Proof.Machine.execNack die lseq s
  | .recovery die lanes => Sys2Proof.Machine.execRecovery die lanes s
  | .ident die peer peerDie version credits digests mirrors => Sys2Proof.Machine.execIdent die peer peerDie version credits digests mirrors s
  | .trainingTimeout die => Sys2Proof.Machine.execTrainingTimeout die s
  | .zlStalled die vc => Sys2Proof.Machine.execZlStalled die vc s
  | .laneSparing die lane spare => Sys2Proof.Machine.execLaneSparing die lane spare s
  | .heartbeat p => Sys2Proof.Machine.execHeartbeat p s
  | .heartbeatSend => Sys2Proof.Machine.execHeartbeatSend s
  | .silence link sideband => Sys2Proof.Machine.execSilence link sideband s
  | .quorumWait => Sys2Proof.Machine.execQuorumWait s
  | .mirror m => Sys2Proof.Machine.execMirror m s
  | .memory m => Sys2Proof.Machine.execMemory m s
  | .control c => Sys2Proof.Machine.execControl c s
  | .resilver r own off data last => Sys2Proof.Machine.execResilver r own off data last s
  | .ptnMirror h entry valid addr len partner => Sys2Proof.Machine.execPtnMirror h entry valid addr len partner s
  | .ptnTakeover h => Sys2Proof.Machine.execPtnTakeover h s
  | .ptnStandDown h => Sys2Proof.Machine.execPtnStandDown h s
  | .ptnRelease h => Sys2Proof.Machine.execPtnRelease h s
  | .ptnAdmit h => Sys2Proof.Machine.execPtnAdmit h s
  | .regRead p seq off => Sys2Proof.Machine.execRegRead p seq off s
  | .regWrite p seq off wide v => Sys2Proof.Machine.execRegWrite p seq off wide v s
  | .telemetry p seq item index clear => Sys2Proof.Machine.execTelemetry p seq item index clear s
  | .logRead p seq device first => Sys2Proof.Machine.execLogRead p seq device first s
  | .mgmtSetLimits p seq pairs => Sys2Proof.Machine.execMgmtSetLimits p seq pairs s
  | .slotWrite p seq slotB last off bytes => Sys2Proof.Machine.execSlotWrite p seq slotB last off bytes s
  | .slotOwnershipTimeout slot => Sys2Proof.Machine.execSlotOwnershipTimeout slot s
  | .configSet p seq port split => Sys2Proof.Machine.execConfigSet p seq port split s
  | .ownerProvision p seq slot hash fuseOk => Sys2Proof.Machine.execOwnerProvision p seq slot hash fuseOk s
  | .ownerRevoke p seq slot fuseOk => Sys2Proof.Machine.execOwnerRevoke p seq slot fuseOk s
  | .policySet p seq fusedOff bbkOff fuseOk => Sys2Proof.Machine.execPolicySet p seq fusedOff bbkOff fuseOk s
  | .keyWrite p seq cipher => Sys2Proof.Machine.execKeyWrite p seq cipher s
  | .keyErase p seq => Sys2Proof.Machine.execKeyErase p seq s
  | .rollbackAdvance p seq cls value fuseOk => Sys2Proof.Machine.execRollbackAdvance p seq cls value fuseOk s
  | .fwStage p seq steward last off bytes => Sys2Proof.Machine.execFwStage p seq steward last off bytes s
  | .fwActivate p seq steward => Sys2Proof.Machine.execFwActivate p seq steward s
  | .fwCommit steward => Sys2Proof.Machine.execFwCommit steward s
  | .fwReverted steward => Sys2Proof.Machine.execFwReverted steward s
  | .attest p seq nonce mask => Sys2Proof.Machine.execAttest p seq nonce mask s
  | .keeperRestart => Sys2Proof.Machine.execKeeperRestart s
  | .tamper vbatLoss asserted => Sys2Proof.Machine.execTamper vbatLoss asserted s
  | .getVersion port req => Sys2Proof.Machine.execGetVersion port req s
  | .getCapabilities port req => Sys2Proof.Machine.execGetCapabilities port req s
  | .negotiateAlgorithms port req => Sys2Proof.Machine.execNegotiateAlgorithms port req s
  | .getDigests port req => Sys2Proof.Machine.execGetDigests port req s
  | .getCertificate port slot off len => Sys2Proof.Machine.execGetCertificate port slot off len s
  | .challenge port slot nonce => Sys2Proof.Machine.execChallenge port slot nonce s
  | .getMeasurements port index nonce => Sys2Proof.Machine.execGetMeasurements port index nonce s
  | .keyExchange port slot req => Sys2Proof.Machine.execKeyExchange port slot req s
  | .finish port req => Sys2Proof.Machine.execFinish port req s
  | .endSession port => Sys2Proof.Machine.execEndSession port s
  | .entdaa addr => Sys2Proof.Machine.execEntdaa addr s
  | .rstdaa => Sys2Proof.Machine.execRstdaa s
  | .enec events => Sys2Proof.Machine.execEnec events s
  | .disec events => Sys2Proof.Machine.execDisec events s
  | .getpid => Sys2Proof.Machine.execGetpid s
  | .getbcr => Sys2Proof.Machine.execGetbcr s
  | .getdcr => Sys2Proof.Machine.execGetdcr s
  | .getstatus => Sys2Proof.Machine.execGetstatus s
  | .getmwl => Sys2Proof.Machine.execGetmwl s
  | .getmrl => Sys2Proof.Machine.execGetmrl s
  | .setmwl n => Sys2Proof.Machine.execSetmwl n s
  | .setmrl n => Sys2Proof.Machine.execSetmrl n s
  | .idcode => Sys2Proof.Machine.execIdcode s
  | .samplePreload pads shift => Sys2Proof.Machine.execSamplePreload pads shift s
  | .extest pads shift => Sys2Proof.Machine.execExtest pads shift s
  | .clamp => Sys2Proof.Machine.execClamp s
  | .highz => Sys2Proof.Machine.execHighz s
  | .ijtag x => Sys2Proof.Machine.execIjtag x s
  | .bypass => Sys2Proof.Machine.execBypass s
  | .testLogicReset => Sys2Proof.Machine.execTestLogicReset s
  | .phyTrained die ok => Sys2Proof.Machine.execPhyTrained die ok s
  | .uncorrectableCodeword die lanes => Sys2Proof.Machine.execUncorrectableCodeword die lanes s
  | .lackCred die lack cred => Sys2Proof.Machine.execLackCred die lack cred s
  | .voltageSettled domain => Sys2Proof.Machine.execVoltageSettled domain s
  | .vioSupplyReturned bank => Sys2Proof.Machine.execVioSupplyReturned bank s
  | .retrainingPieceEnds stack pc done marginOk => Sys2Proof.Machine.execRetrainingPieceEnds stack pc done marginOk s

end Sys2Proof.Machine
end

