-- ==== Sys2Proof/Machine/Logic.lean ====
section
/-! DEFINITION. The user's logic: cells, carry chains, block RAMs and pads (R318–R323, R335–R337). What the design does in a
CK_MGT cycle is the free list `Config.fabric`; what a cell, a chain, a block RAM or a pad makes of it is the spec's. -/

namespace Sys2Proof.Machine

/-- Whether the write enables of a region's flip-flops and block RAMs are on, and its resets off (R360, R372). -/
def State.logicRuns (s : State) (r : Nat) : Bool :=
  !(s.region r).held && (s.loader.phase == 4 || (s.loader.phase == 3 && 2 ≤ s.loader.relStage))

/-! ## Cells (R318, R319) -/

/-- Logic cells, eight to a cluster (R317, R319). -/
abbrev cellCount : Nat := 1179648

/-- Whether a cluster may clock its flip-flops from net `k`: one of the four its frames choose (R319). -/
def State.clusterHas (s : State) (c k : Nat) : Bool :=
  let w := Config.clusterNets (s.regionFrames (cellRegion (8 * c))) c
  (List.range 4).any (fun j => fld w (5 * j) 5 == k)

/-- The two outputs of a cell's table: the whole table at all six inputs, and its lower half at the five shared ones, which is
the second output of a split table (R318). -/
def State.tableOuts (s : State) (cell : Nat) (i : BitVec 6) : Bool × Bool :=
  let t := Config.cellTable (s.regionFrames (cellRegion cell)) cell
  (bitOf t i.toNat, bitOf t (i.toNat % 32))

/-- The initial value of a flip-flop (R318). -/
def State.flopInit (s : State) (cell ff : Nat) : Bool := Config.flopInit (s.regionFrames (cellRegion cell)) cell ff

/-- Flip-flop `ff` of a cell (R318). -/
def State.flop (s : State) (cell ff : Nat) : Bool := s.flops.get false (2 * cell + ff) ^^ s.flopInit cell ff

def State.setFlop (s : State) (cell ff : Nat) (v : Bool) : State :=
  { s with flops := s.flops.set false (2 * cell + ff) (v ^^ s.flopInit cell ff) }

/-- The cell after `c` in a carry chain: the next of its cluster, then cell 0 of the cluster above (R319). -/
def nextCell (c : Nat) : Option Nat :=
  if c % 8 < 7 then some (c + 1) else (Config.clusterAbove (c / 8)).map (fun u => 8 * u)

/-- The carry into cell `c`. -/
def State.setCarry (s : State) (c : Nat) (v : Bool) : State :=
  { s with logic := { s.logic with carries := s.logic.carries.set false c v } }

/-- The carries of a chain of `n` cells from `c` on, of bit `k` of both operands on; it ends where its column ends, and where a cell is
of a region that does not run. -/
def State.runChain (s : State) (n c k : Nat) (a b : BitVec 512) (cin : Bool) : State :=
  match n with
  | 0 => s
  | m + 1 =>
    let x := bitOf a k
    let y := bitOf b k
    let s := s.setCarry c cin
    match nextCell c with
    | some d => if s.logicRuns (cellRegion d) then s.runChain m d (k + 1) a b ((x && y) || (x && cin) || (y && cin)) else s
    | none => s

/-- A carry chain: it spans at most 64 clusters, and so 512 bits from a cell 0 on (R319). -/
def State.carryChain (s : State) (first n : Nat) (a b : BitVec 512) (cin : Bool) : State :=
  if first < cellCount && first % 8 + n ≤ 512 && s.logicRuns (cellRegion first) then s.runChain n first 0 a b cin else s

/-- An edge of a net at a flip-flop: the net runs and is one of the cluster's four, and the region runs. The synchronous reset
gives the initial value, whatever the clock enable says (DESIGN CHOICE: R318 gives neither a priority over the other); without the
clock enable nothing else changes. -/
def State.flopEdge (s : State) (cell ff : Nat) (net : BitVec 5) (i : BitVec 6) (direct enable clear : Bool) : State :=
  if cell < cellCount && ff < 2 && s.netRuns net.toNat && s.clusterHas (cell / 8) net.toNat && s.logicRuns (cellRegion cell) then
    if clear then s.setFlop cell ff (s.flopInit cell ff)
    else if !enable then s
    else
      let (o, o₂) := s.tableOuts cell i
      s.setFlop cell ff (match (Config.flopSource (s.regionFrames (cellRegion cell)) cell ff).toNat with
        | 0 => o
        | 1 => o₂
        | 2 => direct
        | _ => o ^^ s.logic.carries.get false cell)
  else s

/-! ## Block RAMs (R321–R323) -/

/-- How the frames set a block RAM: the width of a port's words, 1 to 36 in true dual-port use and 72 in simple; each port's net
and read-during-write behaviour; SEC-DED. -/
structure BramSetup where
  width  : Nat
  netA   : Nat
  netB   : Nat
  modeA  : Nat
  modeB  : Nat
  secded : Bool
deriving DecidableEq, Repr

/-- The widths of the aspect ratios (R321). -/
def aspectWidth (a : Nat) : Nat := nth [1, 2, 4, 9, 18, 36, 72] a 72

def State.bramSetup (s : State) (b : Nat) : BramSetup :=
  let fs := s.regionFrames (bramRegion b)
  let w := Config.bramPorts fs b
  let width := aspectWidth (Config.bramAspect fs b).toNat
  { width, netA := fld w 0 5, netB := fld w 5 5, modeA := fld w 10 2, modeB := fld w 12 2, secded := width == 72 && bitOf w 14 }

/-- Word `k` of the 512 words of a block, 72 bits each. -/
def State.bramWord (s : State) (b k : Nat) : BitVec 72 :=
  s.bram.get 0 (512 * b + k) ^^^ Config.bramInit (s.regionFrames (bramRegion b)) (512 * b + k)

def State.setBramWord (s : State) (b k : Nat) (v : BitVec 72) : State :=
  { s with bram := s.bram.set 0 (512 * b + k) (v ^^^ Config.bramInit (s.regionFrames (bramRegion b)) (512 * b + k)) }

/-- The bits of a word that have flipped since it was written (R323). -/
def State.bramFlips (s : State) (b k : Nat) : BitVec 72 := s.logic.flips.get 0 (512 * b + k)

def State.setFlips (s : State) (b k : Nat) (v : BitVec 72) : State :=
  { s with logic := { s.logic with flips := s.logic.flips.set 0 (512 * b + k) v } }

/-- Where word `addr` of width `w` lies: the 72-bit word and the bit in it. The narrow aspects use 64 bits of each (R321). -/
def bramPlace (w addr : Nat) : Nat × Nat :=
  let line := if w < 9 then 64 else 72
  ((addr * w / line) % 512, addr * w % line)

/-- The word a port of width `w` reads. -/
def State.bramRead (s : State) (b w addr : Nat) : BitVec 72 :=
  let (k, i) := bramPlace w addr
  BitVec.ofNat 72 (fld (s.bramWord b k) i w)

/-- A port of width `w` writes. -/
def State.bramWrite (s : State) (b w addr : Nat) (v : BitVec 72) : State :=
  let (k, i) := bramPlace w addr
  let m : BitVec 72 := BitVec.ofNat 72 (2 ^ w - 1) <<< i
  (s.setBramWord b k ((s.bramWord b k &&& ~~~m) ||| ((v <<< i) &&& m))).setFlips b k (s.bramFlips b k &&& ~~~m)

/-- Cells of a block RAM lose their contents. -/
def State.bramUpset (s : State) (b k : Nat) (flips : BitVec 72) : State :=
  (s.setBramWord b k (s.bramWord b k ^^^ flips)).setFlips b k (s.bramFlips b k ^^^ flips)

/-- A word with its check bits above its 64 data bits (R323). -/
def secWord (d : BitVec 64) : BitVec 72 := BitVec.ofNat 72 (d.toNat + 2 ^ 64 * (Config.bramCheck d).toNat)

/-- A SEC-DED read of a word with bits flipped since it was written: one is corrected, with CORRECTED; two are returned as read, with
UNCORRECTABLE (R323); what the code makes of more the spec does not say. -/
def secRead (v flips : BitVec 72) : BitVec 72 × Bool × Bool :=
  match onesOf flips.toNat 72 with
  | [] => (v, false, false)
  | [i] => (v ^^^ (1 <<< i), true, false)
  | [_, _] => (v, false, true)
  | _ => match fld (Config.bramBeyond flips) 0 2 with
    | 0 => (v, false, false)
    | 1 => (v ^^^ (1 <<< (fld (Config.bramBeyond flips) 2 7 % 72)), true, false)
    | _ => (v, false, true)

/-- The output of a port: what it reads is the old contents; on its own write its read-during-write behaviour decides (R321). -/
def portOut (mode : Nat) (was old : BitVec 72) (q : Config.BramAsk) : BitVec 72 :=
  if !q.write then old else if mode = 0 then q.data else if mode = 1 then old else was

/-- An edge at a block RAM in true dual-port use: both read before either writes, and port A's data stand where both write one
word (R322). -/
def State.bramDual (s : State) (b : Nat) (v : BramSetup) (qa qb : Option Config.BramAsk) : State :=
  let o := s.logic.outs.get {} b
  let out (mode : Nat) (was : BitVec 72) (q : Option Config.BramAsk) : BitVec 72 :=
    match q with
    | none => was
    | some q => portOut mode was (s.bramRead b v.width q.addr) q
  let write (q : Option Config.BramAsk) (s : State) : State :=
    match q with
    | some q => if q.write then s.bramWrite b v.width q.addr q.data else s
    | none => s
  let o := { o with a := out v.modeA o.a qa, b := out v.modeB o.b qb }
  let s := write qa (write qb s)
  { s with logic := { s.logic with outs := s.logic.outs.set {} b o } }

/-- An edge at a block RAM in 512 × 72 use: port B reads the old contents, port A writes; with SEC-DED a read is corrected and
reported, and the corrected word is not written back (R321–R323). -/
def State.bramSimple (s : State) (b : Nat) (v : BramSetup) (qa qb : Option Config.BramAsk) : State :=
  let o := s.logic.outs.get {} b
  let o := match qb with
    | some q =>
      if q.write then o
      else
        let w := s.bramRead b 72 q.addr
        let (w, fixed, bad) := if v.secded then secRead w (s.bramFlips b (q.addr % 512)) else (w, false, false)
        { o with b := w, corrected := fixed, uncorrectable := bad }
    | none => o
  let s := match qa with
    | some q =>
      if q.write then s.bramWrite b 72 q.addr (if v.secded then secWord (BitVec.ofNat 64 q.data.toNat) else q.data) else s
    | none => s
  { s with logic := { s.logic with outs := s.logic.outs.set {} b o } }

/-- An edge at a block RAM: each port acts whose net runs. -/
def State.bramEdge (s : State) (b : Nat) (qa qb : Option Config.BramAsk) : State :=
  let v := s.bramSetup b
  let qa := if s.netRuns v.netA then qa else none
  let qb := if s.netRuns v.netB then qb else none
  if b < 8192 && s.logicRuns (bramRegion b) then
    if v.width = 72 then s.bramSimple b v qa qb else s.bramDual b v qa qb
  else s

/-! ## User I/O (R335–R339) -/

/-- A bank's divisor m, 3 to 512 (R337). -/
def State.bankDiv (s : State) (bank : Nat) : Nat := max 3 (min 512 (Config.bankDivisor (s.regionFrames 0) bank))

/-- The rate of a bank's serialising pairs in kb/s: both edges of CK_ROOT ÷ m, 9.6 ÷ m Gb/s (R337). -/
def State.bankRate (s : State) (bank : Nat) : Nat := 9600000 / s.bankDiv bank

/-- Whether some global net carries a bank's word clock, CK_ROOT ÷ 8m (R337). -/
def State.wordClock (s : State) (bank : Nat) : Bool :=
  (List.range 32).any (fun k => s.netRuns k && fld (s.fclk k) 0 13 == 8 * s.bankDiv bank)

/-- Whether a bank's pads are on: the drivers are released, its supply is right, and the static region, to which every pad
belongs, runs (R339, R372, R532). -/
def State.padsOn (s : State) (bank : Nat) : Bool :=
  bank < 12 && s.pins.outputs && !s.pins.vioBad.contains bank && s.logicRuns 0

/-- A pair's standard, 0 LVDS, 1 SLVS-400, 2 and 3 LVCMOS of 1.2 and 1.8 V, its direction, 1 input, 2 output, 3 both, and whether its
input is terminated, as the static region's frames set them (R336). -/
def State.pairStandard (s : State) (bank pair : Nat) : Nat := fld (Config.pairSetup (s.regionFrames 0) bank pair) 0 2
def State.pairDirection (s : State) (bank pair : Nat) : Nat := fld (Config.pairSetup (s.regionFrames 0) bank pair) 2 2
def State.pairTerm (s : State) (bank pair : Nat) : Bool :=
  s.pairStandard bank pair < 2 && bitOf (Config.pairSetup (s.regionFrames 0) bank pair) 4

/-- The level of a bank's supply, as the static image declares it and the keeper requires it: 0 to 2 for 1.0, 1.2 and 1.8 V (R335,
R532). -/
def State.bankLevel (s : State) (bank : Nat) : Nat := (Config.bankLevel (s.regionFrames 0) bank).toNat

/-- Whether a standard allows a direction, 1 input, 2 output, 3 both, under a supply (R336). -/
def standardOk (standard level dir : Nat) : Bool :=
  match standard with
  | 0 => (dir = 1 && level ≤ 2) || (dir = 2 && level = 2)
  | 1 => (dir = 1 || dir = 2) && level ≤ 1
  | 2 => 1 ≤ dir && level = 1
  | _ => 1 ≤ dir && level = 2

/-- Whether a pair's pins may be driven, or received. -/
def State.pairDrives (s : State) (bank pair : Nat) : Bool :=
  2 ≤ s.pairDirection bank pair && standardOk (s.pairStandard bank pair) (s.bankLevel bank) (s.pairDirection bank pair)
def State.pairReceives (s : State) (bank pair : Nat) : Bool :=
  s.pairDirection bank pair % 2 = 1 && standardOk (s.pairStandard bank pair) (s.bankLevel bank) (s.pairDirection bank pair)

/-- Whether a pair may run at the bank's rate: LVCMOS at 400 Mb/s at most, the others at 3.2 Gb/s (R336, R337). -/
def State.rateOk (s : State) (bank pair : Nat) : Bool :=
  s.bankRate bank ≤ if s.pairStandard bank pair < 2 then 3200000 else 400000

/-- What the static region sees on a border signal: the declared rest value while the region is isolated, otherwise what the region
drives (R363, R364). -/
def State.borderSeen (s : State) (r k : Nat) : Bool :=
  if (s.region r).isolated then s.loader.isolation.get false (4096 * r + k) else s.logic.borders.get false (4096 * r + k)

/-- Whether a flip-flop is one of the static region and its region runs. -/
def State.staticFlop (s : State) (cell ff : Nat) : Bool := cell < 98304 && ff < 2 && s.logicRuns 0

/-- What the user's logic does at one edge. -/
def State.fabAct (s : State) (x : Config.FabAct) : State :=
  match x with
  | .flop cell ff net i direct enable clear => s.flopEdge cell ff net i direct enable clear
  | .chain first n a b cin => s.carryChain first n a b cin
  | .bram b qa qb => s.bramEdge b qa qb
  | .upset b k flips => if b < 8192 && k < 512 then s.bramUpset b k flips else s
  | .serialise bank pair w =>
    if s.padsOn bank && pair < 16 && s.wordClock bank && s.pairDrives bank pair && s.rateOk bank pair then
      { s with logic := { s.logic with given := s.logic.given.set 0 (16 * bank + pair) w } }
    else s
  | .deserialise bank pair w =>
    if s.padsOn bank && pair < 16 && s.wordClock bank && s.pairReceives bank pair && s.rateOk bank pair then
      { s with logic := { s.logic with taken := s.logic.taken.set 0 (16 * bank + pair) w } }
    else s
  | .bypassIn bank pin cell ff level =>
    if s.padsOn bank && pin < 32 && s.pairReceives bank (pin / 2) && s.staticFlop cell ff then s.setFlop cell ff level else s
  | .bypassOut bank pin cell ff =>
    if s.padsOn bank && pin < 32 && s.pairDrives bank (pin / 2) && s.staticFlop cell ff then
      { s with logic := { s.logic with driven := s.logic.driven.set false (32 * bank + pin) (s.flop cell ff) } }
    else s
  | .border r k level =>
    if 1 ≤ r && r ≤ 44 && k < 4096 && s.logicRuns r then
      { s with logic := { s.logic with borders := s.logic.borders.set false (4096 * r + k) level } }
    else s
  | .borderIn r k cell ff =>
    if 1 ≤ r && r ≤ 44 && k < 4096 && s.staticFlop cell ff then s.setFlop cell ff (s.borderSeen r k) else s
  | .absentIn r cell ff =>
    if 1 ≤ r && r ≤ 44 && s.staticFlop cell ff then s.setFlop cell ff (s.region r).isolated else s

/-- What the user's logic does in one CK_MGT cycle. -/
def State.runFabric (s : State) : State := (Config.fabric s.ltc.toNat).foldl State.fabAct s

end Sys2Proof.Machine
end

