-- ==== Sys2Proof/Machine/Step.lean ====
section
/-! DEFINITION. One step of the block: the command at the front of the queue, or one CK_MGT cycle where none waits. -/

namespace Sys2Proof.Machine

/-- One CK_MGT cycle in which nothing is commanded (notes/assumptions/3.md): the local time counter counts, unless the clocks
have stopped or power-on reset lasts (R315, R388, R398); the cells' errors and the user's logic take their course (R132, R248, R318); what waits for the partner link leaves (R465), and every MAP_PAGES whose range has come to rest
completes (R182). -/
def tick (s : State) : State :=
  if s.rst.pllLost || s.rst.level == .power then s else { s with ltc := s.ltc + 1 }.deliverBeats.landFixes.upset.runFabric.partnerSend.settleMaps

/-- One step: the command at the front of the queue runs on the state with the queue's rest; with none waiting, a
CK_MGT cycle passes (notes/assumptions/3.md). -/
def step (s : State) : Host.Outcome State Fault Refusal :=
  match s.pending with
  | [] => .next (tick s)
  | c :: r => exec c { s with pending := r }

/-- The state with the command that a table word spells put at the front of the queue; no row of the table has bits, so
no word spells one. -/
def State.withFetchWord (s : State) (nbits w : Nat) : State :=
  match decodeTableWord nbits w with
  | none => s
  | some c => { s with pending := c :: s.pending }

end Sys2Proof.Machine
end

