-- ==== Sys2Proof/Safety.lean ====
section
/-! DEFINITION. The terms the statements use: one byte of each memory, the canonical form of the memories, what a host
command's completion is, and what a step may not undo. -/

namespace Sys2Proof.Machine

/-! ## One byte of a memory -/

/-- One byte of a stack of HBM. -/
def State.hbmByte (s : State) (stack off : Nat) : Byte := Map.get s.hbm 0 (hbmKey stack off)

/-- One byte of a tile store. -/
def State.tsByte (s : State) (tile a : Nat) : Byte := Map.get s.tstore 0 (tsKey tile a)

/-- One byte of host memory behind port or half `q`. -/
def State.hostByte (s : State) (q a : Nat) : Byte := Map.get s.hostMem 0 (hostKey q a)

/-- The canonical form of the three memories: addresses strictly rising, no byte listed that an unlisted address reads as. -/
def State.memWf (s : State) : Prop := Map.wf s.hbm 0 = true ∧ Map.wf s.tstore 0 = true ∧ Map.wf s.hostMem 0 = true

/-! ## Host commands (R426, R428, R429) -/

/-- Whether the device begins a command of the host now and its channel is not being disabled. -/
def State.accepts (s : State) (h : Issuer) : Prop := s.mayBegin h = true ∧ (s.chan h.chan).disabler = none

/-- What a command that completes adds to the completions of its channel: one entry, none for OK with QUIET (R428). -/
def answerOf (h : Issuer) (op st : Nat) (result : BitVec 128) (detail : W32) : List Compl :=
  if h.quiet && st == stOk then []
  else [{ tag := h.tag, opcode := op, status := st, result := result, detail := detail, irq := h.irq }]

/-- `t` is `s` after the completion of a command of channel `h.chan`: its entry is the last of that channel's completions,
and every other channel stands as it did. -/
def Answers (s t : State) (h : Issuer) (op st : Nat) (result : BitVec 128) (detail : W32) : Prop :=
  (t.chan h.chan).compls = (s.chan h.chan).compls ++ answerOf h op st result detail
    ∧ ∀ c, c ≠ h.chan → t.chan c = s.chan c

/-! ## Steps of a unit (R45, R46) -/

/-- The fired steps with one of them having acted. -/
def actedIn (l : List Fired) (f : Fired) : List Fired := modFirst (· == f) (fun g => { g with acted := true }) l

/-- `t` differs from `s` in banks only by the step `f` of unit and bank `ub` having acted. -/
def Acted (s t : State) (ub : Nat) (f : Fired) : Prop :=
  t.bk ub = { s.bk ub with fired := actedIn (s.bk ub).fired f } ∧ ∀ vb, vb ≠ ub → t.bk vb = s.bk vb

/-! ## Vector steps over registers (R137–R142) -/

/-- A fired vector step of one vector whose operands are vector registers: A is `na`, B is `nb`, the destination is `n`. -/
def RegisterStep (s : State) (ub op : Nat) (f : Fired) (na nb n : Nat) : Prop :=
  s.firedStep ub (unacted op) = some f ∧ (vstepOf f.q.word).count = 1
    ∧ (∃ i, vop (vstepOf f.q.word).srca = .reg na i) ∧ (∃ i, vop (vstepOf f.q.word).srcb = .reg nb i)
    ∧ (∃ i, vop (vstepOf f.q.word).dst = .reg n i)

/-- The lane mask a vector step names. -/
def State.stepMask (s : State) (ub : Nat) (f : Fired) : BitVec 128 := (s.tile (unitOf ub)).lmask (vstepOf f.q.word).lmask

/-- `t` is `s` after a register step that writes `g i` in every lane `i` its mask sets of register `n`: the other lanes, the
other registers, every other part of the tile, the other tiles and the rest of the state stand; the step has acted. -/
def RegisterWritten (s t : State) (ub : Nat) (f : Fired) (n : Nat) (mask : BitVec 128) (g : Nat → W32) : Prop :=
  t = { s with banks := t.banks, tiles := t.tiles, free := t.free }
    ∧ (∀ i, i < 128 → (t.tile (unitOf ub)).lane n i
        = if laneOn mask i = true then g i else (s.tile (unitOf ub)).lane n i)
    ∧ (∀ k i, k ≠ n → i < 128 → (t.tile (unitOf ub)).lane k i = (s.tile (unitOf ub)).lane k i)
    ∧ (t.tile (unitOf ub) = { s.tile (unitOf ub) with
        vregs := (t.tile (unitOf ub)).vregs, vpoison := (t.tile (unitOf ub)).vpoison, gens := (t.tile (unitOf ub)).gens })
    ∧ (∀ k, k ≠ unitOf ub → t.tile k = s.tile k)
    ∧ Acted s t ub f

/-- The vector commands with their opcodes (R141). -/
def vectorCommands : List (Nat × (Nat → VuCheck → Instr)) :=
  [(0x20, .vmov), (0x21, .vadd), (0x22, .vsub), (0x23, .vmul), (0x24, .vfma), (0x25, .vmax), (0x26, .vmin), (0x27, .vcmp),
   (0x28, .vsel), (0x29, .vexp2), (0x2A, .vlog2), (0x2B, .vrcp), (0x2C, .vrsq), (0x2D, .vred), (0x2E, .vsmx), (0x2F, .vcmb),
   (0x30, .vperm), (0x31, .vrand), (0x32, .vseed), (0x33, .vscl)]

/-! ## Jobs of memory-side engines (R209, R212) -/

/-- Job `j` of memory-side engine `m` runs on a populated stack whose clocks run, has not read its operands yet, and its work is operation `op`. -/
def State.jobStands (s : State) (m j op : Nat) : Prop :=
  (s.job m j).state = 1 ∧ (s.job m j).read = false ∧ workOp (s.job m j).desc = op ∧ s.stackRuns m = true

/-- The work descriptor `l` of an MLOAD step `f` fills its slot, after the fetch that left `u`, and the step completes. -/
def WorkLoaded (s u t : State) (ub : Nat) (f : Fired) (l : List Byte) : Prop :=
  let m := unitOf ub - 768
  t = { u with mses := t.mses, banks := t.banks, ens := t.ens,
               net := u.net ++ u.emission ub (emitOf f.q.word) f.q.ref }
    ∧ (∀ k, (t.mse m).work.get [] k = if k = opnd f.q.word 0 6 then l else (s.mse m).work.get [] k)
    ∧ (t.mse m).jobs = (s.mse m).jobs ∧ (∀ n, n ≠ m → t.mse n = s.mse n)
    ∧ (t.bk ub).fired = dropFirst (s.bk ub).fired f

/-! ## Requests served in place (R234, R277) -/

/-- What a read of memory may change: caches, counters, a row and its errors, and, where it freezes the pseudo-channel, what the
freeze sends, records and retires. No memory, no unit and no ensemble. -/
def Served (s t : State) : Prop :=
  t = { s with free := t.free, fresh := t.fresh, tlbs := t.tlbs, walkers := t.walkers, hstack := t.hstack, pcs := t.pcs, counts := t.counts, hfixed := t.hfixed, net := t.net, health := t.health, tserv := t.tserv, sserv := t.sserv, tspares := t.tspares, sspares := t.sspares, keeper := t.keeper, pins := t.pins, chans := t.chans, hostLost := t.hostLost, rst := t.rst }

/-- What a write of memory may change beside that: HBM with its poison and errors, host memory, what leaves for the partner. -/
def Stored (s t : State) : Prop :=
  t = { s with free := t.free, fresh := t.fresh, tlbs := t.tlbs, walkers := t.walkers, hstack := t.hstack, pcs := t.pcs, counts := t.counts, hfixed := t.hfixed, net := t.net, health := t.health, tserv := t.tserv, sserv := t.sserv, tspares := t.tspares, sspares := t.sspares, keeper := t.keeper, pins := t.pins, chans := t.chans, hostLost := t.hostLost, rst := t.rst, hbm := t.hbm, hpoison := t.hpoison, herr := t.herr, hostMem := t.hostMem, partner := t.partner }

/-- `t` is `s` after a job has read its operands, which left `u`, and computed: its results stand as numbered pieces still to be
written, and nothing else changes but what its reads may change, the clusters' generators and counters, and the draws of free values. No
byte of memory changes. -/
def JobComputed (s t : State) (m j : Nat) (ps : List Piece) : Prop :=
  (∃ u, Served s u ∧ t = { u with mses := t.mses, clusters := t.clusters, free := t.free })
    ∧ t.job m j = { s.job m j with read := true, pieces := ps.zipIdx.map (fun p => { p.1 with num := p.2 }) }
    ∧ (∀ k, k ≠ j → t.job m k = s.job m k) ∧ (t.mse m).work = (s.mse m).work ∧ ∀ n, n ≠ m → t.mse n = s.mse n

/-- What reading the ranges `rs` brings a job: the state after the reads, and the bytes of each range, none poisoned. -/
def JobReads (s u : State) (m j : Nat) (rs : List (Nat × Nat)) (ls : List (List Byte)) : Prop :=
  ∃ l, s.jobReads m j rs = (u, .bytes l [], ls)

/-- Indices of 32 bits, little-endian, that a range holds. -/
def indices (l : List Byte) : List Nat := (chunks 4 l.length l).map ofLe

/-! ## DSP blocks (R328–R334) -/

/-- A DSP block as its cycle begins, with the coefficient the fabric writes. -/
def State.dspNow (s : State) (b : Nat) (i : DspIn) : Dsp := ((s.dsp b).cycle).load i

/-- A DSP block that runs its instruction, of opcode `op` with operands `ops`, now: it is clocked and has neither stopped nor met an
error, RUN is high or a REPEAT is under way, and the instruction may follow a REPEAT or need not. -/
def State.dspRuns (s : State) (b op : Nat) (ops : BitVec 20) (i : DspIn) : Prop :=
  let d := s.dspNow b i
  let w := s.dspWord b
  s.dspClocked b = true ∧ d.err = false ∧ d.done = false ∧ dspOk w = true ∧ dspOp w = op ∧ dspOps w = ops
    ∧ (d.samples w = true → i.run = true) ∧ (d.left ≠ none → mayRepeat w = true)

/-- A sum held within 56 bits (R334). -/
def held56 (x : Int) : Int := max (-(2 ^ 55)) (min (2 ^ 55 - 1) x)

/-- PC and the repetitions owed after an instruction: the same instruction while a REPEAT owes more, else the next one. -/
def nextDsp (d : Dsp) : BitVec 6 × Option Nat :=
  match d.left with
  | some (n + 2) => (d.pc, some (n + 1))
  | _ => (d.pc + 1, none)

/-! ## Frames of the links (R446, R452, R455) -/

/-- Link die `die` is UP, its clock runs, and `f`, a frame of a type and channel for this device, is the next that it expects. -/
def State.receives (s : State) (die : Nat) (f : Frame) (type vc : Nat) : Prop :=
  die < 16 ∧ s.rst.pllLost = false ∧ (s.link die).st = .up ∧ f.lseq = (s.link die).rxSeq ∧ f.type.toNat = type ∧ f.vc.toNat = vc ∧ s.isHere f.dst = true

/-- The state as the die has accepted a frame: its LACK, its credits and its LSEQ count. -/
def State.accepted (s : State) (die : Nat) (f : Frame) : State := s.setLink die ((s.link die).accept f)

/-- Link die `l` of `t` has a frame to send or has sent it and keeps it until it is acknowledged; the fields that the die
fills in as it sends may be any. -/
def SentOn (t : State) (l : Nat) (f : Frame) : Prop :=
  ∃ g ∈ (t.link l).buffer ++ (t.link l).waiting, { g with lseq := f.lseq, lack := f.lack, cred := f.cred } = f

/-- A frame leaves by the link that its route gives in `s`, where it has one. -/
def Sends (s t : State) (f : Frame) : Prop := ∀ l, s.linkFor f = some l → SentOn t l f

/-! ## Resets (R379) -/

/-- What a power-on or a system reset clears: the control plane, streams, sync objects and engines hold their values after
reset, nothing is on the floor, and no port, channel or link is up. -/
structure ResetClears (t : State) : Prop where
  ens    : t.ens = []
  banks  : t.banks = []
  ses    : t.ses = []
  sync   : t.sync = []
  mses   : t.mses = []
  net    : t.net = []
  tlbs   : t.tlbs = []
  ports  : t.ports = []
  chans  : t.chans = []
  fns    : t.fns = []
  regions : t.regions = []
  zegus  : t.zegus = { links := t.zegus.links }
  links  : ∀ n, t.link n = { spares := (t.link n).spares }
  partner : t.partner = State.reset.partner

/-- What a power-on or a system reset keeps: the fuses and the key memory, the slots of the non-volatile cells, the log, and
which spare serves each position. -/
structure ResetKeeps (s t : State) : Prop where
  fuses   : t.sec.fuses = s.sec.fuses
  bbk     : t.sec.bbk = s.sec.bbk
  present : t.sec.present = s.sec.present
  fw      : t.sec.fw = s.sec.fw
  slots   : t.loader.slots = s.loader.slots
  general : t.keeper.general = s.keeper.general
  nextGen : t.keeper.nextGen = s.keeper.nextGen
  device  : t.keeper.device = s.keeper.device
  tspares : t.tspares = s.tspares
  sspares : t.sspares = s.sspares
  hostMem : t.hostMem = s.hostMem

/-! ## Management ports (R503, R505, R506) -/

/-- A management port that takes a request now. -/
def State.mgmtFree (s : State) (p : MPort) : Prop :=
  s.mgmtUp p = true ∧ (s.mport p).busy = false ∧ s.keeper.stopped = false

/-- A port whose write is executed now: the other port's request is not still executing. -/
def State.mgmtQuiet (s : State) (p : MPort) : Prop := s.mgmtFree p ∧ (s.mport (otherPort p)).busy = false

/-- The response that stands ready on a port. -/
def Responds (t : State) (p : MPort) (op st : Nat) (seq : Byte) (payload : List Byte) : Prop :=
  (t.mport p).resp = some (responseFrame op seq.toNat st payload) ∧ (t.mport p).busy = false

/-! ## What no command undoes -/

/-- Fuses are one-way (R481): a hash programmed, a slot revoked, a policy fuse, a rollback fuse and a debug fuse stay; the
identity and the fused key never change. -/
structure FuseLe (a b : Fuses) : Prop where
  idPriv    : b.idPriv = a.idPriv
  idPub     : b.idPub = a.idPub
  fusedKek  : b.fusedKek = a.fusedKek
  owners    : ∀ k, Map.get a.owners 0 k ≠ 0 → Map.get b.owners 0 k = Map.get a.owners 0 k
  revoked   : a.revoked &&& b.revoked = a.revoked
  fusedOff  : a.fusedOff = true → b.fusedOff = true
  bbkOff    : a.bbkOff = true → b.bbkOff = true
  arb       : ∀ k, (Map.get a.arb 0 k) &&& (Map.get b.arb 0 k) = Map.get a.arb 0 k
  debugLock : b.debugLock = a.debugLock

end Sys2Proof.Machine
end

