-- ==== Sys2Proof/WellFormed.lean ====
section
/-! DEFINITION. Which commands are well formed: every number a command carries names something that can exist on a Bluyr
(a unit, a stack, a link die, a port), and every byte string has the length its place gives it. A command that is not well
formed cannot arise outside the block; the machine gives it a next state all the same. -/

namespace Sys2Proof

/-- A channel, or the admin ring of one of four physical functions (R423, R424). -/
def Issuer.ok (h : Issuer) : Bool := h.chan < 4100

/-- A unit number of R28 with a shard bank (R463). -/
def ubOk (ub : Nat) : Bool := ub < 2048 && ub % 1024 < 780

/-- A tile with a shard bank. -/
def tileUbOk (ub : Nat) : Bool := ub < 2048 && ub % 1024 < 512

/-- A stream engine's unit number with a shard bank. -/
def seUbOk (ub : Nat) : Bool := ub < 2048 && 512 ≤ ub % 1024 && ub % 1024 < 768

/-- A memory-side engine's unit number with a shard bank. -/
def mseUbOk (ub : Nat) : Bool := ub < 2048 && 768 ≤ ub % 1024 && ub % 1024 < 780

/-- A stack and a pseudo-channel of it (R17, R232). -/
def pcOk (stack pc : Nat) : Bool := stack < 12 && pc < 64

/-- An agent that exists (R200). -/
def Agent.ok (a : Agent) : Bool :=
  match a with
  | .unit ub _ => ubOk ub
  | .caller e => e < 8
  | .stream se c => se < 256 && c < 8
  | .host h => h.ok
  | .link _ die => die < 16

/-- A request to a controller: a block of a stack, its data where it writes, and a byte range in the block (R233, R272). -/
def Req.ok (r : Req) : Bool :=
  r.stack < 12 && r.block < 2 ^ 36 && r.block % 256 == 0 && r.first ≤ r.last && r.last < 256
    && (r.kind == .read || r.kind == .scrub || r.data.length == 256)

/-- A frame: data of 64 bytes for each piece its LEN names (R446). -/
def Frame.ok (f : Frame) : Bool :=
  f.data.length == 64 * ((List.range 4).filter (fun i => f.len.getLsbD i)).length

/-- Registers and blocks by their classes (R391). -/
def BlockId.ok (b : BlockId) : Bool :=
  match b.cls with
  | 0 => b.index < 512
  | 1 => b.index < 256
  | 2 => b.index < 768
  | 3 => b.index < 45
  | 4 => b.index < 4
  | _ => true

/-- Units that take walk-throughs (R295). -/
def WalkUnit.ok (u : WalkUnit) : Bool :=
  match u with
  | .tile n => n < 512
  | .vectorUnit n => n < 512
  | .streamEngine n => n < 256
  | .cluster n => n < 96

/-- Instruments of the IEEE 1687 network (R520). -/
def Instrument.ok (i : Instrument) : Bool :=
  match i with
  | .sensor _ => true
  | .stepTrace u => u < 780
  | .callerTrace => true
  | .tileStore t l => t < 512 && l < 65536
  | .accumulator t a b r => t < 512 && a < 4 && b < 8 && r < 64
  | .hbm s o => s < 12 && o < 2 ^ 36
  | .linkResends _ => true
  | .occupancy _ => true
  | .rail _ => true
  | .pll _ => true
  | .eye s p => pcOk s p
  | .rearmTrace => true
  | .bistTileStore t => t < 512
  | .bistBlockRam _ => true
  | .keeperHalt _ => true

/-- Whether a command is well formed. -/
def Instr.wf (i : Instr) : Bool :=
  match i with
  | .loadChoreography h _ _ => h.ok
  | .start h _ => h.ok
  | .routeSectionRead _ => true
  | .cancel h _ _ _ => h.ok
  | .stop h _ => h.ok
  | .stopComplete _ => true
  | .barFetch _ => true
  | .fetchResume _ => true
  | .barDeal _ => true
  | .branch _ => true
  | .ensembleDone _ => true
  | .mark _ => true
  | .stepFire ub => ubOk ub
  | .stepComplete ub => ubOk ub
  | .nop ub => ubOk ub
  | .mode ub => ubOk ub
  | .modeAdopt ub => ubOk ub
  | .cancelStep ub => ubOk ub
  | .cancelBroadcast ub _ _ _ => ubOk ub
  | .sync (.step ub) => ubOk ub
  | .sync (.host h _) => h.ok
  | .route ub => ubOk ub
  | .token ub _ => ubOk ub
  | .credit ub _ _ => ubOk ub
  | .absent ub => ubOk ub
  | .mxp ub => tileUbOk ub
  | .tcfg ub => tileUbOk ub
  | .drain ub => tileUbOk ub
  | .verdict ub _ => tileUbOk ub
  | .locateReRun ub found => tileUbOk ub && found.all (fun p => p.1 < 4 && p.2.all (· < 66))
  | .blockReplay ub _ => tileUbOk ub
  | .walkThrough u _ _ => u.ok
  | .vmov ub _ => tileUbOk ub
  | .vadd ub _ => tileUbOk ub
  | .vsub ub _ => tileUbOk ub
  | .vmul ub _ => tileUbOk ub
  | .vfma ub _ => tileUbOk ub
  | .vmax ub _ => tileUbOk ub
  | .vmin ub _ => tileUbOk ub
  | .vcmp ub _ => tileUbOk ub
  | .vsel ub _ => tileUbOk ub
  | .vexp2 ub _ => tileUbOk ub
  | .vlog2 ub _ => tileUbOk ub
  | .vrcp ub _ => tileUbOk ub
  | .vrsq ub _ => tileUbOk ub
  | .vred ub _ => tileUbOk ub
  | .vsmx ub _ => tileUbOk ub
  | .vcmb ub _ => tileUbOk ub
  | .vperm ub _ => tileUbOk ub
  | .vrand ub _ => tileUbOk ub
  | .vseed ub _ => tileUbOk ub
  | .vscl ub _ => tileUbOk ub
  | .tsScrub tile line _ => tile < 512 && line < 65536
  | .dload ub => seUbOk ub
  | .dloadComplete ub _ => seUbOk ub
  | .dloadResume ub => seUbOk ub || mseUbOk ub
  | .stream ub => seUbOk ub
  | .rfree ub => seUbOk ub
  | .transactionIssue se _ => se < 256
  | .tableWalk r _ _ => r < 4096
  | .rdResp r => r.data.length == 256
  | .ack _ => true
  | .hostFlush se _ _ => se < 256
  | .resumeStream h _ _ => h.ok
  | .streamStalled se _ => se < 256
  | .retry _ _ _ => true
  | .arrive a _ _ => a.ok
  | .wait a _ => a.ok
  | .set a _ _ => a.ok
  | .reset a _ _ _ => a.ok
  | .read a _ => a.ok
  | .syncResp a _ => a.ok
  | .waitRetry a _ => a.ok
  | .syncConfig h _ _ _ _ => h.ok
  | .remoteMap h _ _ => h.ok
  | .arriveFrame die f => die < 16 && f.ok
  | .mload ub => mseUbOk ub
  | .mrun ub => mseUbOk ub
  | .gather stack _ => stack < 12
  | .scatterAdd stack _ => stack < 12
  | .reduce stack _ => stack < 12
  | .convert stack _ => stack < 12
  | .workCopy stack _ => stack < 12
  | .fill stack _ => stack < 12
  | .topk stack _ => stack < 12
  | .scrub stack _ _ => stack < 12
  | .gemv stack _ => stack < 12
  | .adec stack _ => stack < 12
  | .jobPiece stack _ _ _ => stack < 12
  | .jobComplete stack _ => stack < 12
  | .memRegionWrite _ => true
  | .astBaseWrite _ => true
  | .rdReq r => r.ok && r.kind == .read
  | .wrReq r => r.ok && r.kind == .write
  | .addReq r => r.ok && r.kind == .add
  | .requestIssue stack pc _ _ _ => pcOk stack pc
  | .agePromotion stack pc _ _ => pcOk stack pc
  | .rowClose stack pc bank => pcOk stack pc && bank < 64
  | .refresh stack pc bank _ => pcOk stack pc && bank < 64
  | .refreshWindowEnd stack pc bank => pcOk stack pc && bank < 64
  | .throttleCooldown stack pc _ => pcOk stack pc
  | .dramTempRead stack dies => stack < 12 && dies.length == 16
  | .hbmScrub stack line _ => stack < 12 && line < 2 ^ 30
  | .parityAlert stack pc off => pcOk stack pc && off < 2 ^ 36
  | .unfreeze h _ _ => h.ok
  | .retirePc h _ _ => h.ok
  | .evacuation stack lines => stack < 12 && lines.all (· < 2 ^ 30)
  | .initialTraining stack failed _ => stack < 12 && failed.all (· < 64)
  | .retrainingPiece stack pc => pcOk stack pc
  | .linkResend _ => true
  | .statWindow _ => true
  | .restart _ => true
  | .verdictPacket (.packet v) => v.se < 256 && v.ctx < 8
  | .verdictPacket (.frame die f) => die < 16 && f.ok
  | .verdictTimeout se ctx _ => se < 256 && ctx < 8
  | .tileMigration tile => tile < 512
  | .seMigration se => se < 256
  | .record _ cls sev _ _ => cls < 16 && sev < 6
  | .countPeriod cls _ _ => cls < 16
  | .eventDelivery chan => chan < 4100
  | .fabClkWrite _ _ => true
  | .gwRead gw _ => gw < 28
  | .gwWrite gw _ _ => gw < 28
  | .gwAdd gw _ _ => gw < 28
  | .tsRead gw _ => gw < 28
  | .tsWrite gw _ _ => gw < 28
  | .gwToken gw _ => gw < 28
  | .gwResponse gw _ => gw < 28
  | .dspNop b _ _ => b < 6144
  | .clr b _ _ => b < 6144
  | .mul b _ _ => b < 6144
  | .mac b _ _ => b < 6144
  | .msu b _ _ => b < 6144
  | .adda b _ _ => b < 6144
  | .mov b _ _ => b < 6144
  | .setp b _ _ => b < 6144
  | .repeatN b _ _ => b < 6144
  | .waitv b _ _ => b < 6144
  | .jmp b _ _ => b < 6144
  | .halt b _ _ => b < 6144
  | .dspRestart b => b < 6144
  | .loadPersonality h _ _ _ _ => h.ok
  | .partialLoad => true
  | .regionRelease region => region < 45
  | .tablesLoad => true
  | .tableCommit => true
  | .modelLoad => true
  | .staticLoad => true
  | .bootLoad => true
  | .globalRelease _ => true
  | .imageStart _ => true
  | .imageData _ => true
  | .cfgStatus => true
  | .cspStatus => true
  | .mgmtReq frame _ => frame.length ≤ 4108
  | .mgmtResp => true
  | .powerOnReset => true
  | .systemReset _ => true
  | .coreReset _ => true
  | .sysWdog => true
  | .optionLoad _ _ => true
  | .pllUnlock => true
  | .resetBlock h b => h.ok && b.ok
  | .blockReset _ _ b => b.ok
  | .blockIdle b => b.ok
  | .blockIdleTimeout b => b.ok
  | .perst port => port < 2
  | .pcieTraining port half => port < 2 && half < 2
  | .flr port fn => port < 4 && fn < 64
  | .controlInterval _ _ => true
  | .sensorRead _ _ => true
  | .iFast => true
  | .thermTrip _ _ => true
  | .railFault _ tier => tier.all (· < 32)
  | .poll fn _ => fn < 256
  | .doorbellReread chan => chan < 4100
  | .completionWrite chan => chan < 4100
  | .interrupt chan _ => chan < 4100
  | .completionTimeout _ _ _ => true
  | .hostNop h => h.ok
  | .copy h _ _ _ _ _ _ => h.ok
  | .mapPages h _ _ _ _ _ _ => h.ok
  | .setLimits h pairs => h.ok && pairs.length ≤ 7
  | .query h _ _ _ _ _ => h.ok
  | .correlateTime h _ => h.ok
  | .writeInstallationMap h _ => h.ok
  | .enable h _ => h.ok
  | .disable h _ => h.ok
  | .registerWrite fn _ _ _ => fn < 256
  | .put die f => die < 16 && f.ok
  | .ring die f => die < 16 && f.ok
  | .getReq die f => die < 16 && f.ok
  | .getResp die f => die < 16 && f.ok
  | .ackFrame die f => die < 16 && f.ok
  | .grant die f => die < 16 && f.ok
  | .fence die f => die < 16 && f.ok
  | .adopt die f => die < 16 && f.ok
  | .unadopt die f => die < 16 && f.ok
  | .forward die f => die < 16 && f.ok
  | .nack die _ => die < 16
  | .recovery die lanes => die < 16 && lanes.all (· < 18)
  | .ident die _ _ _ credits _ _ => die < 16 && credits.length == 4
  | .trainingTimeout die => die < 16
  | .zlStalled die _ => die < 16
  | .laneSparing die lane spare => die < 16 && lane < 18 && spare < 18
  | .heartbeat _ => true
  | .heartbeatSend => true
  | .silence _ _ => true
  | .quorumWait => true
  | .mirror _ => true
  | .memory _ => true
  | .control _ => true
  | .resilver r _ _ _ _ => r.entry < 64
  | .ptnMirror h _ _ _ _ _ => h.ok
  | .ptnTakeover h => h.ok
  | .ptnStandDown h => h.ok
  | .ptnRelease h => h.ok
  | .ptnAdmit h => h.ok
  | .regRead _ _ _ => true
  | .regWrite _ _ _ _ _ => true
  | .telemetry _ _ _ _ _ => true
  | .logRead _ _ _ _ => true
  | .mgmtSetLimits _ _ pairs => pairs.length ≤ 7
  | .slotWrite _ _ _ _ _ bytes => bytes.length ≤ 4096
  | .slotOwnershipTimeout slot => slot < 6
  | .configSet _ _ _ _ => true
  | .ownerProvision _ _ _ _ _ => true
  | .ownerRevoke _ _ _ _ => true
  | .policySet _ _ _ _ _ => true
  | .keyWrite _ _ _ => true
  | .keyErase _ _ => true
  | .rollbackAdvance _ _ _ _ _ => true
  | .fwStage _ _ _ _ _ bytes => bytes.length ≤ 4096
  | .fwActivate _ _ _ => true
  | .fwCommit _ => true
  | .fwReverted _ => true
  | .attest _ _ nonce _ => nonce.length == 32
  | .keeperRestart => true
  | .tamper _ _ => true
  | .getVersion port _ => port < 4
  | .getCapabilities port _ => port < 4
  | .negotiateAlgorithms port _ => port < 4
  | .getDigests port _ => port < 4
  | .getCertificate port _ _ _ => port < 4
  | .challenge port _ nonce => port < 4 && nonce.length == 32
  | .getMeasurements port _ nonce => port < 4 && (nonce.length == 32 || nonce.length == 0)
  | .keyExchange port _ _ => port < 4
  | .finish port _ => port < 4
  | .endSession port => port < 4
  | .entdaa _ => true
  | .rstdaa => true
  | .enec _ => true
  | .disec _ => true
  | .getpid => true
  | .getbcr => true
  | .getdcr => true
  | .getstatus => true
  | .getmwl => true
  | .getmrl => true
  | .setmwl _ => true
  | .setmrl _ => true
  | .idcode => true
  | .samplePreload _ _ => true
  | .extest _ _ => true
  | .clamp => true
  | .highz => true
  | .ijtag i => i.ok
  | .bypass => true
  | .testLogicReset => true
  | .phyTrained die _ => die < 16
  | .uncorrectableCodeword die lanes => die < 16 && lanes.all (· < 18)
  | .lackCred die _ _ => die < 16
  | .voltageSettled domain => domain < 32
  | .vioSupplyReturned _ => true
  | .retrainingPieceEnds stack pc _ _ => pcOk stack pc

end Sys2Proof
end

