-- ==== Sys2Proof/Certificates/Slice0/Obligations.lean ====
section
/-! DEFINITION. The statements about this machine. Each is a closed proposition; its docstring names the rules of spec/
it formalises. Where a statement says `t = { s with f := t.f, … }`, every field of the state but the ones named is
unchanged: that is the frame of the command. A value that State.reset or a record of notes/assumptions chose is named as
such. -/

open Sys2Proof Sys2Proof.Machine

/-! ## The machine as a whole -/

/-- A step takes the command at the front of the queue and answers what `exec` answers on the state with the queue's rest;
on an empty queue one CK_MGT cycle passes (the model's choice, notes/assumptions/3.md). -/
def Obligations.StepRunsTheFrontCommand : Prop :=
  (∀ (c : Instr) (r : List Instr) (s : State),
    Sys2Proof.Machine.step { s with pending := c :: r } = Sys2Proof.Machine.exec c { s with pending := r })
  ∧ ∀ s : State, s.pending = [] → Sys2Proof.Machine.step s = .next (tick s)

/-- Every command of every state has a next state, and leaves the queue of waiting commands and the assembly variant (R1) as
they are. -/
def Obligations.EveryCommandLeavesQueueAndVariant : Prop :=
  ∀ (c : Instr) (s : State), ∃ t, Sys2Proof.Machine.exec c s = .next t ∧ t.pending = s.pending ∧ t.variant = s.variant

/-- Every step keeps HBM, the tile stores and host memory in their canonical form, from every state that has it. -/
def Obligations.MemoriesStayCanonical : Prop :=
  ∀ s t : State, s.memWf → Sys2Proof.Machine.step s = .next t → t.memWf

/-- The state after reset has its memories in canonical form and an empty queue. -/
def Obligations.ResetIsCanonical : Prop :=
  State.reset.memWf ∧ State.reset.pending = []

/-- R481: every step leaves the identity, the fused key and the debug lock as they are, and changes a programmed owner slot,
a revoke bit, a policy bit and a rollback counter only from 0 to 1. -/
def Obligations.FusesOnlyGoFromZeroToOne : Prop :=
  ∀ s t : State, Sys2Proof.Machine.step s = .next t → FuseLe s.sec.fuses t.sec.fuses

/-! ## Choreographies and the Caller -/

/-- R30, R35: LOAD_CHOREOGRAPHY of a prologue that passes its checks makes its ensemble LOADED with exactly the prologue's fields
(its route section not read, nothing fetched, its checkpoint regions as they were) and completes OK; every other ensemble
stands. The prologue is what the host die's port reads at BASE; the read leaves `u`.
It rests on the model's choices of log entries 16, 21 and 73 (notes/assumptions).

Completion: under hypotheses on the state and the operands alone, its conclusion is that exec answers a next state for
`loadChoreography` (LOAD_CHOREOGRAPHY). -/
def Obligations.LoadChoreographyMakesLoaded : Prop :=
  ∀ (s u : State) (h : Issuer) (base : W64) (asid : BitVec 10) (p : List Byte),
    s.accepts h →
    s.prologueReady h base.toNat asid.toNat = true →
    ((s.begin h).isVf h.chan = true → asid.toNat = (s.begin h).chanAsid h.chan) →
    (s.begin h).fetchVa ((s.begin h).hostTlb h.chan) asid.toNat base.toNat 4096 = (u, .bytes p false) →
    (u.chan h.chan).disabler = none → h.tag ∈ (u.chan h.chan).inflight →
    base.toNat % 4096 = 0 → u.prologueFault h p asid.toNat = none →
    ∃ t, Sys2Proof.Machine.exec (.loadChoreography h base asid) s = .next t
      ∧ t = { u with ens := t.ens, chans := t.chans }
      ∧ t.en (field p 6 1) =
          { st := .loaded, bank := u.loadBank (field p 6 1), base := base.toNat, asid := asid.toNat,
            entry := field p 0x10 8, routes := field p 0x18 8, length := field p 0x20 8,
            members := BitVec.ofNat 1024 (field p 0x40 128), initEpoch := BitVec.ofNat 8 (field p 7 1),
            initMode := BitVec.ofNat 8 (field p 8 1), ckpts := (u.en (field p 6 1)).ckpts }
      ∧ (∀ e, e ≠ field p 6 1 → t.en e = u.en e)
      ∧ Answers u t h 0x03 stOk 0 0

/-- R36: START of a LOADED or DONE ensemble makes it RUNNING at its first bar with dynamic bar number 0 and no group cancelled, and
its completion follows when it leaves RUNNING; every member unit has an empty queue, token counters of 0, no group cancelled
and the prologue's epoch and mode; a member tile has no weights and adopts the committed table sets (R69, R366); units that
are no members, and every other ensemble, stand.

R37, R55, R61: the ends of an ensemble. CANCEL of a group puts it in, or takes it out of, the cancelled groups,
broadcasts that to every member and completes OK; CANCEL with STOP takes a LOADED or DONE ensemble to IDLE at once, completes
OK on one that is IDLE, and starts the stop of one that is RUNNING or FAULTED, where every member's queue is discarded and the
Caller deals no further; a second such CANCEL waits with the first; the stop ends in IDLE once every member reports idle; an
ensemble past its END bar whose bars are all complete is DONE, and its START completes OK with the number of member token
counters that are not zero. The last two hold while the derived clocks run (R398).

It rests on the model's choices of log entries 17 and 18 (notes/assumptions).

Completion: under hypotheses on the state and the operands alone, its conclusion is that exec answers a next state for
`start` (START), `cancel` (CANCEL), `stop` (STOP), `stopComplete` (STOP_COMPLETE), `ensembleDone` (ENSEMBLE_DONE). -/
def Obligations.EnsemblesRunAndEnd : Prop :=
  (∀ (s : State) (h : Issuer) (e : BitVec 3), s.mayBegin h = true →
     (s.begin h).mayCommand h e.toNat = true →
     ((s.begin h).en e.toNat).st = .loaded ∨ ((s.begin h).en e.toNat).st = .done →
     ∃ t, Sys2Proof.Machine.exec (.start h e) s = .next t
       ∧ t = { s.begin h with ens := t.ens, banks := t.banks, tiles := t.tiles, ses := t.ses, mses := t.mses }
       ∧ (t.en e.toNat).st = .running
       ∧ (t.en e.toNat).next = (s.en e.toNat).entry
       ∧ (t.en e.toNat).dyn = 0 ∧ (t.en e.toNat).cancelled = 0 ∧ (t.en e.toNat).figs = []
       ∧ (t.en e.toNat).epoch = (s.en e.toNat).initEpoch
       ∧ (t.en e.toNat).starter = some h
       ∧ (∀ u ∈ (s.en e.toNat).units, t.bk (u + 1024 * (s.en e.toNat).bank)
           = { epoch := (s.en e.toNat).initEpoch, mode := (s.en e.toNat).initMode })
       ∧ (∀ n, n < 512 → n ∈ (s.en e.toNat).units → (t.tile n).active = {} ∧ (t.tile n).shadow = {}
           ∧ (t.tile n).tables = s.loader.committed)
       ∧ (∀ ub, ub ∉ (s.en e.toNat).ubs → t.bk ub = s.bk ub)
       ∧ (∀ n, n ∉ (s.en e.toNat).units → t.tile n = s.tile n)
       ∧ (∀ n, n + 512 ∉ (s.en e.toNat).units → t.se n = s.se n)
       ∧ (∀ n, n + 768 ∉ (s.en e.toNat).units → t.mse n = s.mse n)
       ∧ (∀ d, d ≠ e.toNat → t.en d = s.en d))
  ∧ ((∀ (s : State) (h : Issuer) (e : BitVec 3) (g : Byte) (a : Bool), s.accepts h →
     (s.begin h).mayCommand h e.toNat = true →
     ∃ t, Sys2Proof.Machine.exec (.cancel h e g a) s = .next t
       ∧ t = { s with ens := t.ens, chans := t.chans,
                      net := s.net ++ (s.en e.toNat).ubs.map (fun ub => Packet.cancelled ub e.toNat g.toNat a) }
       ∧ (t.en e.toNat).cancelled = putBit (s.en e.toNat).cancelled g.toNat a
       ∧ (∀ d, d ≠ e.toNat → t.en d = s.en d)
       ∧ Answers s t h 0x05 stOk 0 0)
   ∧ (∀ (s : State) (h : Issuer) (e : BitVec 3), s.accepts h → (s.begin h).mayCommand h e.toNat = true →
     s.partner.waitStand = none →
     (s.en e.toNat).st = .loaded ∨ (s.en e.toNat).st = .done ∨ (s.en e.toNat).st = .idle →
     ∃ t, Sys2Proof.Machine.exec (.stop h e) s = .next t
       ∧ t = { s with ens := t.ens, chans := t.chans }
       ∧ (t.en e.toNat).st = .idle
       ∧ (∀ d, d ≠ e.toNat → t.en d = s.en d)
       ∧ Answers s t h 0x05 stOk 0 0)
   ∧ (∀ (s : State) (h : Issuer) (e : BitVec 3), s.accepts h → (s.begin h).mayCommand h e.toNat = true →
     (s.en e.toNat).st = .running ∨ (s.en e.toNat).st = .faulted →
     ∃ t, Sys2Proof.Machine.exec (.stop h e) s = .next t
       ∧ (t.en e.toNat).stopping = true ∧ (t.en e.toNat).st = (s.en e.toNat).st
       ∧ (t.en e.toNat).stoppers = (s.en e.toNat).stoppers ++ [h]
       ∧ ((s.en e.toNat).stopping = false → (t.en e.toNat).fetched = none ∧ (t.en e.toNat).live = []
           ∧ (t.en e.toNat).halt = none ∧ ∀ ub ∈ (s.en e.toNat).ubs, (t.bk ub).queue = [])
       ∧ ((s.en e.toNat).stopping = true → t = { s.begin h with ens := t.ens } ∧ ∀ d, d ≠ e.toNat → t.en d = s.en d)
       ∧ t.hbm = s.hbm ∧ t.tstore = s.tstore ∧ t.hostMem = s.hostMem)
   ∧ (∀ (s : State) (e : BitVec 3), s.rst.pllLost = false → (s.en e.toNat).stopping = true →
     (s.en e.toNat).ubs.all s.unitIdle = true →
     ∃ t, Sys2Proof.Machine.exec (.stopComplete e) s = .next t
       ∧ t = { s with ens := t.ens, chans := t.chans, partner := t.partner }
       ∧ (t.en e.toNat).st = .idle ∧ (t.en e.toNat).stopping = false
       ∧ (∀ d, d ≠ e.toNat → t.en d = s.en d))
   ∧ (∀ (s : State) (e : BitVec 3), s.rst.pllLost = false → (s.en e.toNat).st = .running → (s.en e.toNat).stopping = false →
     (s.en e.toNat).atEnd = true → (s.en e.toNat).live = [] → (s.en e.toNat).markAt = none →
     (s.en e.toNat).absentSeen = false →
     ∃ t, Sys2Proof.Machine.exec (.ensembleDone e) s = .next t
       ∧ t = { s with ens := t.ens, chans := t.chans }
       ∧ (t.en e.toNat).st = .done ∧ (t.en e.toNat).starter = none
       ∧ (∀ h, (s.en e.toNat).starter = some h → (s.chan h.chan).disabler = none → h.tag ∈ (s.chan h.chan).inflight →
           (t.chan h.chan).compls = (s.chan h.chan).compls
             ++ answerOf h 0x04 stOk (BitVec.ofNat 128 (s.leftTokens (s.en e.toNat) % 2 ^ 16)) 0)
       ∧ (∀ d, d ≠ e.toNat → t.en d = s.en d)))

/-- R31, R38, R54, R57, R60: what the Caller does. A route section all of whose records pass gives each member its routes and
pools; a bar that passes its checks is held as the fetched bar; a halted context whose address has been covered goes on; a
bar dealt appends one step word to the queue of every served unit it names, and takes the next dynamic number; the END bar
ends the fetching; a branch takes its target where the condition holds on the count read, and otherwise the bar that follows
it with its figures (R52). All of it while the derived clocks run (R398).
It rests on the model's choices of log entries 19, 20, 22, 23 and 24 (notes/assumptions).

Completion: under hypotheses on the state and the operands alone, its conclusion is that exec answers a next state for
`routeSectionRead` (ROUTE_SECTION_READ), `barFetch` (BAR_FETCH), `fetchResume` (FETCH_RESUME), `barDeal` (BAR_DEAL),
`branch` (BRANCH). -/
def Obligations.CallerFetchesDealsAndBranches : Prop :=
  (∀ (s u : State) (e : BitVec 3) (l : List Byte), s.rst.pllLost = false →
    (s.en e.toNat).st = .running → (s.en e.toNat).stopping = false → (s.en e.toNat).routesRead = false →
    (s.en e.toNat).halt = none →
    s.callerRead e.toNat (s.en e.toNat).asid ((s.en e.toNat).base + (s.en e.toNat).routes)
      (512 * (s.en e.toNat).units.length) = (u, .bytes l false) →
    (∀ r ∈ chunks 512 (s.en e.toNat).units.length l, recordOk (s.en e.toNat) r = true) →
    ∃ t, Sys2Proof.Machine.exec (.routeSectionRead e) s = .next t
      ∧ t = { u with ens := t.ens, banks := t.banks }
      ∧ (t.en e.toNat).routesRead = true
      ∧ (∀ d, d ≠ e.toNat → t.en d = u.en d)
      ∧ (∀ (i un : Nat) (r : List Byte), (s.en e.toNat).units[i]? = some un → (chunks 512 (s.en e.toNat).units.length l)[i]? = some r →
          t.bk (un + 1024 * (s.en e.toNat).bank)
            = (u.bk (un + 1024 * (s.en e.toNat).bank)).withRecord r (s.en e.toNat).restored))
  ∧ (∀ (s u : State) (e : BitVec 3) (b : Bar),
    (s.en e.toNat).mayFetch = true →
    (s.en e.toNat).next % 64 = 0 → (s.en e.toNat).entry ≤ (s.en e.toNat).next →
    (s.en e.toNat).next + 192 ≤ (s.en e.toNat).length →
    s.readBar e.toNat = (u, some (.ok (b, true))) → (u.en e.toNat).barFits b = true →
    ∃ t, Sys2Proof.Machine.exec (.barFetch e) s = .next t
      ∧ t = { u with ens := t.ens }
      ∧ (t.en e.toNat).fetched = some b ∧ (t.en e.toNat).brDepth = none
      ∧ (∀ d, d ≠ e.toNat → t.en d = u.en d))
  ∧ (∀ (s : State) (e : BitVec 3) (hl : FetchHalt), s.rst.pllLost = false → (s.en e.toNat).halt = some hl → hl.released = true →
    (s.en e.toNat).st = .running →
    Sys2Proof.Machine.exec (.fetchResume e) s = .next (s.setEn e.toNat { s.en e.toNat with halt := none }))
  ∧ (∀ (s : State) (e : BitVec 3) (b : Bar), s.rst.pllLost = false → (s.en e.toNat).fetched = some b → (s.en e.toNat).st = .running →
    (s.en e.toNat).stopping = false → (s.en e.toNat).markAt = none → b.kind = 0 → s.mayDeal e.toNat b = true →
    (b.steps.map Prod.fst).Nodup →
    ∃ t, Sys2Proof.Machine.exec (.barDeal e) s = .next t
      ∧ t = { s with ens := t.ens, banks := t.banks, dbg := t.dbg, fresh := t.fresh, keeper := t.keeper, pins := t.pins, chans := t.chans,
                     counts := t.counts }
      ∧ (t.en e.toNat).fetched = none
      ∧ (t.en e.toNat).dyn = (s.en e.toNat).dyn + 1
      ∧ (t.en e.toNat).next = ((s.en e.toNat).after b).next
      ∧ (t.en e.toNat).lastIndex = b.index
      ∧ (∀ d, d ≠ e.toNat → t.en d = s.en d)
      ∧ (∀ (i un : Nat) (w : W128), b.steps[i]? = some (un, w) → s.unitServed un = true →
          (t.bk (un + 1024 * (s.en e.toNat).bank)).queue = (s.bk (un + 1024 * (s.en e.toNat).bank)).queue
            ++ [{ word := w, ens := e.toNat, dyn := (s.en e.toNat).dyn, bar := b.index, slot := i,
                  replayable := b.replayable? }])
      ∧ (∀ ub, (∀ p ∈ b.steps, ub ≠ p.1 + 1024 * (s.en e.toNat).bank) → t.bk ub = s.bk ub))
  ∧ (∀ (s : State) (e : BitVec 3) (b : Bar), s.rst.pllLost = false → (s.en e.toNat).fetched = some b → (s.en e.toNat).st = .running →
    (s.en e.toNat).stopping = false → (s.en e.toNat).markAt = none → b.kind = 2 →
    ∃ t, Sys2Proof.Machine.exec (.barDeal e) s = .next t
      ∧ t = { s with ens := t.ens, dbg := t.dbg }
      ∧ (t.en e.toNat).fetched = none ∧ (t.en e.toNat).atEnd = true ∧ (t.en e.toNat).lastIndex = b.index
      ∧ (∀ d, d ≠ e.toNat → t.en d = s.en d))
  ∧ (∀ (s : State) (e : BitVec 3) (b : Bar), s.rst.pllLost = false → (s.en e.toNat).fetched = some b → (s.en e.toNat).st = .running →
    (s.en e.toNat).stopping = false → (s.en e.toNat).markAt = none → b.kind = 1 →
    (s.obj (b.brSync % 2 ^ 15)).openTo e.toNat = true →
    (bit b.brSync 15 = false ∨ (s.en e.toNat).brRelease = true) →
    ∃ t, Sys2Proof.Machine.exec (.branch e) s = .next t
      ∧ t = { s with ens := t.ens }
      ∧ (t.en e.toNat).fetched = none
      ∧ (t.en e.toNat).dyn = (s.en e.toNat).dyn + 1
      ∧ (t.en e.toNat).next = (if branchHolds b.brCond (s.obj (b.brSync % 2 ^ 15)).count.toNat b.brValue = true
          then b.brTarget else ((s.en e.toNat).after b).next)
      ∧ (∀ d, d ≠ e.toNat → t.en d = s.en d))

/-! ## Units and steps -/

/-- R45: a step fires once its waited token counters hold a token each, its pool holds its credits, its resource is free and its
group is not cancelled; where, beside, nothing of another rule stops it: its word is sound (R548), its unit is served and not
held (R15, R93), no walk-through is due before it (R296), the unit's other bank is not to fire first (R463), and it meets none
of the faults of its opcode. Firing takes one token from each waited counter and the credits from the pool, and moves the step
from the head of the queue to the fired steps, with what it captures (R84, R160). Its tile or engine changes as firing changes
it (R86, R87, R163); every other unit stands.

R44, R46, R194: the oldest fired step whose effect ends it leaves the fired steps, and one packet goes to every non-empty slot
of every route its EMIT names. A step that STEP_COMPLETE ends, a NOP and an ARRIVE of a SYNC step end so, the arrival going
to its object; a SYNC step of another operation sends it and waits for its answer; a ROUTE step has first rewritten its
slot, and emits by the routes as they then are.

It rests on the model's choices of log entries 11, 12, 13, 14 and 15 (notes/assumptions).

Completion: under hypotheses on the state and the operands alone, its conclusion is that exec answers a next state for
`stepFire` (STEP_FIRE), `stepComplete` (STEP_COMPLETE), `nop` (NOP), `sync` (SYNC), `route` (ROUTE). -/
def Obligations.StepsFireCompleteAndEmit : Prop :=
  (∀ (s : State) (ub : Nat) (q : QStep) (r : List QStep),
     (s.bk ub).queue = q :: r → s.runs ub = true → s.unitServed (unitOf ub) = true → s.heldUnit (unitOf ub) = false →
     bitOf (s.bk ub).cancelled (groupOf q.word) = false → s.malformed ub q = false →
     s.inputsReady ub q.word = true → s.resourceFree ub q.word = true → s.walkFirst ub q.word = false →
     (s.lastBank.get 0 (unitOf ub) = bankOf ub → s.canFire (unitOf ub + 1024 * (1 - bankOf ub)) = false) →
     s.fireStop ub q.word = .none →
     ∃ t, Sys2Proof.Machine.exec (.stepFire ub) s = .next t
       ∧ t = { s with banks := t.banks, tiles := t.tiles, ses := t.ses, lastBank := t.lastBank, dbg := t.dbg, ens := t.ens }
       ∧ (t.bk ub).queue = r
       ∧ (t.bk ub).fired = (s.bk ub).fired ++ [s.capture ub q]
       ∧ (∀ i, (t.bk ub).tk.get 0 i
           = if i < 16 ∧ (waitOf q.word).testBit i = true then (s.bk ub).tk.get 0 i - 1 else (s.bk ub).tk.get 0 i)
       ∧ (∀ p, (t.bk ub).cp.get 0 p
           = if p = (creditsOf q.word).1 then (s.bk ub).cp.get 0 p - (creditsOf q.word).2 else (s.bk ub).cp.get 0 p)
       ∧ t.lastBank.get 0 (unitOf ub) = bankOf ub
       ∧ t.tiles = (s.fireTile ub q.word).tiles ∧ t.ses = (s.fireTile ub q.word).ses
       ∧ (∀ n, n ≠ unitOf ub → t.tile n = s.tile n) ∧ (∀ n, n ≠ unitOf ub - 512 → t.se n = s.se n)
       ∧ (∀ d, d ≠ q.ens → t.en d = s.en d)
       ∧ (∀ vb, vb ≠ ub → t.bk vb = s.bk vb))
  ∧ ((∀ (s : State) (ub : Nat) (f : Fired), s.firedStep ub timed = some f →
     ∃ t, Sys2Proof.Machine.exec (.stepComplete ub) s = .next t
       ∧ t = { s with banks := t.banks, ens := t.ens, net := s.net ++ s.emission ub (emitOf f.q.word) f.q.ref }
       ∧ t.bk ub = { s.bk ub with fired := dropFirst (s.bk ub).fired f }
       ∧ (∀ vb, vb ≠ ub → t.bk vb = s.bk vb))
   ∧ (∀ (s : State) (ub : Nat) (f : Fired), s.firedStep ub (unacted 0x00) = some f →
     ∃ t, Sys2Proof.Machine.exec (.nop ub) s = .next t
       ∧ t = { s with banks := t.banks, ens := t.ens, net := s.net ++ s.emission ub (emitOf f.q.word) f.q.ref }
       ∧ t.bk ub = { s.bk ub with fired := dropFirst (s.bk ub).fired f }
       ∧ (∀ vb, vb ≠ ub → t.bk vb = s.bk vb))
   ∧ (∀ (s : State) (ub : Nat) (f : Fired), s.firedStep ub (unacted 0x03) = some f →
     (syncOf (opnd f.q.word 0 80)).op = 0 →
     ∃ t, Sys2Proof.Machine.exec (.sync (.step ub)) s = .next t
       ∧ t = { s with banks := t.banks, ens := t.ens,
                      net := s.net ++ [.arrive (.unit ub false) (syncOf (opnd f.q.word 0 80)).obj
                        (syncOf (opnd f.q.word 0 80)).value f.q.ref] ++ s.emission ub (emitOf f.q.word) f.q.ref }
       ∧ t.bk ub = { s.bk ub with fired := dropFirst (s.bk ub).fired f }
       ∧ (∀ vb, vb ≠ ub → t.bk vb = s.bk vb))
   ∧ (∀ (s : State) (ub : Nat) (f : Fired), s.firedStep ub (unacted 0x03) = some f →
     (syncOf (opnd f.q.word 0 80)).op ≠ 0 →
     ∃ t, Sys2Proof.Machine.exec (.sync (.step ub)) s = .next t
       ∧ t = { s with banks := t.banks, counts := t.counts, waits := t.waits,
                      net := s.net ++ [.syncOp (.unit ub false) (syncOf (opnd f.q.word 0 80)).obj
                        (min (syncOf (opnd f.q.word 0 80)).op 4) (syncOf (opnd f.q.word 0 80)).value
                        (syncOf (opnd f.q.word 0 80)).auto] }
       ∧ Acted s t ub f)
   ∧ (∀ (s : State) (ub : Nat) (f : Fired), s.firedStep ub (unacted 0x04) = some f →
     ∃ t, Sys2Proof.Machine.exec (.route ub) s = .next t
       ∧ t = { s with banks := t.banks, ens := t.ens, net := s.net ++ t.emission ub (emitOf f.q.word) f.q.ref }
       ∧ (∀ k, (t.bk ub).routes.get 0 k = if k = 4 * opnd f.q.word 0 4 + opnd f.q.word 4 2
           then BitVec.ofNat 32 (opnd f.q.word 32 32) else (s.bk ub).routes.get 0 k)
       ∧ (t.bk ub).fired = dropFirst (s.bk ub).fired f
       ∧ (t.bk ub).tk = (s.bk ub).tk ∧ (t.bk ub).cp = (s.bk ub).cp
       ∧ (∀ vb, vb ≠ ub → t.bk vb = s.bk vb)))

/-- R55, R63: a MODE step arrives at its barrier, where no commit of table sets is under way; once a token in the barrier's WTK
has come back the unit takes it, adopts the step's MODE_BITS, goes one epoch on, and completes with its tokens (a stream
engine then settles what it holds of the epoch that begins); a CANCEL step changes the ensemble's group and broadcasts it, and
has then acted.

R33, R47, R48, R49, R55: the token, and the credit return, that reaches a unit next (R269) raises its counter by one and its
pool by its count, at a served member of an ensemble that is not DONE, as long as the counter stays at most 255 and the pool
at most its ceiling; those of a DONE ensemble change no counter (the model's choice); a unit that takes none has its sender
answered "unit absent"; that answer is recorded and marks the ensemble of a running unit; a cancel broadcast that nothing
holds up changes the group at the member it reaches.

It rests on the model's choices of log entries 11, 12, 14 and 155 (notes/assumptions).

Completion: under hypotheses on the state and the operands alone, its conclusion is that exec answers a next state for
`mode` (MODE), `modeAdopt` (MODE_ADOPT), `cancelStep` (CANCEL_STEP), `token` (TOKEN), `credit` (CREDIT), `absent`
(ABSENT), `cancelBroadcast` (CANCEL_BROADCAST). -/
def Obligations.ModeStepsEndAndPacketsReachUnits : Prop :=
  ((∀ (s : State) (ub : Nat) (f : Fired), s.committing = false → s.firedStep ub (unacted 0x01) = some f →
     ∃ t, Sys2Proof.Machine.exec (.mode ub) s = .next t
       ∧ t = { s with banks := t.banks, net := s.net ++ [.arrive (.unit ub true) (opnd f.q.word 0 15) 1 f.q.ref] }
       ∧ Acted s t ub f)
   ∧ (∀ (s : State) (ub : Nat) (f : Fired), s.firedStep ub (fun f => opOf f.q.word == 0x01 && f.acted) = some f →
     (s.obj (opnd f.q.word 0 15)).wtk.toNat < 16 →
     0 < (s.bk ub).tk.get 0 (s.obj (opnd f.q.word 0 15)).wtk.toNat →
     ∃ t, Sys2Proof.Machine.exec (.modeAdopt ub) s = .next t
       ∧ t = { s with banks := t.banks, tiles := t.tiles, ses := t.ses, ens := t.ens, net := t.net }
       ∧ (t.bk ub).mode = BitVec.ofNat 8 (opnd f.q.word 16 8)
       ∧ (t.bk ub).epoch = (s.bk ub).epoch + 1
       ∧ (t.bk ub).tk.get 0 (s.obj (opnd f.q.word 0 15)).wtk.toNat
           = (s.bk ub).tk.get 0 (s.obj (opnd f.q.word 0 15)).wtk.toNat - 1
       ∧ ((unitKind (unitOf ub) = .stream → ∀ c, (s.ctx (unitOf ub - 512) c).ahead = []) →
           (t.bk ub).fired = dropFirst (s.bk ub).fired f
             ∧ t.net = s.net ++ s.emission ub (emitOf f.q.word) f.q.ref)
       ∧ (∀ vb, vb ≠ ub → t.bk vb = s.bk vb))
   ∧ (∀ (s : State) (ub : Nat) (f : Fired), s.firedStep ub (unacted 0x02) = some f →
     ∃ t, Sys2Proof.Machine.exec (.cancelStep ub) s = .next t
       ∧ t = { s with banks := t.banks, ens := t.ens,
                      net := s.net ++ (s.en f.q.ens).ubs.map
                        (fun vb => Packet.cancelled vb f.q.ens (opnd f.q.word 0 8) (bitOf f.q.word 8)) }
       ∧ (t.en f.q.ens).cancelled = putBit (s.en f.q.ens).cancelled (opnd f.q.word 0 8) (bitOf f.q.word 8)
       ∧ (∀ d, d ≠ f.q.ens → t.en d = s.en d)
       ∧ Acted s t ub f))
  ∧ ((∀ (s : State) (ub : Nat) (tk : BitVec 4) (src : Nat), s.tokenSource ub tk.toNat = some src → gwOfSource src = none →
     s.takesTokens ub = true → s.frozenCounts ub = false → (s.bk ub).tk.get 0 tk.toNat < 255 →
     ∃ t, Sys2Proof.Machine.exec (.token ub tk) s = .next t
       ∧ t = { s with banks := t.banks, net := dropFirst s.net (.token src ub tk.toNat) }
       ∧ t.bk ub = { s.bk ub with tk := (s.bk ub).tk.set 0 tk.toNat ((s.bk ub).tk.get 0 tk.toNat + 1) }
       ∧ (∀ vb, vb ≠ ub → t.bk vb = s.bk vb))
   ∧ (∀ (s : State) (ub : Nat) (p : BitVec 3) (n : BitVec 16) (src : Nat), s.creditSource ub p.toNat n.toNat = some src →
     s.takesTokens ub = true → s.frozenCounts ub = false →
     (s.bk ub).cp.get 0 p.toNat + n.toNat ≤ (s.bk ub).ceil.get 0 p.toNat →
     ∃ t, Sys2Proof.Machine.exec (.credit ub p n) s = .next t
       ∧ t = { s with banks := t.banks, net := dropFirst s.net (.credit src ub p.toNat n.toNat) }
       ∧ t.bk ub = { s.bk ub with cp := (s.bk ub).cp.set 0 p.toNat ((s.bk ub).cp.get 0 p.toNat + n.toNat) }
       ∧ (∀ vb, vb ≠ ub → t.bk vb = s.bk vb))
   ∧ (∀ (s : State) (ub : Nat) (tk : BitVec 4) (p : BitVec 3) (n : BitVec 16) (a b : Nat), s.takesTokens ub = true →
     s.frozenCounts ub = true → s.tokenSource ub tk.toNat = some a → gwOfSource a = none →
     s.creditSource ub p.toNat n.toNat = some b →
     Sys2Proof.Machine.exec (.token ub tk) s = .next { s with net := dropFirst s.net (.token a ub tk.toNat) }
     ∧ Sys2Proof.Machine.exec (.credit ub p n) s = .next { s with net := dropFirst s.net (.credit b ub p.toNat n.toNat) })
   ∧ (∀ (s : State) (ub : Nat) (tk : BitVec 4) (p : BitVec 3) (n : BitVec 16) (a b : Nat), s.takesTokens ub = false →
     s.tokenSource ub tk.toNat = some a → gwOfSource a = none → s.creditSource ub p.toNat n.toNat = some b →
     Sys2Proof.Machine.exec (.token ub tk) s
       = .next { s with net := dropFirst s.net (.token a ub tk.toNat) ++ [.absent a] }
     ∧ Sys2Proof.Machine.exec (.credit ub p n) s
       = .next { s with net := dropFirst s.net (.credit b ub p.toNat n.toNat) ++ [.absent b] })
   ∧ (∀ (s : State) (ub : Nat), s.runs ub = true →
     ∃ t, Sys2Proof.Machine.exec (.absent ub) s = .next t
       ∧ t = { s with net := dropFirst s.net (.absent ub), ens := t.ens, fresh := t.fresh, counts := t.counts,
                      keeper := t.keeper, pins := t.pins, chans := t.chans }
       ∧ (t.keeper.general.get {} (s.keeper.nextGen % 520192)).code = cUnitAbsent
       ∧ (t.en (s.ensOf ub)).absentSeen = true ∧ (∀ d, d ≠ s.ensOf ub → t.en d = s.en d))
   ∧ (∀ (s : State) (ub : Nat) (e : BitVec 3) (g : Byte) (a : Bool), s.ensOf ub = e.toNat → s.unitHere (unitOf ub) = true →
     s.heldUp (.cancelled ub e.toNat g.toNat a) = false →
     ∃ t, Sys2Proof.Machine.exec (.cancelBroadcast ub e g a) s = .next t
       ∧ (t.bk ub).cancelled = putBit (s.bk ub).cancelled g.toNat a
       ∧ (t.bk ub).queue = (s.bk ub).queue ∧ (t.bk ub).tk = (s.bk ub).tk ∧ (t.bk ub).cp = (s.bk ub).cp
       ∧ t.hbm = s.hbm ∧ t.tstore = s.tstore ∧ t.hostMem = s.hostMem
       ∧ (a = false → t = { s with banks := t.banks, net := dropFirst s.net (.cancelled ub e.toNat g.toNat a) }
           ∧ (t.bk ub).fired = (s.bk ub).fired ∧ ∀ vb, vb ≠ ub → t.bk vb = s.bk vb)))

/-- R48: a token that would take a counter past 255 leaves it at 255 and the unit raises TOKEN_SATURATED; a credit return that would
take a pool above its ceiling leaves the pool at the ceiling and the unit raises CREDIT_OVERFLOW. Both stop the ensemble.

Completion: under hypotheses on the state and the operands alone, its conclusion is that exec answers a next state for
`token` (TOKEN), `credit` (CREDIT). -/
def Obligations.SaturationAndOverflowStopTheEnsemble : Prop :=
  (∀ (s : State) (ub : Nat) (tk : BitVec 4) (src : Nat), s.tokenSource ub tk.toNat = some src → gwOfSource src = none →
    s.takesTokens ub = true → s.runs ub = true → Map.get (s.bk ub).tk 0 tk.toNat = 255 →
    ∃ t, Sys2Proof.Machine.exec (.token ub tk) s = .next t
      ∧ Map.get (t.bk ub).tk 0 tk.toNat = 255 ∧ t.banks = s.banks
      ∧ (t.keeper.general.get {} (s.keeper.nextGen % 520192)).code = cTokenSaturated
      ∧ (t.en (s.ensOf ub)).st = .faulted ∧ (t.en (s.ensOf ub)).fault = cTokenSaturated
      ∧ (∀ d, d ≠ s.ensOf ub → t.en d = s.en d)
      ∧ t = { s with net := t.net, ens := t.ens, fresh := t.fresh, counts := t.counts, keeper := t.keeper, pins := t.pins, chans := t.chans })
  ∧ (∀ (s : State) (ub : Nat) (p : BitVec 3) (n : BitVec 16) (src : Nat), s.creditSource ub p.toNat n.toNat = some src →
    s.takesTokens ub = true → s.runs ub = true →
    Map.get (s.bk ub).ceil 0 p.toNat < Map.get (s.bk ub).cp 0 p.toNat + n.toNat →
    ∃ t, Sys2Proof.Machine.exec (.credit ub p n) s = .next t
      ∧ t.bk ub = { s.bk ub with cp := (s.bk ub).cp.set 0 p.toNat (Map.get (s.bk ub).ceil 0 p.toNat) }
      ∧ (∀ vb, vb ≠ ub → t.bk vb = s.bk vb)
      ∧ (t.keeper.general.get {} (s.keeper.nextGen % 520192)).code = cCreditOverflow
      ∧ (t.en (s.ensOf ub)).st = .faulted ∧ (t.en (s.ensOf ub)).fault = cCreditOverflow
      ∧ (∀ d, d ≠ s.ensOf ub → t.en d = s.en d)
      ∧ t = { s with banks := t.banks, net := t.net, ens := t.ens, fresh := t.fresh, counts := t.counts, keeper := t.keeper, pins := t.pins, chans := t.chans })

/-! ## Tiles: the matrix path -/

/-- R86, R107, R108: a pass whose lines, once read, are all sound writes, in each unmasked row and column of its block, the
saturated integer sum, or in strict mode the exact sum rounded once; masked rows, masked columns and every other block keep
their words; the step has acted and waits for its verdict. An open fast-mode sum is free, and nothing is said of it. `u` is the
state after the lines passed their code, which counts what it corrects (R132).

R82, R84: a TCFG step whose line, once read, is sound loads its scale register from the first four bytes of the line, or its mask entry
from the line, and has then acted.

R88, R89: a DRAIN step copies the block of each array its AMASK names, row by row, to the 16 KiB from unit DST + 4a of the
tile store, and every other byte of every tile store stands; its read of the block ends, and where FREE is set the block
becomes EMPTY; the step has then acted.

It rests on the model's choices of log entries 11, 26, 27, 28, 29, 30, 31, 37, 57 and 123 (notes/assumptions).

Completion: under hypotheses on the state and the operands alone, its conclusion is that exec answers a next state for
`mxp` (MXP), `tcfg` (TCFG), `drain` (DRAIN). -/
def Obligations.ArraysMultiplyAndDrain : Prop :=
  (∀ (s u : State) (ub : Nat) (f : Fired), s.firedStep ub (unacted 0x11) = some f →
     s.passLoad (unitOf ub) (mxpOf f.q.word) f.mask.rows = u →
     u.passBad (unitOf ub) (mxpOf f.q.word) f.mask.rows = false →
     ∃ t, Sys2Proof.Machine.exec (.mxp ub) s = .next t
       ∧ t = { u with banks := t.banks, tiles := t.tiles, free := t.free }
       ∧ (∀ k, k ≠ unitOf ub → t.tile k = u.tile k)
       ∧ (∀ vb, vb ≠ ub → t.bk vb = s.bk vb)
       ∧ (∃ nf d, t.bk ub = { s.bk ub with
           fired := modFirst (· == f) (fun g => { g with acted := true, nonfin := nf, disagree := d }) (s.bk ub).fired })
       ∧ (t.tile (unitOf ub)).active
           = ((u.tile (unitOf ub)).loadWeights (mxpOf f.q.word) f.mask.cols
               (u.tsRead (unitOf ub) (4096 * (mxpOf f.q.word).wbase) 4096)
               (u.tsRead (unitOf ub) (4096 * (mxpOf f.q.word).sbase) 4096)).active
       ∧ t.tile (unitOf ub) = { u.tile (unitOf ub) with
           active := (t.tile (unitOf ub)).active, shadow := (t.tile (unitOf ub)).shadow, acc := (t.tile (unitOf ub)).acc,
           crush := (t.tile (unitOf ub)).crush, sat := (t.tile (unitOf ub)).sat, nanDrop := (t.tile (unitOf ub)).nanDrop }
       ∧ (∀ a b r c, a < 4 → b < 8 → r < 64 → c < 64 →
           (b ≠ (mxpOf f.q.word).acc ∨ bitOf f.mask.rows (64 * a + r) = true
             ∨ bitOf (t.tile (unitOf ub)).active.cols c = true) →
           Map.get (t.tile (unitOf ub)).acc 0 (accKey a b r c) = Map.get (u.tile (unitOf ub)).acc 0 (accKey a b r c))
       ∧ (∀ a r c, a < 4 → r < 64 → c < 64 → bitOf f.mask.rows (64 * a + r) = false →
           bitOf (t.tile (unitOf ub)).active.cols c = false →
           let m := mxpOf f.q.word
           let old := Map.get (u.tile (unitOf ub)).acc 0 (accKey a m.acc r c)
           let xs := actRow f.mode m (u.tsRead (unitOf ub) (4096 * m.aUnit a) 4096)
             (u.tsRead (unitOf ub) (4096 * m.sbase) 4096) a r
           let ys := column (weightRows f.mode (t.tile (unitOf ub)).active) c
           let int := isIntFmt m.fmtA && isIntFmt (t.tile (unitOf ub)).active.fmt.toNat
           (int = true → Map.get (t.tile (unitOf ub)).acc 0 (accKey a m.acc r c)
             = (intOut (if m.accum then old.toInt else 0) xs ys).1)
           ∧ (int = false → strict f.mode = true → Map.get (t.tile (unitOf ub)).acc 0 (accKey a m.acc r c)
             = toF32 f.mode ((if m.accum then readF32 f.mode old else .zero).add ((readF32 f.mode f.scale).mul (dot xs ys))))))
  ∧ (∀ (s u : State) (ub : Nat) (f : Fired), s.firedStep ub (unacted 0x12) = some f →
     s.tsLoadLine (unitOf ub) true .clean (tcfgOf f.q.word).src = u →
     u.tsBad (unitOf ub) (64 * (tcfgOf f.q.word).src) 64 = false →
     ∃ t, Sys2Proof.Machine.exec (.tcfg ub) s = .next t
       ∧ t = { u with banks := t.banks, tiles := t.tiles }
       ∧ (∀ k, k ≠ unitOf ub → t.tile k = u.tile k)
       ∧ t.tile (unitOf ub) = { u.tile (unitOf ub) with
           masks := (t.tile (unitOf ub)).masks, scales := (t.tile (unitOf ub)).scales }
       ∧ (∀ k, (t.tile (unitOf ub)).scales.get 0x3F800000 k
           = if (tcfgOf f.q.word).scale = true ∧ k = (tcfgOf f.q.word).index
             then BitVec.ofNat 32 (field (u.tsRead (unitOf ub) (64 * (tcfgOf f.q.word).src) 64) 0 4)
             else (u.tile (unitOf ub)).scales.get 0x3F800000 k)
       ∧ (∀ k, (t.tile (unitOf ub)).masks.get {} k
           = if (tcfgOf f.q.word).scale = false ∧ k = (tcfgOf f.q.word).index
             then maskEntry (u.tsRead (unitOf ub) (64 * (tcfgOf f.q.word).src) 64)
             else (u.tile (unitOf ub)).masks.get {} k)
       ∧ Acted s t ub f)
  ∧ (∀ (s : State) (ub : Nat) (f : Fired), s.firedStep ub (unacted 0x13) = some f →
     ∃ t, Sys2Proof.Machine.exec (.drain ub) s = .next t
       ∧ (∀ a k, a < 4 → (drainOf f.q.word).amask.testBit a = true → k < 16384 →
           t.tsByte (unitOf ub) (4096 * ((drainOf f.q.word).dst + 4 * a) + k)
             = nth ((s.tile (unitOf ub)).blockBytes a (drainOf f.q.word).acc) k 0)
       ∧ (∀ v b, (∀ a, a < 4 → (drainOf f.q.word).amask.testBit a = true →
             tsKey v b < tsKey (unitOf ub) (4096 * ((drainOf f.q.word).dst + 4 * a))
               ∨ tsKey (unitOf ub) (4096 * ((drainOf f.q.word).dst + 4 * a)) + 16384 ≤ tsKey v b) →
           t.tsByte v b = s.tsByte v b)
       ∧ ((drainOf f.q.word).free = true → ((t.tile (unitOf ub)).block (drainOf f.q.word).acc).empty = true)
       ∧ ((t.tile (unitOf ub)).block (drainOf f.q.word).acc).reading
           = ((s.tile (unitOf ub)).block (drainOf f.q.word).acc).reading - 1
       ∧ (t.tile (unitOf ub)).acc = (s.tile (unitOf ub)).acc
       ∧ Acted s t ub f
       ∧ (∀ k, k ≠ unitOf ub → t.tile k = s.tile k)
       ∧ t = { s with banks := t.banks, tiles := t.tiles, tstore := t.tstore, tpoison := t.tpoison, tfixed := t.tfixed,
                      terr := t.terr, net := t.net, fresh := t.fresh, counts := t.counts, keeper := t.keeper, pins := t.pins,
                      chans := t.chans })

/-- R85, R91, R93, R96, R133, R292: what follows a pass. Where its block is not FAILED and neither its comparisons nor faulty
arithmetic make an array disagree, the verdict counts a pass and ends the step; where an array disagrees it marks the block FAILED, counts
a failure, parks the step and holds the tile for a locate re-run of those arrays. A pass into a block that has FAILED already
counts nothing: it is parked while the tile is under repair, and ends where nothing will rebuild the block. Each of these
verdicts lowers the block's PENDING by one. The locate re-run counts itself and ends in a replay of a FAILED block or in no
repair; a replay whose lines are sound and whose passes agree leaves its block not FAILED. Memories and sync objects stand.
It rests on the model's choices of log entries 2, 27, 28, 32, 33, 34, 35, 37 and 124 (notes/assumptions).

Completion: under hypotheses on the state and the operands alone, its conclusion is that exec answers a next state for
`verdict` (VERDICT), `locateReRun` (LOCATE_RE_RUN), `blockReplay` (BLOCK_REPLAY). -/
def Obligations.VerdictsAndRepairs : Prop :=
  (∀ (s : State) (ub : Nat) (f : Fired) (d : BitVec 4), s.firedStep ub awaitsVerdict = some f →
    ((s.tile (unitOf ub)).block (mxpOf f.q.word).acc).failed = false → f.disagree ||| d = 0 →
    ∃ t, Sys2Proof.Machine.exec (.verdict ub d) s = .next t
      ∧ (t.tile (unitOf ub)).passes = (s.tile (unitOf ub)).passes + 1
      ∧ (t.tile (unitOf ub)).repair = (s.tile (unitOf ub)).repair
      ∧ ((t.tile (unitOf ub)).block (mxpOf f.q.word).acc).pending
          = ((s.tile (unitOf ub)).block (mxpOf f.q.word).acc).pending - 1
      ∧ (t.bk ub).fired = dropFirst (s.bk ub).fired f ∧ (∀ vb, vb ≠ ub → t.bk vb = s.bk vb)
      ∧ t.hbm = s.hbm ∧ t.tstore = s.tstore ∧ t.sync = s.sync)
  ∧ (∀ (s : State) (ub : Nat) (f : Fired) (d : BitVec 4), s.firedStep ub awaitsVerdict = some f →
    ((s.tile (unitOf ub)).block (mxpOf f.q.word).acc).failed = true →
    ∃ t, Sys2Proof.Machine.exec (.verdict ub d) s = .next t
      ∧ (t.tile (unitOf ub)).passes = (s.tile (unitOf ub)).passes
      ∧ (t.tile (unitOf ub)).failures = (s.tile (unitOf ub)).failures
      ∧ (t.tile (unitOf ub)).repair = (s.tile (unitOf ub)).repair
      ∧ ((t.tile (unitOf ub)).block (mxpOf f.q.word).acc).pending
          = ((s.tile (unitOf ub)).block (mxpOf f.q.word).acc).pending - 1
      ∧ (t.bk ub).fired = (if (s.tile (unitOf ub)).repair = .none then dropFirst (s.bk ub).fired f
          else modFirst (· == f) (fun g => { g with replay := true }) (s.bk ub).fired)
      ∧ (∀ vb, vb ≠ ub → t.bk vb = s.bk vb) ∧ t.health = s.health
      ∧ t.hbm = s.hbm ∧ t.tstore = s.tstore ∧ t.sync = s.sync)
  ∧ (∀ (s : State) (ub : Nat) (f : Fired) (d : BitVec 4), s.firedStep ub awaitsVerdict = some f →
    ((s.tile (unitOf ub)).block (mxpOf f.q.word).acc).failed = false → f.disagree ||| d ≠ 0 →
    (s.tile (unitOf ub)).repair = .none →
    ∃ t, Sys2Proof.Machine.exec (.verdict ub d) s = .next t
      ∧ ((t.tile (unitOf ub)).block (mxpOf f.q.word).acc).failed = true
      ∧ ((t.tile (unitOf ub)).block (mxpOf f.q.word).acc).pending
          = ((s.tile (unitOf ub)).block (mxpOf f.q.word).acc).pending - 1
      ∧ (t.tile (unitOf ub)).repair = .locate (f.disagree ||| d) (some (mxpOf f.q.word).acc) false
      ∧ (t.tile (unitOf ub)).failures = satAdd 32 (s.tile (unitOf ub)).failures 1
      ∧ (t.bk ub).fired = modFirst (· == f) (fun g => { g with replay := true }) (s.bk ub).fired
      ∧ (∀ vb, vb ≠ ub → t.bk vb = s.bk vb)
      ∧ t.hbm = s.hbm ∧ t.tstore = s.tstore ∧ t.sync = s.sync)
  ∧ (∀ (s : State) (ub : Nat) (found : List (Nat × List Nat)) (arrays : BitVec 4) (block : Option Nat) (p : Bool),
    s.rst.pllLost = false → (s.tile (unitOf ub)).repair = .locate arrays block p →
    (s.firedAll (unitOf ub)).any (fun f => opOf f.q.word == 0x11 && !f.replay) = false →
    ∃ t, Sys2Proof.Machine.exec (.locateReRun ub found) s = .next t
      ∧ (t.tile (unitOf ub)).locates = satAdd 32 (s.tile (unitOf ub)).locates 1
      ∧ ((t.tile (unitOf ub)).repair = .none ∨ ∃ b, (t.tile (unitOf ub)).repair = .replay b)
      ∧ t.hbm = s.hbm ∧ t.tstore = s.tstore ∧ t.sync = s.sync)
  ∧ (∀ (s u v : State) (ub b : Nat) (l : List Fired) (j : Judged) (d : BitVec 4),
    (s.tile (unitOf ub)).repair = .replay b → s.holder ub b = ub → s.runs ub = true →
    (s.en (s.ensOf ub)).stopping = false → replayList (s.bk ub).window b = some l →
    let rows := fun (f : Fired) => if (mxpOf f.q.word).acc = b then f.mask.rows else -1
    l.foldl (fun w f => w.passLoad (unitOf ub) (mxpOf f.q.word) (rows f)) s = u →
    (∀ f ∈ l, u.passBad (unitOf ub) (mxpOf f.q.word) (rows f) = false) →
    u.replayAll (unitOf ub) b l = (v, j) → j.bad ||| d = 0 →
    ∃ t, Sys2Proof.Machine.exec (.blockReplay ub d) s = .next t
      ∧ ((t.tile (unitOf ub)).block b).failed = false
      ∧ (t.tile (unitOf ub)).replays = satAdd 32 (s.tile (unitOf ub)).replays 1
      ∧ t.hbm = s.hbm ∧ t.tstore = s.tstore ∧ t.sync = s.sync)

/-- R295, R296, R300, R301: a clean walk-through that is due, of a tile that is neither held for a repair nor being spared, makes a
journal entry, goes on to the next format family of the rotation, starts the interval again and opens the next suspect window
at the tile's PSEQ; a restoring one leaves the active weights (R97). One of a vector unit, stream engine or cluster starts its
interval again and opens its window at the LTC.

R298, R301: a failed walk-through that is due, of a tile that is neither held for a repair nor being spared, holds it for a locate
re-run of the arrays that disagreed and raises WALK_FAILED; the accumulators and the tile stores stand.

R132, R133: what the scrubber finds in a line that is not poisoned: an uncorrectable word poisons the line, each corrected
codeword that is not being written back already is to be written back, a clean read changes nothing; the bytes stand. What it finds is
the worse of the line's own errors and what the read adds.

It rests on the model's choices of log entries 2, 46, 59 and 128 (notes/assumptions).

Completion: under hypotheses on the state and the operands alone, its conclusion is that exec answers a next state for
`walkThrough` (WALK_THROUGH), `tsScrub` (TS_SCRUB). -/
def Obligations.WalkThroughsAndScrubsEnd : Prop :=
  ((∀ (s : State) (n : Nat) (arrays : BitVec 4), s.rst.pllLost = false → (s.tile n).repair = .none →
     (s.tserv.get {} n).settling = false → s.tileDue n = true →
     ∃ t, Sys2Proof.Machine.exec (.walkThrough (.tile n) false arrays) s = .next t
       ∧ (t.tile n).family
           = ((s.tile n).family + 1) % (if strict (s.bk (n + 1024 * s.lastBank.get 0 n)).mode = true then 5 else 4)
       ∧ (s.restoring n = true → (t.tile n).active = (s.tile n).active)
       ∧ (t.tile n).walked = { since := s.beats.get 0 (tierOf n) }
       ∧ (t.tile n).cleanPseq = (s.tile n).pseq.toNat ∧ (t.tile n).cleanLtc = s.ltc.toNat
       ∧ (t.tile n).cleanIndex = some (s.tile n).jnext
       ∧ (t.tile n).jnext = ((s.tile n).jnext + 1) % 65536
       ∧ ((s.tile n).jbuf.length < 7 → (t.tile n).jbuf
           = (s.tile n).jbuf ++ [BitVec.ofNat 64 (walkEntry (s.tile n).pseq.toNat false)])
       ∧ (t.tile n).acc = (s.tile n).acc ∧ (t.tile n).blocks = (s.tile n).blocks
       ∧ (∀ k, k ≠ n → t.tile k = s.tile k)
       ∧ t = { s with tiles := t.tiles, health := t.health, fresh := t.fresh, counts := t.counts, keeper := t.keeper, pins := t.pins, chans := t.chans })
   ∧ (∀ (s : State) (u : WalkUnit) (cls n i : Nat) (arrays : BitVec 4), s.rst.pllLost = false →
     (u = .vectorUnit n ∧ cls = 2 ∧ (s.tserv.get {} n).settling = false)
       ∨ (u = .streamEngine n ∧ cls = 3 ∧ (s.sserv.get {} n).settling = false)
       ∨ (u = .cluster n ∧ cls = 5) →
     healthIdx cls n = some i → s.otherDue cls n = true →
     ∃ t, Sys2Proof.Machine.exec (.walkThrough u false arrays) s = .next t
       ∧ (t.hl i).since = s.ltc.toNat ∧ (t.hl i).walked = s.beats.get 0 (beatDomain cls n)
       ∧ (∀ k, k ≠ i → t.hl k = s.hl k)
       ∧ t = { s with health := t.health, fresh := t.fresh, counts := t.counts, keeper := t.keeper, pins := t.pins, chans := t.chans }))
  ∧ (∀ (s : State) (n : Nat) (arrays : BitVec 4), s.rst.pllLost = false → (s.tile n).repair = .none →
     (s.tserv.get {} n).settling = false → s.tileDue n = true → arrays ≠ 0 →
     ∃ t, Sys2Proof.Machine.exec (.walkThrough (.tile n) true arrays) s = .next t
       ∧ (t.tile n).repair = .locate arrays none false
       ∧ (t.tile n).acc = (s.tile n).acc
       ∧ (t.keeper.general.get {} (s.keeper.nextGen % 520192)).code = cWalkFailed
       ∧ (∀ k, k ≠ n → t.tile k = s.tile k)
       ∧ t = { s with tiles := t.tiles, health := t.health, tserv := t.tserv, tspares := t.tspares, fresh := t.fresh,
                      counts := t.counts, keeper := t.keeper, pins := t.pins, chans := t.chans })
  ∧ (∀ (s : State) (tile line : Nat) (e : Ecc), s.rst.pllLost = false → tile < 512 → line < 65536 →
     s.tpoison.contains (tsKey tile (64 * line) / 64) = false →
     ∃ t, Sys2Proof.Machine.exec (.tsScrub tile line e) s = .next t
       ∧ t = { s with tpoison := t.tpoison, tfixed := t.tfixed, terr := t.terr, tiles := t.tiles, health := t.health,
                      tserv := t.tserv, tspares := t.tspares, fresh := t.fresh, counts := t.counts, keeper := t.keeper,
                      pins := t.pins, chans := t.chans }
       ∧ (match s.tsFinds tile line e with
         | .clean => t = s
         | .corrected => t.tpoison = s.tpoison ∧ ∀ k ∈ s.firstFound (tsKey tile (64 * line) / 64) e,
             fixKey (tsKey tile (64 * line) / 64) k ∈ t.tfixed
         | .uncorrectable _ => tsKey tile (64 * line) / 64 ∈ t.tpoison))

/-! ## Tiles: the vector unit -/

/-- R46, R141: every vector step that, its lines once read, has read no poisoned line and whose checks all pass has its effect and has
then acted; nothing outside its tile's store, registers, generators and accumulator blocks changes but the credits its releases return and
what they and its reads record. `u` is the state after its lines passed their code.
It rests on the model's choices of log entries 11, 37, 45, 51, 52, 58 and 59 (notes/assumptions). -/
def Obligations.VectorStepsAct : Prop :=
  ∀ p ∈ vectorCommands, ∀ (s u : State) (ub : Nat) (f : Fired), s.firedStep ub (unacted p.1) = some f →
    s.loadSources (unitOf ub) p.1 (vstepOf f.q.word) = u →
    u.readsPoison (unitOf ub) p.1 (vstepOf f.q.word) = false →
    ∃ t, Sys2Proof.Machine.exec (p.2 ub {}) s = .next t
      ∧ t = { u with banks := t.banks, tiles := t.tiles, tstore := t.tstore, tfixed := t.tfixed, tpoison := t.tpoison,
                     terr := t.terr, free := t.free, net := t.net, fresh := t.fresh, counts := t.counts, keeper := t.keeper, pins := t.pins, chans := t.chans }
      ∧ (∀ k, k ≠ unitOf ub → t.tile k = u.tile k)
      ∧ Acted s t ub f

/-- R141, R145, R148: one vector of registers. Each lane that LMASK sets takes the opcode's result of the same lanes of A and B:
a move, sum, difference, product, fused product and sum in strict mode, maximum, minimum, and the transcendental
functions, whose ordinary values are free within the bounds of R148.

R141, R142, R150: VSEL writes every lane, from A where LMASK is set and from B elsewhere; VPERM takes the lane of A that
B's lane names, and zero where it names none; VRAND draws sixteen bits in each set lane; VCMP sets the lanes of a lane mask
that LMASK sets; VSCL loads a scalar register from one lane; VSEED seeds every lane generator.

It rests on the model's choices of log entries 41, 43, 55 and 57 (notes/assumptions).

Completion: under hypotheses on the state and the operands alone, its conclusion is that exec answers a next state for
`vmov` (VMOV), `vadd` (VADD), `vsub` (VSUB), `vmul` (VMUL), `vfma` (VFMA), `vmax` (VMAX), `vmin` (VMIN), `vexp2`
(VEXP2), `vlog2` (VLOG2), `vrcp` (VRCP), `vrsq` (VRSQ), `vsel` (VSEL), `vperm` (VPERM), `vrand` (VRAND), `vcmp` (VCMP),
`vscl` (VSCL), `vseed` (VSEED). -/
def Obligations.VectorLanesAct : Prop :=
  (∀ (s : State) (ub : Nat) (f : Fired) (na nb n : Nat),
     let u := unitOf ub
     let m := f.mode
     let A := fun i => (s.tile u).lane na i
     let B := fun i => (s.tile u).lane nb i
     let D := fun i => (s.tile u).lane n i
     let std := standardSet f.tables
     (RegisterStep s ub 0x20 f na nb n → ∃ t, Sys2Proof.Machine.exec (.vmov ub {}) s = .next t
       ∧ RegisterWritten s t ub f n (s.stepMask ub f) (fun i => toF32 m (readF32 m (A i))))
     ∧ (RegisterStep s ub 0x21 f na nb n → ∃ t, Sys2Proof.Machine.exec (.vadd ub {}) s = .next t
       ∧ RegisterWritten s t ub f n (s.stepMask ub f) (fun i => toF32 m ((readF32 m (A i)).add (readF32 m (B i)))))
     ∧ (RegisterStep s ub 0x22 f na nb n → ∃ t, Sys2Proof.Machine.exec (.vsub ub {}) s = .next t
       ∧ RegisterWritten s t ub f n (s.stepMask ub f) (fun i => toF32 m ((readF32 m (A i)).add (readF32 m (B i)).neg)))
     ∧ (RegisterStep s ub 0x23 f na nb n → ∃ t, Sys2Proof.Machine.exec (.vmul ub {}) s = .next t
       ∧ RegisterWritten s t ub f n (s.stepMask ub f) (fun i => toF32 m ((readF32 m (A i)).mul (readF32 m (B i)))))
     ∧ (RegisterStep s ub 0x24 f na nb n → strict m = true → ∃ t, Sys2Proof.Machine.exec (.vfma ub {}) s = .next t
       ∧ RegisterWritten s t ub f n (s.stepMask ub f)
           (fun i => toF32 m (((readF32 m (A i)).mul (readF32 m (B i))).add (readF32 m (D i)))))
     ∧ (RegisterStep s ub 0x25 f na nb n → ∃ t, Sys2Proof.Machine.exec (.vmax ub {}) s = .next t
       ∧ RegisterWritten s t ub f n (s.stepMask ub f) (fun i => extremum m true (A i) (B i)))
     ∧ (RegisterStep s ub 0x26 f na nb n → ∃ t, Sys2Proof.Machine.exec (.vmin ub {}) s = .next t
       ∧ RegisterWritten s t ub f n (s.stepMask ub f) (fun i => extremum m false (A i) (B i)))
     ∧ (RegisterStep s ub 0x29 f na nb n → ∃ t, Sys2Proof.Machine.exec (.vexp2 ub {}) s = .next t
       ∧ RegisterWritten s t ub f n (s.stepMask ub f) (fun i => exp2N std m (readF32 m (A i))))
     ∧ (RegisterStep s ub 0x2A f na nb n → ∃ t, Sys2Proof.Machine.exec (.vlog2 ub {}) s = .next t
       ∧ RegisterWritten s t ub f n (s.stepMask ub f) (fun i => log2N std m (readF32 m (A i))))
     ∧ (RegisterStep s ub 0x2B f na nb n → ∃ t, Sys2Proof.Machine.exec (.vrcp ub {}) s = .next t
       ∧ RegisterWritten s t ub f n (s.stepMask ub f) (fun i => rcpN std m (readF32 m (A i))))
     ∧ (RegisterStep s ub 0x2C f na nb n → ∃ t, Sys2Proof.Machine.exec (.vrsq ub {}) s = .next t
       ∧ RegisterWritten s t ub f n (s.stepMask ub f) (fun i => rsqN std m (readF32 m (A i)))))
  ∧ (∀ (s : State) (ub : Nat) (f : Fired) (na nb n : Nat),
     let u := unitOf ub
     let m := f.mode
     let A := fun i => (s.tile u).lane na i
     let B := fun i => (s.tile u).lane nb i
     let mask := s.stepMask ub f
     let v := vstepOf f.q.word
     (RegisterStep s ub 0x28 f na nb n → ∃ t, Sys2Proof.Machine.exec (.vsel ub {}) s = .next t
       ∧ RegisterWritten s t ub f n (-1) (fun i => toF32 m (readF32 m (if laneOn mask i = true then A i else B i))))
     ∧ (RegisterStep s ub 0x30 f na nb n → ∃ t, Sys2Proof.Machine.exec (.vperm ub {}) s = .next t
       ∧ RegisterWritten s t ub f n mask (fun i => match permIndex (readF32 m (B i)) with
           | none => 0
           | some j => toF32 m (readF32 m (A j))))
     ∧ (RegisterStep s ub 0x31 f na nb n → ∃ t, Sys2Proof.Machine.exec (.vrand ub {}) s = .next t
       ∧ RegisterWritten s t ub f n mask (fun i => toF32 m (.fin (s.peek u i) (if v.aux % 2 = 1 then 0 else -16)))
       ∧ ∀ i, i < 128 → laneOn mask i = true → (t.tile u).gens.get 0 i = xorshift (s.gen u i))
     ∧ (RegisterStep s ub 0x27 f na nb n → ∃ t, Sys2Proof.Machine.exec (.vcmp ub {}) s = .next t
       ∧ t = { s with banks := t.banks, tiles := t.tiles, free := t.free }
       ∧ t.tile u = { s.tile u with lmasks := (t.tile u).lmasks, lpoison := (t.tile u).lpoison }
       ∧ (∀ i, i < 128 → bitOf ((t.tile u).lmasks.get 0 (bits v.dst 0 3)) i
           = if laneOn mask i = true then compare (bits v.aux 0 3) (readF32 m (A i)) (readF32 m (B i))
             else bitOf ((s.tile u).lmask (bits v.dst 0 3)) i)
       ∧ Acted s t ub f)
     ∧ (RegisterStep s ub 0x33 f na nb n → laneOn mask v.aux = true →
       ∃ t, Sys2Proof.Machine.exec (.vscl ub {}) s = .next t
       ∧ t = { s with banks := t.banks, tiles := t.tiles, free := t.free }
       ∧ t.tile u = { s.tile u with sregs := (t.tile u).sregs, spoison := (t.tile u).spoison }
       ∧ (∀ k, (t.tile u).sregs.get 0 k = if k = bits v.dst 0 4 then toF32 m (readF32 m (A v.aux))
           else (s.tile u).sregs.get 0 k)
       ∧ Acted s t ub f)
     ∧ (RegisterStep s ub 0x32 f na nb n →
       ∃ t, Sys2Proof.Machine.exec (.vseed ub {}) s = .next t
       ∧ t = { s with banks := t.banks, tiles := t.tiles }
       ∧ t.tile u = { s.tile u with gens := (t.tile u).gens, gpoison := (t.tile u).gpoison }
       ∧ (∀ i, i < 128 → (t.tile u).gens.get 0 i = seedLane (s.seedOf u v) i)
       ∧ Acted s t ub f))

/-- R146, R147: VRED leaves, in lane k of its destination, the reduction of group k, and zero in the lanes past the groups (a sum of
more than two terms that are not zero is in an open order). VSMX leaves in V30 the running maxima, where clear lanes count as
−Inf, in V29 the factor of each running sum, and in its destination 2 to the power of each set lane less its group's maximum,
and zero in clear lanes. VCMB leaves in V30 the maxima of two partial softmaxes and in V29 the factor of the first. A maximum of −Inf gives the
factor 1. The sums in V31 are in an open order, and nothing is said of them.
It rests on the model's choices of log entries 42, 44, 53 and 54 (notes/assumptions).

Completion: under hypotheses on the state and the operands alone, its conclusion is that exec answers a next state for
`vred` (VRED), `vsmx` (VSMX), `vcmb` (VCMB). -/
def Obligations.VectorGroupsReduce : Prop :=
  ∀ (s : State) (ub : Nat) (f : Fired) (na nb n : Nat),
    let u := unitOf ub
    let m := f.mode
    let mask := s.stepMask ub f
    let v := vstepOf f.q.word
    let size := groupSize (v.aux / 4)
    let std := standardSet f.tables
    let top := fun k => groupMax m ((s.tile u).laneNum m 30 k)
      (groupLanes [((s.tile u).regOpd m na).v] mask size k ++ groupLanes [List.replicate 128 minusInf] (~~~mask) size k)
    let both := fun k => extremumN m true ((s.tile u).laneNum m 30 k)
      (if laneOn mask k = true then (s.tile u).laneNum m na k else minusInf)
    (RegisterStep s ub 0x2D f na nb n → ∃ t, Sys2Proof.Machine.exec (.vred ub {}) s = .next t
      ∧ RegisterWritten s t ub f n (-1) (fun k => if k < 128 / size
          then reduceGroup m (v.aux % 4) (groupLanes [((s.tile u).regOpd m na).v] mask size k) (s.free + 128 + k) else 0))
    ∧ (RegisterStep s ub 0x2E f na nb n → n ≠ 29 → n ≠ 30 → n ≠ 31 →
      ∃ t, Sys2Proof.Machine.exec (.vsmx ub {}) s = .next t
      ∧ t = { s with banks := t.banks, tiles := t.tiles, free := t.free }
      ∧ (∀ k, k < 128 / size → (t.tile u).lane 30 k
          = toF32 m (top k)
        ∧ (t.tile u).lane 29 k = (if top k = minusInf then 0x3F800000 else expDiff std m ((s.tile u).laneNum m 30 k) (top k)))
      ∧ (∀ i, i < 128 → (t.tile u).lane n i
          = if laneOn mask i = true then expDiff std m ((s.tile u).laneNum m na i) (top (i / size)) else 0)
      ∧ Acted s t ub f)
    ∧ (RegisterStep s ub 0x2F f na nb n → n ≠ 29 → n ≠ 30 → n ≠ 31 →
      ∃ t, Sys2Proof.Machine.exec (.vcmb ub {}) s = .next t
      ∧ t = { s with banks := t.banks, tiles := t.tiles, free := t.free }
      ∧ (∀ k, k < 128 / size → (t.tile u).lane 30 k
          = toF32 m (both k)
        ∧ (t.tile u).lane 29 k = (if both k = minusInf then 0x3F800000 else expDiff std m ((s.tile u).laneNum m 30 k) (both k)))
      ∧ Acted s t ub f)

/-! ## Stream engines and translation -/

/-- R160, R161: a DLOAD, or one whose page has come, takes the 128 bytes it reads; the end of the fetch of a sound descriptor fills
the slot with it, its use count 0, and completes the step.

R160, R163, R168, R169, R174: a STREAM step makes its context ACTIVE on the descriptor and use count that it captured as it
fired, at transaction 0; only a RECV then sends anything, the grants of its free slots. An RFREE whose slots have landed frees
them from the tail of the ring, a RECV reserving them anew for its sender and granting them, and completes.

It rests on the model's choices of log entries 60, 63, 64, 65, 73, 77 and 80 (notes/assumptions).

Completion: under hypotheses on the state and the operands alone, its conclusion is that exec answers a next state for
`dload` (DLOAD), `dloadResume` (DLOAD_RESUME), `dloadComplete` (DLOAD_COMPLETE), `stream` (STREAM), `rfree` (RFREE). -/
def Obligations.StreamsLoadStartAndFree : Prop :=
  ((∀ (s u : State) (ub : Nat) (f : Fired) (l : List Byte) (p : Bool),
     s.firedStep ub (fun f => unacted 0x60 f && !f.waiting) = some f →
     s.fetchVa (seInit (unitOf ub - 512)) (s.en f.q.ens).asid (opnd f.q.word 7 41 * 128) 128 = (u, .bytes l p) →
     ∃ t, Sys2Proof.Machine.exec (.dload ub) s = .next t
       ∧ t = { u with banks := t.banks }
       ∧ (t.bk ub).fired = modFirst (· == f)
           (fun f => { f with acted := true, waiting := false, data := l, poisoned := p }) (u.bk ub).fired
       ∧ (∀ vb, vb ≠ ub → t.bk vb = u.bk vb))
   ∧ (∀ (s u : State) (ub : Nat) (f : Fired) (l : List Byte) (p : Bool),
     s.firedStep ub (fun f => unacted 0x60 f && f.waiting && f.released) = some f →
     s.fetchVa (seInit (unitOf ub - 512)) (s.en f.q.ens).asid (opnd f.q.word 7 41 * 128) 128 = (u, .bytes l p) →
     ∃ t, Sys2Proof.Machine.exec (.dloadResume ub) s = .next t
       ∧ t = { u with banks := t.banks }
       ∧ (t.bk ub).fired = modFirst (· == f)
           (fun f => { f with acted := true, waiting := false, data := l, poisoned := p }) (u.bk ub).fired
       ∧ (∀ vb, vb ≠ ub → t.bk vb = u.bk vb))
   ∧ (∀ (s : State) (ub : Nat) (slot : BitVec 6) (f : Fired),
     s.firedStep ub (fun f => opOf f.q.word == 0x60 && f.acted && opnd f.q.word 0 6 == slot.toNat) = some f →
     f.poisoned = false → descOk f.data = true →
     ∃ t, Sys2Proof.Machine.exec (.dloadComplete ub slot) s = .next t
       ∧ t = { s with ses := t.ses, banks := t.banks, ens := t.ens,
                      net := s.net ++ s.emission ub (emitOf f.q.word) f.q.ref }
       ∧ (∀ k, (t.se (unitOf ub - 512)).slots.get {} k = if k = slot.toNat
           then { loaded := true, desc := f.data, uses := 0 } else (s.se (unitOf ub - 512)).slots.get {} k)
       ∧ (t.se (unitOf ub - 512)).ctxs = (s.se (unitOf ub - 512)).ctxs
       ∧ (∀ n, n ≠ unitOf ub - 512 → t.se n = s.se n)
       ∧ t.bk ub = { s.bk ub with fired := dropFirst (s.bk ub).fired f }
       ∧ (∀ vb, vb ≠ ub → t.bk vb = s.bk vb)))
  ∧ ((∀ (s : State) (ub : Nat) (f : Fired), s.firedStep ub (unacted 0x61) = some f →
     let n := unitOf ub - 512
     let o := streamOf f.q.word
     ∃ t, Sys2Proof.Machine.exec (.stream ub) s = .next t
       ∧ t = { s with ses := t.ses, banks := t.banks, zegus := t.zegus, fresh := t.fresh, counts := t.counts,
                      keeper := t.keeper, pins := t.pins, chans := t.chans }
       ∧ (descDir f.data ≠ 4 → t = { s with ses := t.ses, banks := t.banks })
       ∧ (t.ctx n o.ctx).st = .active ∧ (t.ctx n o.ctx).desc = f.data
       ∧ (t.ctx n o.ctx).use = f.use ∧ (t.ctx n o.ctx).ub = ub
       ∧ (t.ctx n o.ctx).next = 0 ∧ (t.ctx n o.ctx).low = 0 ∧ (t.ctx n o.ctx).outs = [] ∧ (t.ctx n o.ctx).done = []
       ∧ (t.se n).slots = (s.se n).slots
       ∧ (∀ c, c ≠ o.ctx → t.ctx n c = s.ctx n c)
       ∧ (∀ m, m ≠ n → t.se m = s.se m)
       ∧ Acted s t ub f)
   ∧ (∀ (s : State) (ub : Nat) (f : Fired), s.firedStep ub (unacted 0x62) = some f →
     let n := unitOf ub - 512
     let c := opnd f.q.word 0 3
     let k := opnd f.q.word 4 14
     (s.ctx n c).tailLanded k = true →
     ∃ t, Sys2Proof.Machine.exec (.rfree ub) s = .next t
       ∧ t = { s with ses := t.ses, banks := t.banks, ens := t.ens, zegus := t.zegus, net := t.net, fresh := t.fresh,
                      counts := t.counts, keeper := t.keeper, pins := t.pins, chans := t.chans }
       ∧ t.net = s.net ++ s.emission ub (emitOf f.q.word) f.q.ref
       ∧ (t.ctx n c).tail = ((s.ctx n c).tail + k) % (s.ctx n c).ringSlots
       ∧ (t.ctx n c).slots = (if descDir (s.ctx n c).desc = 4 ∧ ((s.ctx n c).st = .active ∨ (s.ctx n c).st = .halted)
           then ((s.ctx n c).freeTail k).reserveFree.slots else ((s.ctx n c).freeTail k).slots)
       ∧ t.ctx n c = { s.ctx n c with tail := (t.ctx n c).tail, slots := (t.ctx n c).slots }
       ∧ (∀ d, d ≠ c → t.ctx n d = s.ctx n d)
       ∧ (∀ m, m ≠ n → t.se m = s.se m)
       ∧ t.bk ub = { s.bk ub with fired := dropFirst (s.bk ub).fired f }
       ∧ (∀ vb, vb ≠ ub → t.bk vb = s.bk vb)))

/-- R157, R163, R170–R172, R273: the context whose turn it is issues the next transaction its tags allow, and the turn passes on: it
is outstanding with its parts, a new one raises NEXT by one, and where every part lies in HBM one request goes to the controller
for each part, its poisoned pieces apart from the others. `w` is the state in which the turn has passed, `u` the one after
translation, `x` the one after the source's lines are read. A read of an accumulator source begins with the first transaction
(R167).

R181: a table walk puts the leaf it finds into the requester's translation cache, where no other entry then maps the
address, and changes nothing but the caches and what its reads of the tables may change.

It rests on the model's choices of log entries 61, 66, 67, 70, 71, 78, 79 and 123 (notes/assumptions).

Completion: under hypotheses on the state and the operands alone, its conclusion is that exec answers a next state for
`transactionIssue` (TRANSACTION_ISSUE), `tableWalk` (TABLE_WALK). -/
def Obligations.TransactionsAreTranslatedAndIssued : Prop :=
  ((∀ (s u : State) (se : Nat) (ctx : BitVec 3) (k : Nat) (fresh : Bool) (parts : List Part),
     let v := s.ctx se ctx.toNat
     let w := s.setSe se { s.se se with turn := (ctx.toNat + 1) % 8 }
     s.turnOf se = some ctx.toNat →
     s.candidate se v = some (k, fresh) → accSource v.desc = false → v.began = false →
     w.plan se v k = (u, .ok parts) → (∀ p ∈ parts, p.stack < 64) →
     let moves := descDir v.desc == 1 || descDir v.desc == 2
     let x := if moves then u.loadSource se ctx.toNat k else u
     let data := x.issueData se v k
     let sent := parts.flatMap (fun p => p.split data.1 (pieceWidth v.desc) (sendsToRing v.desc))
     let y := (x.ctx se ctx.toNat).issued k fresh sent data
     ∃ t, Sys2Proof.Machine.exec (.transactionIssue se ctx) s = .next t
       ∧ t = { x with ses := t.ses, counts := t.counts, waits := t.waits, net := t.net }
       ∧ t.ctx se ctx.toNat = y
       ∧ (t.ctx se ctx.toNat).next = (if fresh then v.next + 1 else v.next)
       ∧ (∀ d, d ≠ ctx.toNat → t.ctx se d = s.ctx se d)
       ∧ (t.se se).turn = (ctx.toNat + 1) % 8
       ∧ t.net = x.net ++ sent.map (fun p =>
           Packet.req (hbmRequest se ctx.toNat k y p (if moves then x.dataEpoch se v else 0)
             (p.bad data.1 (pieceWidth v.desc)) data.2)))
   ∧ (∀ (s : State) (se : Nat) (ctx : BitVec 3) (pending : Bool),
     let v := s.ctx se ctx.toNat
     let w := s.setSe se { s.se se with turn := (ctx.toNat + 1) % 8 }
     s.turnOf se = some ctx.toNat →
     s.candidate se v = some (0, true) → accSource v.desc = true → v.began = false →
     s.readStart se v = .go pending →
     Sys2Proof.Machine.exec (.transactionIssue se ctx) s
       = .next ((w.beginRead se ctx.toNat pending).issue se ctx.toNat 0 true)))
  ∧ (∀ (s u : State) (r : Nat) (asid : BitVec 10) (va : BitVec 48) (found : Walk),
     s.walk (walkerOf r) asid.toNat va.toNat = (u, found) →
     ∃ t, Sys2Proof.Machine.exec (.tableWalk r asid va) s = .next t
       ∧ Served s t ∧ t = { u with tlbs := t.tlbs }
       ∧ (∀ pte big, found = .leaf pte big →
           (t.tlb r).head? = some { asid := asid.toNat, big := big, page := va.toNat / pageSize big, pte := pte }
           ∧ (t.tlb r).length ≤ tlbSize r
           ∧ ∀ x ∈ (t.tlb r).tail, x.maps asid.toNat va.toNat = false)
       ∧ ((∀ pte big, found ≠ .leaf pte big) → t = u ∧ t.tlbs = s.tlbs))

/-- R158, R172, R176, R235, R269: an answer that no earlier one of its way is ahead of and that matches an outstanding transaction of
an engine's context retires the part it answers; with its one part the transaction is no longer outstanding. Read data lands in
the slot of the transaction, byte for byte, and poisons the lines that its poisoned pieces touch. A transaction whose requests
were answered RETRY stays outstanding as they are issued again.
It rests on the model's choices of log entries 14, 69, 78, 124 and 174 (notes/assumptions).

Completion: under hypotheses on the state and the operands alone, its conclusion is that exec answers a next state for
`rdResp` (RD_RESP), `ack` (ACK), `retry` (RETRY). -/
def Obligations.AnswersRetireTransactions : Prop :=
  (∀ (s : State) (r : Resp) (n : Nat) (o : Out) (p : Part) (k pos : Nat),
    r.sub ≠ voidSub → engineOf r.init.toNat = some n →
    let c := r.sub.toNat % 8
    let v := s.ctx n c
    let w := r.data.length / 4
    let a := v.slotByte (v.slotFor o.t) + pos
    v.st = .active → landsInRing v.desc = true → o.failed = false → s.epochFits v.ub r.epoch = true →
    v.outs.find? (fun o => o.awaits r.seq.toNat r.stack r.block) = some o →
    o.part? r.stack r.block = some p → o.parts = [p] → p.pieces = [(k, pos)] →
    s.overtakes (s.sameWay (.resp r)) (.resp r) = false →
    ∃ t, Sys2Proof.Machine.exec (.rdResp r) s = .next t
      ∧ (t.ctx n c).outs.length + 1 = v.outs.length
      ∧ (∀ i, i < ((r.data.drop (k * w)).take w).length →
          t.tsByte (selTile n v.tsel) (a + i) = nth ((r.data.drop (k * w)).take w) i 0)
      ∧ (bitOf r.badLines k = true → 0 < w → (k + 1) * w ≤ r.data.length → t.tsBad (selTile n v.tsel) a w = true)
      ∧ (∀ d, d ≠ c → t.ctx n d = s.ctx n d) ∧ (∀ m, m ≠ n → t.se m = s.se m)
      ∧ t.hbm = s.hbm ∧ t.hostMem = s.hostMem ∧ t.sync = s.sync ∧ t.tiles = s.tiles)
  ∧ (∀ (s : State) (a : Ack) (n : Nat) (o : Out) (p : Part),
    a.sub ≠ voidSub → engineOf a.init.toNat = some n → a.status = .ok →
    let c := a.sub.toNat % 8
    let v := s.ctx n c
    v.st = .active → landsInRing v.desc = false → o.failed = false →
    v.outs.find? (fun o => o.awaits a.seq.toNat a.stack a.block) = some o →
    o.part? a.stack a.block = some p → o.parts = [p] →
    s.overtakes (s.sameWay (.ack a)) (.ack a) = false →
    ∃ t, Sys2Proof.Machine.exec (.ack a) s = .next t
      ∧ t = { s with ses := t.ses, banks := t.banks, ens := t.ens, net := t.net, counts := t.counts, waits := t.waits }
      ∧ (t.ctx n c).outs.length + 1 = v.outs.length
      ∧ (∀ d, d ≠ c → t.ctx n d = s.ctx n d) ∧ (∀ m, m ≠ n → t.se m = s.se m))
  ∧ (∀ (s : State) (init : BitVec 12) (sub : BitVec 4) (seq : W32) (n : Nat) (o : Out),
    s.rst.pllLost = false → engineOf init.toNat = some n →
    let c := sub.toNat % 8
    let v := s.ctx n c
    v.st = .active → v.outs.find? (fun o => o.t == seq.toNat && o.parts.any (·.retry)) = some o →
    ∃ t, Sys2Proof.Machine.exec (.retry init sub seq) s = .next t
      ∧ (t.ctx n c).outs = modFirst (· == o)
          (fun o => { o with parts := o.parts.map (fun p => { p with retry := false }) }) v.outs
      ∧ t.ctx n c = { v with outs := (t.ctx n c).outs }
      ∧ (∀ d, d ≠ c → t.ctx n d = s.ctx n d) ∧ (∀ m, m ≠ n → t.se m = s.se m)
      ∧ ((∀ p ∈ o.parts, p.stack < 64) →
          t = { s with ses := t.ses, counts := t.counts, waits := t.waits, net := t.net }
          ∧ t.net.length = s.net.length + (o.parts.filter (·.retry)).length)
      ∧ t.tstore = s.tstore ∧ t.hbm = s.hbm ∧ t.sync = s.sync ∧ t.tiles = s.tiles)

/-- R176, R177, R183, R185, R188: the flush of a stream whose host writes alone are left. Where it succeeds none is left to be flushed
and the stream ends: its context is IDLE and its step completes, one that has read poison without its tokens (R133). Where it
fails the stream halts with cause HOST_ERR, its host writes to be issued again on a resume. RESUME_STREAM makes a HALTED context of
a served engine whose halt is complete ACTIVE again with what did not retire, or IDLE where nothing of its stream is left, one
whose halt is not complete resumes with it; it makes a HALTED job run; it completes OK. A stall is recorded once, by a
STREAM_STALLED record that names the context, its ring slots in use and its tags held, and changes only the mark.
It rests on the model's choices of log entries 76, 83, 90 and 202 (notes/assumptions).

Completion: under hypotheses on the state and the operands alone, its conclusion is that exec answers a next state for
`hostFlush` (HOST_FLUSH), `resumeStream` (RESUME_STREAM), `streamStalled` (STREAM_STALLED). -/
def Obligations.StreamsFlushResumeAndStall : Prop :=
  (∀ (s : State) (se : Nat) (ctx : BitVec 3),
    let v := s.ctx se ctx.toNat
    s.rst.pllLost = false → v.st = .active → v.low = descTotal v.desc → v.outs = [] → v.redo = [] → v.flushTs ≠ [] →
    ∃ t, Sys2Proof.Machine.exec (.hostFlush se ctx true) s = .next t
      ∧ (t.ctx se ctx.toNat).flushTs = [] ∧ (t.ctx se ctx.toNat).held = []
      ∧ (t.ctx se ctx.toNat).st = .idle
      ∧ (∀ f, s.firedStep v.ub (isStreamOf ctx.toNat) = some f →
          (t.bk v.ub).fired = dropFirst (s.bk v.ub).fired f
          ∧ t.net = s.net ++ (if v.spoiled then [] else s.emission v.ub (emitOf f.q.word) f.q.ref))
      ∧ (∀ vb, vb ≠ v.ub → t.bk vb = s.bk vb)
      ∧ (∀ d, d ≠ ctx.toNat → t.ctx se d = s.ctx se d)
      ∧ (∀ m, m ≠ se → t.se m = s.se m)
      ∧ t = { s with ses := t.ses, banks := t.banks, ens := t.ens, net := t.net })
  ∧ (∀ (s : State) (se : Nat) (ctx : BitVec 3),
    let v := s.ctx se ctx.toNat
    s.rst.pllLost = false → v.st = .active → v.low = descTotal v.desc → v.outs = [] → v.flushTs ≠ [] → v.resuming = false →
    ∃ t, Sys2Proof.Machine.exec (.hostFlush se ctx false) s = .next t
      ∧ (t.ctx se ctx.toNat).st = .halted ∧ (t.ctx se ctx.toNat).cause = causeHostErr
      ∧ (t.ctx se ctx.toNat).unfinished = v.flushTs ∧ (t.ctx se ctx.toNat).flushTs = []
      ∧ (∀ d, d ≠ ctx.toNat → t.ctx se d = s.ctx se d)
      ∧ (∀ m, m ≠ se → t.se m = s.se m)
      ∧ t.hbm = s.hbm ∧ t.tstore = s.tstore ∧ t.hostMem = s.hostMem ∧ t.banks = s.banks ∧ t.tiles = s.tiles)
  ∧ (∀ (s : State) (h : Issuer) (unit : BitVec 10) (ctx : BitVec 3), s.accepts h →
    unitKind unit.toNat = .stream → (s.sserv.get {} (unit.toNat - 512)).unserved = false →
    (s.begin h).mayTouch h ((s.begin h).ctx (unit.toNat - 512) ctx.toNat).ub = true →
    let n := unit.toNat - 512
    let v := s.ctx n ctx.toNat
    v.st = .halted →
    ∃ t, Sys2Proof.Machine.exec (.resumeStream h unit ctx) s = .next t
      ∧ t = { s with ses := t.ses, chans := t.chans, sync := t.sync, slotWaits := t.slotWaits, net := t.net,
                     banks := t.banks, ens := t.ens }
      ∧ (v.halting = false → v.resumed.ended = false → t.ctx n ctx.toNat = v.resumed ∧ (t.ctx n ctx.toNat).st = .active)
      ∧ (v.halting = false → v.resumed.ended = true → (t.ctx n ctx.toNat).st = .idle ∧ (t.ctx n ctx.toNat).cause = 0)
      ∧ (v.halting = true → t.ctx n ctx.toNat = { v with resuming := true })
      ∧ (t.ctx n ctx.toNat).desc = v.desc
      ∧ (∀ d, d ≠ ctx.toNat → t.ctx n d = s.ctx n d)
      ∧ (∀ m, m ≠ n → t.se m = s.se m)
      ∧ Answers s t h 0x0A stOk 0 0)
  ∧ (∀ (s : State) (h : Issuer) (unit : BitVec 10) (ctx : BitVec 3), s.accepts h →
    unitKind unit.toNat = .memory → ctx.toNat < 4 → s.stackOn (unit.toNat - 768) = true →
    (s.begin h).mayTouch h ((s.begin h).job (unit.toNat - 768) ctx.toNat).ub = true →
    (s.job (unit.toNat - 768) ctx.toNat).state = 2 →
    ∃ t, Sys2Proof.Machine.exec (.resumeStream h unit ctx) s = .next t
      ∧ t = { s with mses := t.mses, chans := t.chans }
      ∧ t.job (unit.toNat - 768) ctx.toNat
          = { s.job (unit.toNat - 768) ctx.toNat with state := 1, cause := 0, addr := 0 }
      ∧ (∀ j, j ≠ ctx.toNat → t.job (unit.toNat - 768) j = s.job (unit.toNat - 768) j)
      ∧ (∀ m, m ≠ unit.toNat - 768 → t.mse m = s.mse m)
      ∧ Answers s t h 0x0A stOk 0 0)
  ∧ (∀ (s : State) (se : Nat) (ctx : BitVec 3),
    let v := s.ctx se ctx.toNat
    s.rst.pllLost = false → v.st = .active → v.stalled = false →
    ∃ t, Sys2Proof.Machine.exec (.streamStalled se ctx) s = .next t
      ∧ t = { s with ses := t.ses, fresh := t.fresh, counts := t.counts, keeper := t.keeper, pins := t.pins, chans := t.chans }
      ∧ t.ctx se ctx.toNat = { v with stalled := true }
      ∧ (∀ d, d ≠ ctx.toNat → t.ctx se d = s.ctx se d)
      ∧ (∀ m, m ≠ se → t.se m = s.se m)
      ∧ (t.keeper.general.get {} (s.keeper.nextGen % 520192)).code = cStreamStalled
      ∧ (t.keeper.general.get {} (s.keeper.nextGen % 520192)).detail
          = ctx.toNat + 2 ^ 3 * (v.used % 2 ^ 14) + 2 ^ 17 * (v.outs.length % 2 ^ 9))

/-! ## Sync objects -/

/-- R192, R193, R196, R197, R199: an ARRIVE of n that its source may make, no earlier operation of its source on the object still on its way
ahead of it, adds n to COUNT, which stays at 2³² − 1 with OVF set, and with a SYNC_OVERFLOW record, where the sum is past that. Below
TARGET, and on an object that is COMPLETE, nothing else of the object changes; at TARGET or past it the object completes: GENERATION
goes on by one, COMPLETE is set and the waiters leave, each with its release, or with AUTO_RESET the count wraps once for each TARGET
reached; of a TREE object a token goes to WTK of every member of its ensemble.

R67, R199, R200: an operation of a unit that may not operate on the object, an arrival of a MODE step at what is no barrier of its
ensemble, and one at a TREE object whose ensemble does not run, are refused: a record, the object stands, and the ensemble of the
step that sent it, where it runs, is FAULTED with the record's code. A step that waits for the answer of a refused operation ends
without its tokens (the model's choice).

It rests on the model's choices of log entries 14 and 86 (notes/assumptions).

Completion: under hypotheses on the state and the operands alone, its conclusion is that exec answers a next state for
`arrive` (ARRIVE), `set` (SET). -/
def Obligations.ArrivalsCountOrAreRefused : Prop :=
  (∀ (s : State) (a : Agent) (obj : BitVec 15) (n : W32),
     let o := s.obj obj.toNat
     let sum := o.count.toNat + n.toNat
     let st := s.arrivalStep a obj.toNat n.toNat
     let e := if st.ens < 8 then st.ens else s.agentEns a
     s.overtakes (operates a obj.toNat true) (.arrive a obj.toNat n.toNat st) = false →
     s.mayOp a e obj.toNat 0 = true → (isModeArrival a = true → o.modeBarrier e = true) →
     (o.tree = true → (s.en o.owner.toNat).st = .running) →
     ∃ t, Sys2Proof.Machine.exec (.arrive a obj n) s = .next t
       ∧ (sum < 2 ^ 32 → (o.complete = true ∨ sum < o.target.toNat) →
           t.obj obj.toNat = { o with count := BitVec.ofNat 32 sum }
           ∧ t = { s with sync := t.sync, chans := t.chans, net := dropFirst s.net (.arrive a obj.toNat n.toNat st) })
       ∧ (sum < 2 ^ 32 → o.complete = false → o.target.toNat ≤ sum → (o.auto = false ∨ o.target = 0) → t.obj obj.toNat
           = { o with count := BitVec.ofNat 32 sum, complete := true, gen := o.gen + 1, waiters := [] })
       ∧ (sum < 2 ^ 32 → o.complete = false → o.target.toNat ≤ sum → o.auto = true → o.target ≠ 0 → t.obj obj.toNat
           = { o with count := BitVec.ofNat 32 (sum % o.target.toNat),
                      gen := o.gen + BitVec.ofNat 8 (sum / o.target.toNat), waiters := [] })
       ∧ (2 ^ 32 ≤ sum → t.obj obj.toNat = ({ o with count := 0xFFFFFFFF, ovf := true } : SyncObj).settle.2)
       ∧ (2 ^ 32 ≤ sum → o.complete = true →
           (t.keeper.general.get {} (s.keeper.nextGen % 520192)).code = cSyncOverflow)
       ∧ (o.complete = false → o.target.toNat ≤ sum →
           (∀ w ∈ o.waiters, Packet.syncResp w obj.toNat ∈ t.net)
           ∧ (o.tree = true → o.wtk.toNat < 16 → o.owner.toNat < 8 → ∀ ub ∈ (s.en o.owner.toNat).ubs,
               Packet.token (homeSource obj.toNat) ub o.wtk.toNat ∈ t.net))
       ∧ (∀ k, k ≠ obj.toNat → t.obj k = s.obj k)
       ∧ t.hbm = s.hbm ∧ t.tstore = s.tstore ∧ t.hostMem = s.hostMem ∧ t.tiles = s.tiles ∧ t.banks = s.banks)
  ∧ ((∀ (s : State) (ub : Nat) (m : Bool) (obj : BitVec 15) (n : W32),
     let a := Agent.unit ub m
     let st := s.arrivalStep a obj.toNat n.toNat
     let e := if st.ens < 8 then st.ens else s.agentEns a
     let o := s.obj obj.toNat
     let denied := s.mayOp a e obj.toNat 0 = false ∨ (m = true ∧ o.modeBarrier e = false)
     let code := if s.mayOp a e obj.toNat 0 = false ∨ (m = true ∧ o.modeBarrier e = false) then cSyncDenied else cSyncTreeIdle
     s.overtakes (operates a obj.toNat true) (.arrive a obj.toNat n.toNat st) = false →
     (denied ∨ (o.tree = true ∧ (s.en o.owner.toNat).st ≠ .running)) → e < 8 → (s.en e).st = .running →
     ∃ t, Sys2Proof.Machine.exec (.arrive a obj n) s = .next t
       ∧ (t.keeper.general.get {} (s.keeper.nextGen % 520192)).code = code
       ∧ (t.en e).st = .faulted ∧ (t.en e).fault = code
       ∧ (∀ d, d ≠ e → t.en d = s.en d)
       ∧ t = { s with net := t.net, ens := t.ens, fresh := t.fresh, counts := t.counts, keeper := t.keeper, pins := t.pins,
                      chans := t.chans })
   ∧ (∀ (s : State) (ub : Nat) (obj : BitVec 15) (x : W32) (f : Fired),
     let a := Agent.unit ub false
     let st := s.waitingStep a
     let e := if st.ens < 8 then st.ens else s.agentEns a
     s.overtakes (operates a obj.toNat false) (.syncOp a obj.toNat 2 x.toNat false) = false →
     s.allowed a obj.toNat 2 = false → s.firedStep ub (waitsAt obj.toNat) = some f → e < 8 → (s.en e).st = .running →
     ∃ t, Sys2Proof.Machine.exec (.set a obj x) s = .next t
       ∧ t.sync = s.sync
       ∧ (t.keeper.general.get {} (s.keeper.nextGen % 520192)).code = cSyncDenied
       ∧ (t.en e).st = .faulted ∧ (t.en e).fault = cSyncDenied
       ∧ t.bk ub = { s.bk ub with fired := dropFirst (s.bk ub).fired f }
       ∧ (∀ vb, vb ≠ ub → t.bk vb = s.bk vb)))

/-- R193, R194, R196: what an operation does at the object's home, where its source may do it and no earlier one of its
source is still on its way. WAIT is answered at once on a COMPLETE object; else it takes one of four waiter slots, or where they
are taken the object stands, a host's command ends with BUSY and any other agent is to send it again; SET writes COUNT, RESET
writes COUNT 0, TARGET and AUTO_RESET and clears COMPLETE, then each is checked for completion and answered; READ sends the
object's image and changes nothing of it.

R185, R194, R196, R269: an answer that is on its way, and that no earlier one of its home's to the agent is ahead of, ends the wait
of the agent that asked: a unit's SYNC step completes, a Caller context's branch is released, a halted stream resumes, and a host's
command completes OK, with the image where it read; a WAIT that found the four slots occupied is sent again. A host's SYNC sends
its operation.

It rests on the model's choices of log entries 14, 84 and 87 (notes/assumptions).

Completion: under hypotheses on the state and the operands alone, its conclusion is that exec answers a next state for
`wait` (WAIT), `set` (SET), `reset` (RESET), `read` (READ), `syncResp` (SYNC_RESP), `waitRetry` (WAIT_RETRY), `sync`
(SYNC). -/
def Obligations.SyncOperationsAreDoneAndAnswered : Prop :=
  ((∀ (s : State) (a : Agent) (obj : BitVec 15), s.allowed a obj.toNat 1 = true →
     s.overtakes (operates a obj.toNat false) (.syncOp a obj.toNat 1 0 false) = false →
     ((s.obj obj.toNat).complete = true → Sys2Proof.Machine.exec (.wait a obj) s
       = .next { s with net := dropFirst s.net (.syncOp a obj.toNat 1 0 false) ++ [.syncResp a obj.toNat] })
     ∧ ((s.obj obj.toNat).complete = false → (s.obj obj.toNat).waiters.length < 4 →
       ∃ t, Sys2Proof.Machine.exec (.wait a obj) s = .next t
         ∧ t = { s with sync := t.sync, net := dropFirst s.net (.syncOp a obj.toNat 1 0 false) }
         ∧ t.obj obj.toNat = { s.obj obj.toNat with waiters := (s.obj obj.toNat).waiters ++ [a] }
         ∧ ∀ k, k ≠ obj.toNat → t.obj k = s.obj k)
     ∧ ((s.obj obj.toNat).complete = false → 4 ≤ (s.obj obj.toNat).waiters.length →
       ∃ t, Sys2Proof.Machine.exec (.wait a obj) s = .next t
         ∧ t = { s with net := dropFirst s.net (.syncOp a obj.toNat 1 0 false), counts := t.counts, waits := t.waits,
                        slotWaits := t.slotWaits, chans := t.chans }
         ∧ ((∀ h, a ≠ .host h) → t.slotWaits = s.slotWaits ++ [(a, obj.toNat)] ∧ t.chans = s.chans)
         ∧ (∀ h, a = .host h → (s.chan h.chan).disabler = none → h.tag ∈ (s.chan h.chan).inflight →
             t.slotWaits = s.slotWaits ∧ Answers s t h 0x06 stBusy 0 0)))
   ∧ (∀ (s : State) (a : Agent) (obj : BitVec 15) (x : W32), s.allowed a obj.toNat 2 = true →
     s.overtakes (operates a obj.toNat false) (.syncOp a obj.toNat 2 x.toNat false) = false →
     ∃ t, Sys2Proof.Machine.exec (.set a obj x) s = .next t
       ∧ t.obj obj.toNat = ({ s.obj obj.toNat with count := x } : SyncObj).settle.2
       ∧ t.net.getLast? = some (.syncResp a obj.toNat)
       ∧ (∀ k, k ≠ obj.toNat → t.obj k = s.obj k)
       ∧ t.hbm = s.hbm ∧ t.tstore = s.tstore ∧ t.hostMem = s.hostMem ∧ t.tiles = s.tiles ∧ t.banks = s.banks)
   ∧ (∀ (s : State) (a : Agent) (obj : BitVec 15) (x : W32) (auto : Bool), s.allowed a obj.toNat 3 = true →
     s.overtakes (operates a obj.toNat false) (.syncOp a obj.toNat 3 x.toNat auto) = false →
     ∃ t, Sys2Proof.Machine.exec (.reset a obj x auto) s = .next t
       ∧ t.obj obj.toNat
           = ({ s.obj obj.toNat with count := 0, target := x, auto := auto, complete := false } : SyncObj).settle.2
       ∧ t.net.getLast? = some (.syncResp a obj.toNat)
       ∧ (∀ k, k ≠ obj.toNat → t.obj k = s.obj k)
       ∧ t.hbm = s.hbm ∧ t.tstore = s.tstore ∧ t.hostMem = s.hostMem ∧ t.tiles = s.tiles ∧ t.banks = s.banks)
   ∧ (∀ (s : State) (a : Agent) (obj : BitVec 15), s.allowed a obj.toNat 4 = true →
     s.overtakes (operates a obj.toNat false) (.syncOp a obj.toNat 4 0 false) = false →
     Sys2Proof.Machine.exec (.read a obj) s
       = .next { s with net := dropFirst s.net (.syncOp a obj.toNat 4 0 false)
                          ++ [.image a obj.toNat (s.imageOf obj.toNat)] }))
  ∧ ((∀ (s : State) (ub : Nat) (m : Bool) (obj : BitVec 15) (f : Fired), s.imageFor (.unit ub m) obj.toNat = none →
     s.overtakes (answersOf (.unit ub m) obj.toNat) (.syncResp (.unit ub m) obj.toNat) = false →
     s.net.contains (.syncResp (.unit ub m) obj.toNat) = true → s.firedStep ub (waitsAt obj.toNat) = some f →
     ∃ t, Sys2Proof.Machine.exec (.syncResp (.unit ub m) obj) s = .next t
       ∧ t = { s with banks := t.banks, ens := t.ens, counts := t.counts, waits := t.waits,
                      net := dropFirst s.net (.syncResp (.unit ub m) obj.toNat) ++ s.emission ub (emitOf f.q.word) f.q.ref }
       ∧ t.bk ub = { s.bk ub with fired := dropFirst (s.bk ub).fired f }
       ∧ (∀ vb, vb ≠ ub → t.bk vb = s.bk vb))
   ∧ (∀ (s : State) (e : Nat) (obj : BitVec 15), s.imageFor (.caller e) obj.toNat = none →
     s.overtakes (answersOf (.caller e) obj.toNat) (.syncResp (.caller e) obj.toNat) = false →
     s.net.contains (.syncResp (.caller e) obj.toNat) = true →
     ∃ t, Sys2Proof.Machine.exec (.syncResp (.caller e) obj) s = .next t
       ∧ t = { s with ens := t.ens, net := dropFirst s.net (.syncResp (.caller e) obj.toNat), counts := t.counts,
                      waits := t.waits }
       ∧ (t.en e).brRelease = true ∧ (t.en e).brWaiting = false ∧ ∀ d, d ≠ e → t.en d = s.en d)
   ∧ (∀ (s : State) (se c : Nat) (obj : BitVec 15), s.imageFor (.stream se c) obj.toNat = none →
     s.overtakes (answersOf (.stream se c) obj.toNat) (.syncResp (.stream se c) obj.toNat) = false →
     s.net.contains (.syncResp (.stream se c) obj.toNat) = true →
     (s.ctx se c).st = .halted → (s.ctx se c).halting = false → (s.ctx se c).resumed.ended = false →
     ∃ t, Sys2Proof.Machine.exec (.syncResp (.stream se c) obj) s = .next t
       ∧ t = { s with ses := t.ses, sync := t.sync, slotWaits := t.slotWaits, net := t.net, counts := t.counts, waits := t.waits }
       ∧ t.ctx se c = (s.ctx se c).resumed ∧ (t.ctx se c).st = .active
       ∧ (∀ d, d ≠ c → t.ctx se d = s.ctx se d) ∧ (∀ n, n ≠ se → t.se n = s.se n))
   ∧ (∀ (s : State) (h : Issuer) (obj : BitVec 15), s.imageFor (.host h) obj.toNat = none →
     s.overtakes (answersOf (.host h) obj.toNat) (.syncResp (.host h) obj.toNat) = false →
     s.net.contains (.syncResp (.host h) obj.toNat) = true →
     (s.chan h.chan).disabler = none → h.tag ∈ (s.chan h.chan).inflight →
     ∃ t, Sys2Proof.Machine.exec (.syncResp (.host h) obj) s = .next t
       ∧ t = { s with chans := t.chans, net := dropFirst s.net (.syncResp (.host h) obj.toNat), counts := t.counts,
                      waits := t.waits }
       ∧ Answers s t h 0x06 stOk 0 0)
   ∧ (∀ (s : State) (h : Issuer) (obj : BitVec 15) (v : BitVec 128), s.imageFor (.host h) obj.toNat = some v →
     s.overtakes (answersOf (.host h) obj.toNat) (.image (.host h) obj.toNat v) = false →
     (s.chan h.chan).disabler = none → h.tag ∈ (s.chan h.chan).inflight →
     ∃ t, Sys2Proof.Machine.exec (.syncResp (.host h) obj) s = .next t
       ∧ t = { s with chans := t.chans, net := dropFirst s.net (.image (.host h) obj.toNat v), counts := t.counts,
                      waits := t.waits }
       ∧ Answers s t h 0x06 stOk v 0)
   ∧ (∀ (s : State) (a : Agent) (obj : BitVec 15), s.rst.pllLost = false → s.slotWaits.contains (a, obj.toNat) = true →
     ∃ t, Sys2Proof.Machine.exec (.waitRetry a obj) s = .next t
       ∧ t = { s with slotWaits := dropFirst s.slotWaits (a, obj.toNat), net := s.net ++ [.syncOp a obj.toNat 1 0 false],
                      counts := t.counts, waits := t.waits })
   ∧ (∀ (s : State) (h : Issuer) (ops : BitVec 80), s.accepts h → syncBad ops.toNat true = false →
     ∃ t, Sys2Proof.Machine.exec (.sync (.host h ops)) s = .next t
       ∧ t = { s.begin h with net := s.net ++ [if (syncOf ops.toNat).op = 0
           then .arrive (.host h) (syncOf ops.toNat).obj (syncOf ops.toNat).value {}
           else .syncOp (.host h) (syncOf ops.toNat).obj (min (syncOf ops.toNat).op 4) (syncOf ops.toNat).value
             (syncOf ops.toNat).auto], counts := t.counts, waits := t.waits }))

/-- R200, R201, R202: SYNC_CONFIG of a physical function writes OWNER, TREE and WTK of an object no loaded or running ensemble
owns, and nothing else of it; REMOTE_MAP writes an entry of the remote sync map, or clears it, where no other entry maps the
object in that direction. Both complete OK.
It rests on the model's choice of log entry 85 (notes/assumptions).

Completion: under hypotheses on the state and the operands alone, its conclusion is that exec answers a next state for
`syncConfig` (SYNC_CONFIG), `remoteMap` (REMOTE_MAP). -/
def Obligations.SyncObjectsAreConfigured : Prop :=
  (∀ (s : State) (h : Issuer) (obj : BitVec 15) (owner : BitVec 4) (tree : Bool) (wtk : BitVec 5), s.accepts h →
    (s.begin h).isVf h.chan = false → (owner.toNat < 9 ∨ owner.toNat = 15) → (tree = true → owner.toNat < 8) →
    ((s.obj obj.toNat).owner.toNat < 8 → (s.en (s.obj obj.toNat).owner.toNat).st ≠ .loaded
      ∧ (s.en (s.obj obj.toNat).owner.toNat).st ≠ .running) →
    ∃ t, Sys2Proof.Machine.exec (.syncConfig h obj owner tree wtk) s = .next t
      ∧ t = { s with sync := t.sync, chans := t.chans }
      ∧ t.obj obj.toNat = { s.obj obj.toNat with owner := owner, tree := tree, wtk := wtk }
      ∧ (∀ k, k ≠ obj.toNat → t.obj k = s.obj k)
      ∧ Answers s t h 0x07 stOk 0 0)
  ∧ (∀ (s : State) (h : Issuer) (index : BitVec 12) (entry : W64), s.accepts h →
    (s.begin h).isVf h.chan = false → bitOf entry 30 = false → fld entry 47 17 = 0 →
    (∀ i e, s.mapEntry (mapLocal entry) (mapOut entry) = some (i, e) → mapValid entry = true → i = index.toNat) →
    ∃ t, Sys2Proof.Machine.exec (.remoteMap h index entry) s = .next t
      ∧ t = { s with remote := t.remote, chans := t.chans }
      ∧ (∀ k, Map.get t.remote 0 k = if k = index.toNat then (if mapValid entry = true then entry else 0)
          else Map.get s.remote 0 k)
      ∧ Answers s t h 0x08 stOk 0 0)

/-! ## Memory-side engines -/

/-- R208, R209, R210, R212: an MLOAD whose descriptor arrives sound, or one that waited and resumes, fills its work slot and
completes; an MRUN gives its job slot the work descriptor that it captured as it fired, and the job runs.
It rests on the model's choice of log entry 60 (notes/assumptions).

Completion: under hypotheses on the state and the operands alone, its conclusion is that exec answers a next state for
`mload` (MLOAD), `dloadResume` (DLOAD_RESUME), `mrun` (MRUN). -/
def Obligations.WorkIsLoadedAndRun : Prop :=
  (∀ (s u : State) (ub : Nat) (f : Fired) (l : List Byte),
    let m := unitOf ub - 768
    s.firedStep ub (fun f => unacted 0x90 f && !f.waiting) = some f →
    s.fetchVa (mseInit m) (s.en f.q.ens).asid (opnd f.q.word 7 41 * 128) 128 = (u, .bytes l false) →
    workOk l = true → (∀ g ∈ (s.bk ub).fired, opOf g.q.word = 0x90 → g.acted = false) →
    ∃ t, Sys2Proof.Machine.exec (.mload ub) s = .next t ∧ WorkLoaded s u t ub f l)
  ∧ (∀ (s u : State) (ub : Nat) (f : Fired) (l : List Byte),
    let m := unitOf ub - 768
    s.firedStep ub (fun f => unacted 0x60 f && f.waiting && f.released) = none →
    s.firedStep ub (fun f => unacted 0x90 f && f.waiting && f.released) = some f →
    s.fetchVa (mseInit m) (s.en f.q.ens).asid (opnd f.q.word 7 41 * 128) 128 = (u, .bytes l false) →
    workOk l = true → (∀ g ∈ (s.bk ub).fired, opOf g.q.word = 0x90 → g.acted = false) →
    ∃ t, Sys2Proof.Machine.exec (.dloadResume ub) s = .next t ∧ WorkLoaded s u t ub f l)
  ∧ (∀ (s : State) (ub : Nat) (f : Fired), s.firedStep ub (unacted 0x91) = some f →
    let m := unitOf ub - 768
    let slot := opnd f.q.word 0 6
    let j := opnd f.q.word 6 2
    ∃ t, Sys2Proof.Machine.exec (.mrun ub) s = .next t
      ∧ t = { s with mses := t.mses, banks := t.banks }
      ∧ t.job m j = { state := 1, ub := ub, slot := slot, desc := f.data, mode := f.mode }
      ∧ (∀ k, k ≠ j → t.job m k = s.job m k) ∧ (t.mse m).work = (s.mse m).work ∧ (∀ n, n ≠ m → t.mse n = s.mse n)
      ∧ Acted s t ub f)

/-- R214, R215: GATHER makes row i of the destination row idx[i] of the source; SCATTER_ADD adds row i of the source to row
idx[i] of the destination, in FP32 or BF16; a copy writes the source's bytes, but for the bytes of the
destination that its ranges share, which are free; FILL writes PARAM0 over and over. None of them changes memory before its pieces are written.

R203, R215, R216, R222: REDUCE makes each element of the destination the sum, the maximum or the minimum of that element of the
vectors; CONVERT, whose destination is all there, makes the codes and scales of the destination format; TOPK makes the K best values, best first, and their
indices.

R218, R219, R220: GEMV makes one FP32 word for each row, the products of the row's weights and the vector summed, scaled and
accumulated; ADEC makes for each query one record of 64 + 4D bytes: m, s, zeros and P, merged from the triples of the clusters.

It rests on the model's choices of log entries 42, 56, 90, 91, 92, 93, 95 and 96 (notes/assumptions).

Completion: under hypotheses on the state and the operands alone, its conclusion is that exec answers a next state for
`gather` (GATHER), `scatterAdd` (SCATTER_ADD), `workCopy` (WORK_COPY), `fill` (FILL), `reduce` (REDUCE), `convert`
(CONVERT), `topk` (TOPK), `gemv` (GEMV), `adec` (ADEC). -/
def Obligations.JobsCompute : Prop :=
  ((∀ (s v u : State) (m : Nat) (j : BitVec 2) (i : List Byte) (rows : List (List Byte)),
     let d := (s.job m j.toNat).desc
     s.jobStands m j.toNat 0x01 → JobReads s v m j.toNat [(workAuxA d, 4 * workN d)] [i] →
     JobReads v u m j.toNat ((indices i).map (fun k => (workSrc d + k * workRow d, workRow d))) rows →
     ∃ t, Sys2Proof.Machine.exec (.gather m j) s = .next t
       ∧ JobComputed s t m j.toNat
           (rows.zipIdx.flatMap (fun p => piecesFor (workDst d + p.2 * workRow d) p.1 false)))
   ∧ (∀ (s v u : State) (m : Nat) (j : BitVec 2) (i : List Byte) (rows : List (List Byte)),
     let d := (s.job m j.toNat).desc
     s.jobStands m j.toNat 0x02 → JobReads s v m j.toNat [(workAuxA d, 4 * workN d)] [i] →
     JobReads v u m j.toNat ((List.range (workN d)).map (fun k => (workSrc d + k * workRow d, workRow d))) rows →
     ∃ t, Sys2Proof.Machine.exec (.scatterAdd m j) s = .next t
       ∧ JobComputed s t m j.toNat (((indices i).zip rows).flatMap (fun p =>
           cutPieces (p.2.length / 256 + 2) (workDst d + p.1 * workRow d) p.2
             (fun a l => { va := a, data := l, add := true, bf16 := workFmt d == 0x18 }))))
   ∧ (∀ (s u : State) (m : Nat) (j : BitVec 2) (l : List Byte),
     let d := (s.job m j.toNat).desc
     s.jobStands m j.toNat 0x05 → JobReads s u m j.toNat [(workSrc d, workN d)] [l] →
     ∃ t l', Sys2Proof.Machine.exec (.workCopy m j) s = .next t
       ∧ JobComputed s t m j.toNat (piecesFor (workDst d) l' false)
       ∧ l'.length = l.length
       ∧ (∀ k, k < l.length → (workDst d + k < max (workSrc d) (workDst d)
             ∨ min (workSrc d) (workDst d) + l.length ≤ workDst d + k) → nth l' k 0 = nth l k 0))
   ∧ (∀ (s : State) (m : Nat) (j : BitVec 2),
     let d := (s.job m j.toNat).desc
     s.jobStands m j.toNat 0x06 →
     ∃ t, Sys2Proof.Machine.exec (.fill m j) s = .next t
       ∧ JobComputed s t m j.toNat (piecesFor (workDst d)
           ((List.range (workN d / 4)).flatMap (fun _ => leBytes 4 (workP0 d).toNat)) false)))
  ∧ ((∀ (s u : State) (m : Nat) (j : BitVec 2) (ls : List (List Byte)),
     let d := (s.job m j.toNat).desc
     let mode := (s.job m j.toNat).mode
     s.jobStands m j.toNat 0x03 → JobReads s u m j.toNat (reduceRanges d) ls →
     let vs := (ls.take (workN2 d)).map (fun l => (unpack (workFmt d) l).map (readElem mode (elem (workFmt d))))
     let acc := (unpack 0x1C ((ls.drop (workN2 d)).headD [])).map (readElem mode fp32)
     ∃ t, Sys2Proof.Machine.exec (.reduce m j) s = .next t
       ∧ JobComputed s t m j.toNat (piecesFor (workDst d) (wordBytes ((List.range (workN d)).map (fun i =>
           reduceOne mode (workP1 d) (vs.map (fun v => nth v i .zero)) (if workAccum d then [nth acc i .zero] else [])
             (u.free + i)))) (workP1 d == 0)))
   ∧ (∀ (s u : State) (m : Nat) (j : BitVec 2) (l sc : List Byte),
     let d := (s.job m j.toNat).desc
     let mode := (s.job m j.toNat).mode
     s.jobStands m j.toNat 0x04 →
     s.unplaced m (s.en (s.ensOf (s.job m j.toNat).ub)).asid (blockFuel (workN d * elemBits (workFmt2 d) / 8)) (workDst d)
       (workN d * elemBits (workFmt2 d) / 8) = none →
     JobReads s u m j.toNat [(workSrc d, workN d * elemBits (workFmt d) / 8),
       (workAuxA d, if blockLen (workFmt d) = 0 then 0 else workN d / blockLen (workFmt d))] [l, sc] →
     let xs := sourceNums mode (workFmt d) (workP0 d) l sc
     let r := u.convertPieces m j.toNat mode (workFmt2 d) (workP0 d) (xs.length / 8 + 2) (workDst d) xs
     ∃ t, Sys2Proof.Machine.exec (.convert m j) s = .next t
       ∧ JobComputed s t m j.toNat (piecesFor (workDst d) r.2.1 true ++ piecesFor (workAuxB d) r.2.2 true))
   ∧ (∀ (s u : State) (m : Nat) (j : BitVec 2) (l : List Byte),
     let d := (s.job m j.toNat).desc
     let mode := (s.job m j.toNat).mode
     s.jobStands m j.toNat 0x07 → JobReads s u m j.toNat [(workSrc d, (workN d * elemBits (workFmt d) + 7) / 8)] [l] →
     let xs := ((unpack (workFmt d) l).take (workN d)).map (readElem mode (elem (workFmt d)))
     let best := topK mode (workN2 d) xs.zipIdx
     ∃ t, Sys2Proof.Machine.exec (.topk m j) s = .next t
       ∧ JobComputed s t m j.toNat (piecesFor (workDst d) (wordBytes (best.map (fun p => toF32 mode p.1))) false
           ++ piecesFor (workAuxA d) (best.flatMap (fun p => leBytes 4 p.2)) false)))
  ∧ ((∀ (s u : State) (m : Nat) (j : BitVec 2) (ls : List (List Byte)),
     let d := (s.job m j.toNat).desc
     let mode := (s.job m j.toNat).mode
     let f := workFmt d
     let rows := workN2 d
     let per := rowScales f (workN d)
     s.jobStands m j.toNat 0x09 → JobReads s u m j.toNat (gemvRanges d) ls →
     let x := (unpack (workFmt2 d) (nth ls 0 [])).map (readElem mode (elem (workFmt2 d)))
     let old := (unpack 0x1C (nth ls (2 + rows) [])).map (readElem mode fp32)
     ∃ t, Sys2Proof.Machine.exec (.gemv m j) s = .next t
       ∧ JobComputed s t m j.toNat (piecesFor (workDst d) (wordBytes ((List.range rows).map (fun r =>
           let scales := ((nth ls 1 []).drop (per * r)).take per
           let w := (unpack f (nth ls (2 + r) [])).zipIdx.map (fun p =>
             operand mode f p.1 (if blockLen f = 0 then 0 else field scales (p.2 / blockLen f) 1))
           floatOut mode (readF32 mode (workP0 d)) (if workAccum d then nth old r .zero else .zero) w x (u.free + r)))) true))
   ∧ (∀ (s v u : State) (m : Nat) (j : BitVec 2) (i : List Byte) (ls : List (List Byte)),
     let d := (s.job m j.toNat).desc
     let mode := (s.job m j.toNat).mode
     let dim := workP1 d
     let n := workN d
     let nums (fmt : Nat) (l : List Byte) : List Sys2Proof.Machine.Num := (unpack fmt l).map (readElem mode (elem fmt))
     s.jobStands m j.toNat 0x0A → JobReads s v m j.toNat [(workAuxA d, 4 * ((n + 63) / 64))] [i] →
     JobReads v u m j.toNat (adecRanges d (indices i)) ls →
     ∃ t, Sys2Proof.Machine.exec (.adec m j) s = .next t
       ∧ JobComputed s t m j.toNat (((List.range (workN2 d)).map (fun q => adecQuery mode (workP0 d)
             (nth (chunks dim (workN2 d) (nums (workFmt2 d) (nth ls 0 []))) q [])
             (((ls.drop 1).take n).map (nums (workFmt d))) (((ls.drop (1 + n)).take n).map (nums (workFmt d)))
             dim u.free (u.free + (n + 63) / 64 + q * adecDraws n dim))).zipIdx.flatMap (fun p =>
           piecesFor (workDst d + p.2 * (64 + 4 * dim))
             (leBytes 4 (toF32 mode p.1.m).toNat ++ leBytes 4 (toF32 mode p.1.s).toNat ++ zeros 56
               ++ wordBytes (p.1.p.map (toF32 mode))) true))))

/-- R203, R212, R214, R215, R226, R227, R229: a SCRUB whose lines are all read has no results. The next piece of a job in the channels of
a cluster, whose bytes lie in one line, where no walk-through is due and no read freezes the pseudo-channel, puts there its bytes,
or what adding them to the line's makes, and nothing elsewhere, and has retired: the job's index numbers the first piece that has
not. A job that has no piece left leaves its slot idle and completes its step, one that has read poison without its tokens.
It rests on the model's choices of log entries 90, 91, 96, 97 and 98 (notes/assumptions).

Completion: under hypotheses on the state and the operands alone, its conclusion is that exec answers a next state for
`scrub` (SCRUB), `jobPiece` (JOB_PIECE), `jobComplete` (JOB_COMPLETE). -/
def Obligations.JobPiecesAreWritten : Prop :=
  (∀ (s u : State) (m : Nat) (j : BitVec 2) (found : List (Nat × Ecc)) (l : List Byte) (b : List Nat) (va : Nat),
    let d := (s.job m j.toNat).desc
    let n := (s.job m j.toNat).bytes
    s.jobStands m j.toNat 0x08 →
    s.scrubRange m j.toNat found (workN d / 64 + 2) (workSrc d + n) (workN d - n) = (u, .bytes l b, va) →
    ∃ t, Sys2Proof.Machine.exec (.scrub m j found) s = .next t
      ∧ t = { u with mses := t.mses } ∧ t.job m j.toNat = { u.job m j.toNat with bytes := va - workSrc d, read := true, pieces := [] }
      ∧ (∀ k, k ≠ j.toNat → t.job m k = u.job m k) ∧ (∀ n, n ≠ m → t.mse n = u.mse n))
  ∧ (∀ (s u v : State) (m : Nat) (j : BitVec 2) (c : BitVec 3) (p : Piece) (o : Nat),
    (s.job m j.toNat).state = 1 → s.stackRuns m = true → s.otherDue 5 (8 * m + c.toNat) = false →
    s.pieceFor m j.toNat c.toNat = some p →
    p.add = false → 0 < p.data.length → p.va % 64 + p.data.length ≤ 64 →
    s.jobPlace m j.toNat p.va true = (u, .here o) →
    u.writePiece m j.toNat (u.clusterFor m (u.servingPc m o)) p false o = (v, true) →
    ∃ t, Sys2Proof.Machine.exec (.jobPiece m j c .passed) s = .next t
      ∧ Stored s v ∧ t = { v with mses := t.mses }
      ∧ t.job m j.toNat = (s.job m j.toNat).retire p
      ∧ (t.job m j.toNat).pieces = (s.job m j.toNat).pieces.erase p
      ∧ (∀ q r, (t.job m j.toNat).pieces = q :: r → (t.job m j.toNat).index = q.num)
      ∧ (t.job m j.toNat).bytes = (s.job m j.toNat).bytes + p.data.length
      ∧ (∀ k, k ≠ j.toNat → t.job m k = s.job m k) ∧ (∀ n, n ≠ m → t.mse n = s.mse n)
      ∧ (∀ i, i < p.data.length → t.hbmByte m (o + i) = nth p.data i 0)
      ∧ (∀ k, (k < hbmKey m o ∨ hbmKey m o + p.data.length ≤ k) → Map.get t.hbm 0 k = Map.get s.hbm 0 k))
  ∧ (∀ (s u v : State) (m : Nat) (j : BitVec 2) (c : BitVec 3) (p : Piece) (o : Nat),
    (s.job m j.toNat).state = 1 → s.stackRuns m = true → s.otherDue 5 (8 * m + c.toNat) = false →
    s.pieceFor m j.toNat c.toNat = some p →
    (linesOf o p.data.length).any (u.hbmBad m) = false → u.hbmBad m o = false →
    p.add = true → 0 < p.data.length → p.va % 64 + p.data.length ≤ 64 →
    s.jobPlace m j.toNat p.va true = (u, .here o) →
    u.writePiece m j.toNat (u.clusterFor m (u.servingPc m o)) p false o = (v, true) →
    let w := (u.addBytes (u.clusterFor m (u.servingPc m o)) (s.job m j.toNat).mode (if p.bf16 then 0x18 else 0x1C) 0
      (s.hbmRead m o p.data.length) p.data).2
    ∃ t, Sys2Proof.Machine.exec (.jobPiece m j c .passed) s = .next t
      ∧ (∃ x, Stored s x ∧ t = { x with mses := t.mses, clusters := t.clusters })
      ∧ t.job m j.toNat = (s.job m j.toNat).retire p
      ∧ (∀ k, k ≠ j.toNat → t.job m k = s.job m k) ∧ (∀ n, n ≠ m → t.mse n = s.mse n)
      ∧ (∀ i, i < w.length → t.hbmByte m (o + i) = nth w i 0)
      ∧ (∀ k, (k < hbmKey m o ∨ hbmKey m o + w.length ≤ k) → Map.get t.hbm 0 k = Map.get s.hbm 0 k))
  ∧ (∀ (s : State) (m : Nat) (j : BitVec 2) (f : Fired),
    let v := s.job m j.toNat
    v.state = 1 → v.read = true → v.pieces = [] → s.firedStep v.ub (isRunOf j.toNat) = some f →
    ∃ t, Sys2Proof.Machine.exec (.jobComplete m j) s = .next t
      ∧ t = { s with mses := t.mses, banks := t.banks, ens := t.ens,
                     net := s.net ++ (if v.spoiled then [] else s.emission v.ub (emitOf f.q.word) f.q.ref) }
      ∧ t.job m j.toNat = {} ∧ (∀ k, k ≠ j.toNat → t.job m k = s.job m k)
      ∧ (t.mse m).work = (s.mse m).work ∧ (∀ n, n ≠ m → t.mse n = s.mse n)
      ∧ t.bk v.ub = { s.bk v.ub with fired := dropFirst (s.bk v.ub).fired f }
      ∧ (∀ vb, vb ≠ v.ub → t.bk vb = s.bk vb))

/-- R206, R545: a write of MEM_REGION or of AST_BASE changes the field while every ensemble is IDLE and no stream is at work, and
AST_BASE then drops every cached translation; otherwise a value that differs leaves the field and sets REJECTED, which a clearing
write in the same cycle leaves set (R5).

R325: a write of FAB_CLKk with a divisor in range sets it, and EN; one out of range leaves the divisor and sets REJECTED, which a 1
written to it clears otherwise, unless the device has set it in this CK_MGT cycle (R5); net 0 is always enabled.

R4–R6, R381, R423, R540–R545: a write, which counts as a packet of its port (R277), stores in ZL_CTL, ZL_RT_BASE,
PTN_CTL, GW_CTLn, HOST_POLL and HOST_SUMMARY what their fields take, in the last two while the poller is off, and changes nothing else; a
one clears a bit of RST_CAUSE that the device has not set in this CK_MGT cycle; a write that is not aligned, at an offset without a
register, or of a read-only register does nothing.

It rests on the model's choices of log entries 99, 149, 203, 267 and 268 (notes/assumptions).

Completion: under hypotheses on the state and the operands alone, its conclusion is that exec answers a next state for
`memRegionWrite` (MEM_REGION_WRITE), `astBaseWrite` (AST_BASE_WRITE), `fabClkWrite` (FAB_CLK_WRITE), `registerWrite`
(REGISTER_WRITE). -/
def Obligations.RegistersStoreWhatTheirFieldsTake : Prop :=
  (∀ (s : State),
     (∀ v : W32, min (fld v 0 7) 64 ≠ s.localGib → s.allQuiet = true →
       Sys2Proof.Machine.exec (.memRegionWrite v) s
         = .next { s with memRegion := fld v 0 7, memRej := s.memRej && !(bitOf v 8 && s.clears 0 8) })
     ∧ (∀ v : W32, min (fld v 0 7) 64 ≠ s.localGib → s.allQuiet = false →
       Sys2Proof.Machine.exec (.memRegionWrite v) s = .next { s.mark 0 8 with memRej := true })
     ∧ (∀ v : W64, fld v 14 26 ≠ s.astBase → s.allQuiet = true →
       Sys2Proof.Machine.exec (.astBaseWrite v) s = .next { s with
         astBase := fld v 14 26, astRej := s.astRej && !(bitOf v 0 && s.clears 1 0), tlbs := [], walkers := [] })
     ∧ (∀ v : W64, fld v 14 26 ≠ s.astBase → s.allQuiet = false →
       Sys2Proof.Machine.exec (.astBaseWrite v) s = .next { s.mark 1 0 with astRej := true }))
  ∧ (∀ (s : State) (k : BitVec 5) (v : W32),
     ∃ t, Sys2Proof.Machine.exec (.fabClkWrite k v) s = .next t
       ∧ t = { s with loader := { s.loader with fclks := t.loader.fclks }, fclkRej := t.fclkRej, fresh := t.fresh }
       ∧ (divOk v = true → fld (t.fclk k.toNat) 0 13 = fld v 0 13 ∧ t.fresh = s.fresh
           ∧ bitOf t.fclkRej k.toNat = (bitOf s.fclkRej k.toNat && !(bitOf v 14 && s.clears (32 + k.toNat) 14)))
       ∧ (divOk v = false → fld (t.fclk k.toNat) 0 13 = fld (s.fclk k.toNat) 0 13 ∧ bitOf t.fclkRej k.toNat = true
           ∧ t.clears (32 + k.toNat) 14 = false)
       ∧ (k.toNat ≠ 0 → bitOf (t.fclk k.toNat) 13 = bitOf v 13)
       ∧ (k.toNat = 0 → bitOf (t.fclk 0) 13 = true)
       ∧ (∀ n, n ≠ k.toNat → t.fclk n = s.fclk n ∧ bitOf t.fclkRej n = bitOf s.fclkRej n))
  ∧ (∀ (s : State) (fn : Nat), fn < 256 → s.portsUp = true → s.portHere (fn / 64) = true →
     let u := s.injected (0x370 + fn / 128) 1
     (u = { s with counts := u.counts } ∧ (u.count (0x370 + fn / 128)).reqs = satAdd 48 (s.count (0x370 + fn / 128)).reqs 1)
     ∧ (∀ v : W64, fn % 64 = 0 → Sys2Proof.Machine.exec (.registerWrite fn 0x60000 false v) s
       = .next { u with zegus := { s.zegus with ctl := BitVec.ofNat 32 (v.toNat % 2 ^ 32) &&& 0x7FF } })
     ∧ (∀ v : W64, fn % 64 = 0 → Sys2Proof.Machine.exec (.registerWrite fn 0x60008 true v) s
       = .next { u with zegus := { s.zegus with rtBase := v &&& 0xFFFFFE0000 } })
     ∧ (∀ v : W64, fn % 64 = 0 → Sys2Proof.Machine.exec (.registerWrite fn 0x70000 false v) s
       = .next { u with partner := { s.partner with ctl := BitVec.ofNat 32 (v.toNat % 2 ^ 32) &&& 0x1FFFF } })
     ∧ (∀ (v : W64) (n : Nat), n < 28 → fn % 64 = 0 →
       Sys2Proof.Machine.exec (.registerWrite fn (0x40100 + 8 * n) false v) s
         = .next (u.setGw n { s.gw n with ctl := BitVec.ofNat 32 (v.toNat % 2 ^ 32) &&& 0xFFFFFF }))
     ∧ (∀ v : W64, fn % 64 = 0 →
       ∃ t, Sys2Proof.Machine.exec (.registerWrite fn 0x10000 false v) s = .next t
         ∧ t = { u with rst := { s.rst with cause := t.rst.cause } }
         ∧ ∀ k, k < 8 → bitOf t.rst.cause k = (bitOf s.rst.cause k && !(bitOf v k && s.clears 5 k)))
     ∧ (∀ v : W64, bitOf (s.fn fn).summary 0 = false →
       ∃ t, Sys2Proof.Machine.exec (.registerWrite fn 0x0010 false v) s = .next t
         ∧ t = { u with fns := t.fns } ∧ t.fn fn = { s.fn fn with poll := BitVec.ofNat 32 (v.toNat % 2 ^ 32) }
         ∧ ∀ k, k ≠ fn → t.fn k = s.fn k)
     ∧ (∀ v : W64, bitOf (s.fn fn).summary 0 = true →
       Sys2Proof.Machine.exec (.registerWrite fn 0x0010 false v) s = .next u)
     ∧ (∀ v : W64, bitOf (s.fn fn).summary 0 = false →
       ∃ t, Sys2Proof.Machine.exec (.registerWrite fn 0x0008 true v) s = .next t
         ∧ t = { u with fns := t.fns } ∧ (t.fn fn).summary = v &&& 0xFFFFFFFFFFFFFFC1
         ∧ (bitOf v 0 = true → (t.fn fn).interval = (s.fn fn).minNs)
         ∧ ∀ k, k ≠ fn → t.fn k = s.fn k)
     ∧ (∀ (v : W64) (off : Nat), off % 4 ≠ 0 → Sys2Proof.Machine.exec (.registerWrite fn off false v) s = .next u)
     ∧ (∀ (v : W64) (off : Nat), barReg fn off = none → Sys2Proof.Machine.exec (.registerWrite fn off false v) s = .next u)
     ∧ (∀ v : W64, fn % 64 = 0 → Sys2Proof.Machine.exec (.registerWrite fn 0x30004 false v) s = .next u
         ∧ Sys2Proof.Machine.exec (.registerWrite fn 0x50000 false v) s = .next u
         ∧ Sys2Proof.Machine.exec (.registerWrite fn 0x70004 false v) s = .next u))

/-! ## HBM controllers -/

/-- R233, R235, R238, R246, R251: a request that finds its pseudo-channel able to take it joins the queue of its kind, last, and
the write queue enters DRAIN mode at 48; one that finds the queue full, or a pseudo-channel in training, is answered RETRY; one
that finds it frozen or evacuating is answered PC_FROZEN; a port of an absent stack answers "unit absent" (R16). Nothing else changes.
No request arrives before an earlier one of its source to its pseudo-channel (R240). `u` is the state once the request has left
the network.

R172, R233, R241, R250: the request a controller picks leaves its queue and is answered. A READ brings the pieces of its mask
as memory holds them, marked POISONED where a line is, with the lines that are; a WRITE puts the bytes of its range where it says, and nothing elsewhere,
before it is acknowledged; a transform changes what a piece brings or stores; a SCRUB ends the errors of the sound lines it read. What
is read passes the code first: `u` is the state after it, and where a line cannot be corrected the step ends there, frozen. A request
with a transform issues where no walk-through of its cluster is due (R296).

It rests on the model's choices of log entries 14, 81, 101, 102, 107, 108, 109 and 122 (notes/assumptions).

Completion: under hypotheses on the state and the operands alone, its conclusion is that exec answers a next state for
`requestIssue` (REQUEST_ISSUE), `rdReq` (RD_REQ), `wrReq` (WR_REQ), `addReq` (ADD_REQ). -/
def Obligations.RequestsAreQueuedAndPerformed : Prop :=
  (∀ (s u : State) (r : Req) (c : Instr),
     (c = .rdReq r ∧ isRead r.kind = true ∨ c = .wrReq r ∧ r.kind = .write ∨ c = .addReq r ∧ r.kind = .add) →
     (s.overtakes (s.sameSource r) (.req r) = true → Sys2Proof.Machine.exec c s = .next s) ∧
     (s.overtakes (s.sameSource r) (.req r) = false → s.takeReq r = u →
     ((r.poisoned = false ∨ s.net.contains (.req r) = true) → u = { s with net := dropFirst s.net (.req r) })
     ∧ (u.stackOn r.stack = false →
       Sys2Proof.Machine.exec c s = .next ({ u with net := u.net ++ [ackReq r .absent] }.raise (recOf cUnitAbsent 4 r.stack))) ∧
     (u.stackOn r.stack = true → 0 < (u.stk r.stack).accepted → inRefuge r.block = true →
       Sys2Proof.Machine.exec c s = .next { u with net := u.net ++ [ackReq r .permission] }) ∧
     (u.stackOn r.stack = true → ((u.stk r.stack).accepted = 0 ∨ inRefuge r.block = false) →
     let p := (u.homeOf r.stack r.block).1
     let v := u.pc r.stack p
     let x : Queued := { req := r, order := v.accepted, promoted := false }
     ((v.st = .serving ∨ v.st = .retraining) → v.full r = false → u.resetting 2 (64 * r.stack + p) = false →
       ∃ t, Sys2Proof.Machine.exec c s = .next t
         ∧ t = { u with pcs := t.pcs }
         ∧ (isRead r.kind = true → t.pc r.stack p = { v with reads := v.reads ++ [x], accepted := v.accepted + 1 })
         ∧ (isRead r.kind = false → t.pc r.stack p = { v with
             writes := v.writes ++ [x], accepted := v.accepted + 1, drain := v.drain || 48 ≤ v.writes.length + 1 })
         ∧ ∀ n q, 64 * n + q ≠ 64 * r.stack + p → t.pc n q = u.pc n q)
     ∧ ((v.st = .training ∨ (v.st = .serving ∨ v.st = .retraining)
           ∧ (v.full r = true ∨ u.resetting 2 (64 * r.stack + p) = true)) →
       Sys2Proof.Machine.exec c s = .next { u with net := u.net ++ [ackReq r .retry] })
     ∧ ((v.st = .frozen ∨ v.st = .evacuating) →
       Sys2Proof.Machine.exec c s = .next { u with net := u.net ++ [ackReq r .pcFrozen] }))))
  ∧ ((∀ (s u : State) (stack pc : Nat) (ready : BitVec 64) (found : Ecc) (chk : Check) (q : Queued),
     let r := q.req
     s.stackRuns stack = true → pc < 64 → s.pickReq stack pc ready = some q → s.checkedFor stack pc q found = (u, false) →
     (xfOn r.xform = true → s.otherDue 5 (s.clusterFor stack pc) = false) →
     Sys2Proof.Machine.exec (.requestIssue stack pc ready found chk) s = .next u ∧ u.hbm = s.hbm ∧ u.hpoison = s.hpoison
       ∧ (u.pc stack pc).st = .frozen ∧ (u.pc stack pc).cause = 1 ∧ (u.pc stack pc).failOffset ∈ checkedLines r
       ∧ (u.pc stack pc).failCmd = some (snapOf r))
   ∧ (∀ (s u : State) (stack pc : Nat) (ready : BitVec 64) (found : Ecc) (chk : Check) (q : Queued),
     let r := q.req
     s.stackRuns stack = true → pc < 64 → s.pickReq stack pc ready = some q → r.kind = .read → r.xform = .none →
     r.stack = stack → s.checkedFor stack pc q found = (u, true) →
     ∃ t x, Sys2Proof.Machine.exec (.requestIssue stack pc ready found chk) s = .next t
       ∧ t.net = s.net ++ [.resp x]
       ∧ (x.init = r.init ∧ x.sub = r.sub ∧ x.seq = r.seq ∧ x.stack = stack ∧ x.block = r.block ∧ x.mask = r.mask
           ∧ x.epoch = r.epoch)
       ∧ x.vstate = (if (piecesOf r).any (fun j => s.hbmBad stack (r.block + 64 * j)) then 2 else 0)
       ∧ (x.vstate = 2 → ∀ j ∈ piecesOf r, bitOf x.bads j = s.hbmBad stack (r.block + 64 * j))
       ∧ (∀ j ∈ piecesOf r, (x.data.drop (64 * j)).take 64 = s.hbmRead stack (r.block + 64 * j) 64)
       ∧ (t.pc stack pc).reads = dropFirst (s.pc stack pc).reads q
       ∧ t.hbm = s.hbm ∧ t.hpoison = s.hpoison ∧ t.clusters = s.clusters)
   ∧ (∀ (s u : State) (stack pc : Nat) (ready : BitVec 64) (found : Ecc) (chk : Check) (q : Queued),
     let r := q.req
     s.stackRuns stack = true → pc < 64 → s.pickReq stack pc ready = some q → r.kind = .write → r.xform = .none →
     r.stack = stack → r.data.length = 256 → u.mirrors = false → s.checkedFor stack pc q found = (u, true) →
     ∃ t, Sys2Proof.Machine.exec (.requestIssue stack pc ready found chk) s = .next t
       ∧ (∀ j k, j ∈ piecesOf r → k < 64 → r.first ≤ 64 * j + k → 64 * j + k ≤ r.last →
           t.hbmByte stack (r.block + 64 * j + k) = nth r.data (64 * j + k) 0)
       ∧ (∀ a, (∀ j k, j ∈ piecesOf r → k < 64 → r.first ≤ 64 * j + k → 64 * j + k ≤ r.last →
           a ≠ hbmKey stack (r.block + 64 * j + k)) → Map.get t.hbm 0 a = Map.get s.hbm 0 a)
       ∧ t.net = s.net ++ [ackReq r .ok]
       ∧ (t.pc stack pc).writes = dropFirst (s.pc stack pc).writes q
       ∧ t.tstore = s.tstore ∧ t.clusters = s.clusters)
   ∧ (∀ (s u : State) (stack pc : Nat) (ready : BitVec 64) (found : Ecc) (q : Queued) (j : Nat),
     let r := q.req
     let o := r.block + 64 * j
     s.stackRuns stack = true → pc < 64 → s.pickReq stack pc ready = some q → r.stack = stack → piecesOf r = [j] →
     (xfOn r.xform = true → s.otherDue 5 (s.clusterFor stack pc) = false) → s.checkedFor stack pc q found = (u, true) →
     (r.kind = .read →
       ∃ t x, Sys2Proof.Machine.exec (.requestIssue stack pc ready found .passed) s = .next t
         ∧ t.net = s.net ++ [.resp x]
         ∧ x.data = overlay (zeros (4 * xfWidth r.xform)) (xfWidth r.xform * j)
             (u.pieceOut (u.clusterFor stack pc) r.xform j (s.hbmRead stack o 64)).2
         ∧ t.hbm = s.hbm)
     ∧ ((r.kind = .write ∨ r.kind = .add) → u.mirrors = false → s.hbmBad stack o = false →
       r.first ≤ 64 * j → 64 * j + 63 ≤ r.last →
       let new := (u.pieceIn (u.clusterFor stack pc) r.xform j (s.hbmRead stack o 64)
         ((r.data.drop (xfWidth r.xform * j)).take (xfWidth r.xform))).2
       ∃ t, Sys2Proof.Machine.exec (.requestIssue stack pc ready found .passed) s = .next t
         ∧ (∀ i, i < min 64 new.length → t.hbmByte stack (o + i) = nth new i 0)
         ∧ (∀ a, (a < hbmKey stack o ∨ hbmKey stack o + min 64 new.length ≤ a) → Map.get t.hbm 0 a = Map.get s.hbm 0 a)
         ∧ t.net = s.net ++ [ackReq r .ok]))
   ∧ (∀ (s u : State) (stack pc : Nat) (ready : BitVec 64) (found : Ecc) (chk : Check) (q : Queued),
     s.stackRuns stack = true → pc < 64 → s.pickReq stack pc ready = some q → q.req.kind = .scrub → q.req.xform = .none →
     (∀ o ∈ checkedLines q.req, s.hbmBad stack o = false) → s.checkedFor stack pc q found = (u, true) →
     ∃ t, Sys2Proof.Machine.exec (.requestIssue stack pc ready found chk) s = .next t
       ∧ t.net = s.net ++ [ackReq q.req .ok] ∧ t.hbm = s.hbm
       ∧ (∀ o ∈ checkedLines q.req, t.herr.get [] (hbmLine stack o) = [] ∧ t.hfixed.contains (hbmLine stack o) = false)
       ∧ (t.pc stack pc).reads = dropFirst (s.pc stack pc).reads q))

/-- R236, R239, R242–R246: the age limit makes a queued request class 0; an open row with no access pending is closed; a refresh
is postponed while fewer than eight are owed, else done, one that is due leaving what is owed and one that goes ahead lowering
it; at the end of a refresh window every count of the bank is halved; a
cool-down over, the initiator is throttled no more.

R231, R242, R249, R252, R258: a reading of the DRAM dies is kept, and doubles the refresh rate from 85 °C until every die is below
80 °C; a scrub, made while the controller would issue no queued request before it, reads its line: one it finds corrected counts once, one it
finds uncorrectable freezes its pseudo-channel; a parity alert freezes a serving one, and poisons a line of data of one that is being
evacuated. A freeze answers every queued request PC_FROZEN and leaves memory as it is.

It rests on the model's choices of log entries 102, 103, 105, 106, 107, 113 and 115 (notes/assumptions).

Completion: under hypotheses on the state and the operands alone, its conclusion is that exec answers a next state for
`agePromotion` (AGE_PROMOTION), `rowClose` (ROW_CLOSE), `refresh` (REFRESH), `refreshWindowEnd` (REFRESH_WINDOW_END),
`throttleCooldown` (THROTTLE_COOLDOWN), `dramTempRead` (DRAM_TEMP_READ), `hbmScrub` (HBM_SCRUB), `parityAlert`
(PARITY_ALERT). -/
def Obligations.ControllersKeepRowsAndErrors : Prop :=
  ((∀ (s : State) (n p : Nat) (init : BitVec 12) (seq : W32), s.stackRuns n = true → p < 64 →
     let mine (q : Queued) : Bool := q.req.init == init && q.req.seq == seq && !q.promoted
     let up (q : Queued) : Queued := { q with promoted := true }
     ∃ t, Sys2Proof.Machine.exec (.agePromotion n p init seq) s = .next t
       ∧ t = { s with pcs := t.pcs }
       ∧ ((s.pc n p).reads.any mine = true →
           t.pc n p = { s.pc n p with reads := modFirst mine up (s.pc n p).reads })
       ∧ ((s.pc n p).reads.any mine = false →
           t.pc n p = { s.pc n p with writes := modFirst mine up (s.pc n p).writes })
       ∧ (∀ q : Queued, (up q).cls = 0)
       ∧ ∀ m q, 64 * m + q ≠ 64 * n + p → t.pc m q = s.pc m q)
   ∧ (∀ (s : State) (n p b : Nat), s.stackRuns n = true → p < 64 → b < 64 →
     (∀ q ∈ (s.pc n p).reads ++ (s.pc n p).writes, dbankOf q.req.block = b → s.rowHit n p q = false) →
     ∃ t, Sys2Proof.Machine.exec (.rowClose n p b) s = .next t
       ∧ t = { s with pcs := t.pcs } ∧ t.pc n p = { s.pc n p with banks := (t.pc n p).banks }
       ∧ (t.pc n p).banks.get {} b = { (s.pc n p).banks.get {} b with openRow := none }
       ∧ (∀ c, c ≠ b → (t.pc n p).banks.get {} c = (s.pc n p).banks.get {} c)
       ∧ ∀ m q, 64 * m + q ≠ 64 * n + p → t.pc m q = s.pc m q)
   ∧ (∀ (s : State) (n p b : Nat) (post : Bool), s.stackRuns n = true → p < 64 → b < 64 →
     let put := post && (s.pc n p).owed < 8 && !(s.pc n p).firstWindow
     ∃ t, Sys2Proof.Machine.exec (.refresh n p b post) s = .next t
       ∧ t = { s with pcs := t.pcs }
       ∧ t.pc n p = { s.pc n p with
           banks := (t.pc n p).banks,
           owed := if put then (s.pc n p).owed + 1 else if post then (s.pc n p).owed else (s.pc n p).owed - 1 }
       ∧ (put = false → ((t.pc n p).banks.get {} b).openRow = none)
       ∧ (put = true → (t.pc n p).banks = (s.pc n p).banks)
       ∧ (∀ c, c ≠ b → (t.pc n p).banks.get {} c = (s.pc n p).banks.get {} c)
       ∧ ∀ m q, 64 * m + q ≠ 64 * n + p → t.pc m q = s.pc m q)
   ∧ (∀ (s : State) (n p b : Nat), s.stackRuns n = true → p < 64 → b < 64 →
     ∃ t, Sys2Proof.Machine.exec (.refreshWindowEnd n p b) s = .next t
       ∧ t = { s with pcs := t.pcs, fresh := t.fresh, counts := t.counts, keeper := t.keeper, pins := t.pins, chans := t.chans }
       ∧ t.pc n p = { s.pc n p with banks := (t.pc n p).banks, firstWindow := false }
       ∧ (∀ i, i < 32 → (((t.pc n p).banks.get {} b).hot.get {} i)
           = { (((s.pc n p).banks.get {} b).hot.get {} i) with
               count := (((s.pc n p).banks.get {} b).hot.get {} i).count / 2 })
       ∧ ((t.pc n p).banks.get {} b).openRow = ((s.pc n p).banks.get {} b).openRow
       ∧ (∀ c, c ≠ b → (t.pc n p).banks.get {} c = (s.pc n p).banks.get {} c)
       ∧ ∀ m q, 64 * m + q ≠ 64 * n + p → t.pc m q = s.pc m q)
   ∧ (∀ (s : State) (n p : Nat) (init : BitVec 12), s.stackRuns n = true → p < 64 →
     ∃ t, Sys2Proof.Machine.exec (.throttleCooldown n p init) s = .next t
       ∧ t = { s with pcs := t.pcs }
       ∧ t.pc n p = { s.pc n p with throttled := dropFirst (s.pc n p).throttled init }
       ∧ ∀ m q, 64 * m + q ≠ 64 * n + p → t.pc m q = s.pc m q))
  ∧ ((∀ (s : State) (n : Nat) (dies : List Int), s.stackRuns n = true →
     ∃ t, Sys2Proof.Machine.exec (.dramTempRead n dies) s = .next t
       ∧ t = { s with hstack := t.hstack, gov := t.gov, pcs := t.pcs, rst := t.rst, pins := t.pins, fresh := t.fresh, counts := t.counts, keeper := t.keeper,
                      chans := t.chans }
       ∧ t.stk n = { s.stk n with dies := dies, doubled := dies.any (fun x => 16 * 85 ≤ x)
           || ((s.stk n).doubled && dies.any (fun x => 16 * 80 ≤ x)) }
       ∧ (∀ m, m ≠ n → t.stk m = s.stk m)
       ∧ (∀ p, p < 64 → t.pc n p = { s.pc n p with curTemp := dies.foldl max (dies.headD 0) }))
   ∧ (∀ (s : State) (n line : Nat), s.stackRuns n = true → line < 2 ^ 30 →
     let p := (s.homeOf n (64 * line)).1
     (s.pc n p).st = .serving → s.keepsWaiting (0x3A0 + n) n (64 * line) 3 false = false →
     s.hbmBad n (64 * line) = false → ∀ found,
     (s.lineFinds n (64 * line) found = .clean →
       Sys2Proof.Machine.exec (.hbmScrub n line found) s = .next ((s.reach (0x3A0 + n) n (64 * line) 64).moved n 64 0))
     ∧ (s.lineFinds n (64 * line) found = .corrected → s.hfixed.contains (hbmLine n (64 * line)) = false →
       ∃ t, Sys2Proof.Machine.exec (.hbmScrub n line found) s = .next t
         ∧ (t.pc n p).corrected = satAdd 32 (s.pc n p).corrected 1
         ∧ t.hfixed = addIdx s.hfixed (hbmLine n (64 * line))
         ∧ (t.pc n p).st = .serving ∧ t.hbm = s.hbm ∧ t.net = s.net)
     ∧ (∀ syn, s.lineFinds n (64 * line) found = .uncorrectable syn →
       ∃ t, Sys2Proof.Machine.exec (.hbmScrub n line found) s = .next t
         ∧ (t.pc n p).st = .frozen ∧ (t.pc n p).cause = 1 ∧ (t.pc n p).failOffset = 64 * line
         ∧ (t.pc n p).syndrome = syn ∧ (t.pc n p).failCmd = some (snapAt (0x3A0 + n) (64 * line) .scrub)
         ∧ t.net = s.net ++ ((s.pc n p).reads ++ (s.pc n p).writes).map (fun q => ackReq q.req .pcFrozen)
         ∧ t.hbm = s.hbm))
   ∧ (∀ (s : State) (n p off : Nat), s.stackRuns n = true → p < 64 →
     ((s.pc n p).st = .serving ∨ (s.pc n p).st = .retraining) →
     ∃ t, Sys2Proof.Machine.exec (.parityAlert n p off) s = .next t
       ∧ (t.pc n p).st = .frozen ∧ (t.pc n p).cause = 2 ∧ (t.pc n p).failOffset = off
       ∧ (t.pc n p).reads = [] ∧ (t.pc n p).writes = []
       ∧ (t.pc n p).snapQueue = ((s.pc n p).reads ++ (s.pc n p).writes).map (fun q => snapOf q.req)
       ∧ (t.pc n p).snapWindow = ((s.pc n p).recent.filter (fun x => s.ltc.toNat < x.1 + 16)).map (·.2)
       ∧ t.net = s.net ++ ((s.pc n p).reads ++ (s.pc n p).writes).map (fun q => ackReq q.req .pcFrozen)
       ∧ (∀ m q, 64 * m + q ≠ 64 * n + p → t.pc m q = s.pc m q)
       ∧ t.hbm = s.hbm ∧ t.hpoison = s.hpoison)
   ∧ (∀ (s : State) (n p off : Nat), s.stackRuns n = true → p < 64 → (s.pc n p).st = .evacuating → off < 2 ^ 36 →
     inRefuge off = false →
     ∃ t, Sys2Proof.Machine.exec (.parityAlert n p off) s = .next t
       ∧ t = { s with hpoison := t.hpoison, herr := t.herr, pcs := t.pcs }
       ∧ t.hbmBad n (off / 64 * 64) = true
       ∧ t.pc n p = { s.pc n p with listed := addIdx (s.pc n p).listed (off / 64 * 64) }
       ∧ (∀ m q, 64 * m + q ≠ 64 * n + p → t.pc m q = s.pc m q)))

/-- R253–R258: UNFREEZE of a frozen pseudo-channel makes it serve, poisons the line that failed, and completes OK; RETIRE_PC of
one accepts its retirement and, with no evacuation running, starts it, while one that runs deals it no further rows; an evacuation none
of whose receivers is frozen ends with the pseudo-channel RETIRED, every line of it that could not be read poisoned, its single-symbol
errors corrected and the RETIRE_PC completed.

R259, R260: at the end of initial training, outside resets and the option-load phase, a pseudo-channel serves, its first window begun
and the rows of the repair map under soft repair, or is frozen with cause TRAINING; a live piece, of a retraining that has begun or where
the temperature has drifted, or else of the soft repair of a row whose errors recur, begins where
its conditions hold, and ends with the pseudo-channel serving, or frozen where the eye lacks its margin; a repair ends with its
row repaired, in the repair map too.

It rests on the model's choices of log entries 2, 109, 110, 111 and 112 (notes/assumptions).

Completion: under hypotheses on the state and the operands alone, its conclusion is that exec answers a next state for
`unfreeze` (UNFREEZE), `retirePc` (RETIRE_PC), `evacuation` (EVACUATION), `initialTraining` (INITIAL_TRAINING),
`retrainingPiece` (RETRAINING_PIECE), `retrainingPieceEnds` (RETRAINING_PIECE_ENDS). -/
def Obligations.PseudoChannelsAreTrainedAndRecovered : Prop :=
  ((∀ (s : State) (h : Issuer) (n : BitVec 4) (p : BitVec 6), s.accepts h → (s.begin h).isVf h.chan = false →
     s.stackOn n.toNat = true → s.acceptedPc n.toNat p.toNat = false → (s.pc n.toNat p.toNat).st = .frozen →
     ∃ t, Sys2Proof.Machine.exec (.unfreeze h n p) s = .next t
       ∧ (t.pc n.toNat p.toNat).st = .serving
       ∧ t = { s with pcs := t.pcs, hpoison := t.hpoison, herr := t.herr, ens := t.ens, banks := t.banks, chans := t.chans }
       ∧ ((s.pc n.toNat p.toNat).cause = 1 →
           t.hbmBad n.toNat (s.pc n.toNat p.toNat).failOffset = true
           ∧ (t.pc n.toNat p.toNat).listed = [(s.pc n.toNat p.toNat).failOffset / 64 * 64])
       ∧ ((s.pc n.toNat p.toNat).cause = 2 →
           (t.pc n.toNat p.toNat).listed = (s.pc n.toNat p.toNat).windowLines
           ∧ ∀ o ∈ (s.pc n.toNat p.toNat).windowLines, t.hbmBad n.toNat o = true)
       ∧ ((s.pc n.toNat p.toNat).cause = 3 ∨ (s.pc n.toNat p.toNat).cause = 4 → t.hpoison = s.hpoison ∧ t.herr = s.herr)
       ∧ (∀ m q, 64 * m + q ≠ 64 * n.toNat + p.toNat → t.pc m q = s.pc m q)
       ∧ Answers s t h 0x0B stOk 0 0)
   ∧ (∀ (s : State) (h : Issuer) (n : BitVec 4) (p : BitVec 6), s.accepts h → (s.begin h).isVf h.chan = false →
     s.stackOn n.toNat = true → s.acceptedPc n.toNat p.toNat = false → (s.pc n.toNat p.toNat).st = .frozen →
     (s.stk n.toNat).accepted < 3 →
     ∃ t, Sys2Proof.Machine.exec (.retirePc h n p) s = .next t
       ∧ t = { s with hstack := t.hstack, pcs := t.pcs, chans := t.chans, free := t.free }
       ∧ t.stk n.toNat = { s.stk n.toNat with retires := (s.stk n.toNat).retires ++ [p.toNat],
                                              accepted := (s.stk n.toNat).accepted + 1 }
       ∧ (t.pc n.toNat p.toNat).retiring = some h
       ∧ (t.pc n.toNat p.toNat).retireNo = some (s.stk n.toNat).accepted
       ∧ (s.evacuates n.toNat = none → (∀ q ∈ (s.stk n.toNat).retires, (s.pc n.toNat q).st ≠ .frozen) →
           (t.pc n.toNat p.toNat).st = .evacuating)
       ∧ (∀ e, s.evacuates n.toNat = some e → (t.pc n.toNat p.toNat).st = .frozen
           ∧ (t.pc n.toNat e).cuts = (s.pc n.toNat e).cuts ++ [(s.free, p.toNat)])
       ∧ (t.chan h.chan).inflight = (s.chan h.chan).inflight ++ [h.tag])
   ∧ (∀ (s : State) (n p : Nat) (bad : List Nat), s.stackRuns n = true → s.evacuates n = some p →
     (∀ q ∈ s.dealTo n p, (s.pc n q).st ≠ .frozen) →
     ∃ t, Sys2Proof.Machine.exec (.evacuation n bad) s = .next t
       ∧ (t.pc n p).st = .retired ∧ (t.pc n p).receivers = (s.pc n p).receivers ∧ (t.pc n p).retiring = none
       ∧ (∀ o ∈ s.evacuationLost n p bad, t.hbmBad n o = true)
       ∧ (∀ o ∈ s.errorLines n p false, t.herr.get [] (hbmLine n o) = [])
       ∧ (∀ h, (s.pc n p).retiring = some h → (s.chan h.chan).disabler = none → h.tag ∈ (s.chan h.chan).inflight →
           (t.chan h.chan).compls = (s.chan h.chan).compls
             ++ answerOf h 0x0C stOk (BitVec.ofNat 128 (s.evacuationLost n p bad).length) 0)
       ∧ (t.stk n).retires = (s.stk n).retires ∧ (t.stk n).accepted = (s.stk n).accepted
       ∧ t.hbm = s.hbm ∧ t.tstore = s.tstore))
  ∧ ((∀ (s : State) (n : Nat) (failed : List Nat) (temp : Int), s.stackRuns n = true →
     s.rst.level = .none → s.rst.loading = false →
     ∃ t, Sys2Proof.Machine.exec (.initialTraining n failed temp) s = .next t
       ∧ (∀ p, p < 64 → (s.pc n p).st = .training → p ∉ failed →
           t.pc n p = { s.pc n p with st := .serving, temp := temp, curTemp := temp, firstWindow := true, owed := 0,
                                      repaired := (s.pc n p).mapped, trained := (t.pc n p).trained })
       ∧ (∀ p, p < 64 → (s.pc n p).st = .training → p ∈ failed → (t.pc n p).st = .frozen ∧ (t.pc n p).cause = 3)
       ∧ (∀ p, p < 64 → (s.pc n p).st ≠ .training → t.pc n p = s.pc n p)
       ∧ t.hbm = s.hbm ∧ t.tstore = s.tstore)
   ∧ (∀ (s : State) (n p : Nat), s.stackRuns n = true → p < 64 → (s.pc n p).st = .serving →
     let drift := 0 < (s.pc n p).retrains ∨ 160 ≤ ((s.pc n p).curTemp - (s.pc n p).temp).natAbs
     (drift ∨ (s.pc n p).badRow ≠ none) → (s.pc n p).owed < 4 →
     ((List.range 64).filter (fun q => (s.pc n q).st == .retraining)).length < 8 →
     (s.pc n (p ^^^ 1)).st ≠ .retraining →
     ∃ t, Sys2Proof.Machine.exec (.retrainingPiece n p) s = .next t
       ∧ t = { s with pcs := t.pcs }
       ∧ (drift → t.pc n p = { s.pc n p with st := .retraining, retrains := (s.pc n p).retrains + 1, repairing := none })
       ∧ (¬ drift → t.pc n p = { s.pc n p with st := .retraining, repairing := (s.pc n p).badRow })
       ∧ ∀ m q, 64 * m + q ≠ 64 * n + p → t.pc m q = s.pc m q)
   ∧ (∀ (s : State) (n p : Nat) (done ok : Bool), s.stackRuns n = true → p < 64 → (s.pc n p).st = .retraining →
     ∃ t, Sys2Proof.Machine.exec (.retrainingPieceEnds n p done ok) s = .next t
       ∧ (ok = true → (t.pc n p).st = .serving)
       ∧ (∀ row, ok = true → (s.pc n p).repairing = some row →
           (t.pc n p).repaired.contains row = true ∧ (t.pc n p).mapped.contains row = true ∧ (t.pc n p).rowErrs.get 0 row = 0 ∧ (t.pc n p).retrains = (s.pc n p).retrains)
       ∧ (ok = true → (s.pc n p).repairing = none → (done = true ∨ 32 ≤ (s.pc n p).retrains) →
           (t.pc n p).retrains = 0 ∧ (t.pc n p).temp = (s.pc n p).curTemp)
       ∧ (ok = true → (s.pc n p).repairing = none → done = false → (s.pc n p).retrains < 32 → (t.pc n p).retrains = (s.pc n p).retrains)
       ∧ (ok = false → (t.pc n p).st = .frozen ∧ (t.pc n p).cause = 3)
       ∧ (∀ m q, 64 * m + q ≠ 64 * n + p → t.pc m q = s.pc m q)
       ∧ t.hbm = s.hbm ∧ t.tstore = s.tstore))

/-! ## The floor network -/

/-- R274, R277, R278: a resend is counted for its link, saturating, in the running total and in the window; the end of a window
makes the counters the snapshot, unless it is held, and clears them, which then count the records it raises about degraded links alone; a write of NET_SAMPLE keeps length and FREEZE, and RESTART
clears the running counters.
It rests on the model's choices of log entries 119 and 121 (notes/assumptions).

Completion: under hypotheses on the state and the operands alone, its conclusion is that exec answers a next state for
`linkResend` (LINK_RESEND), `statWindow` (STAT_WINDOW), `restart` (RESTART). -/
def Obligations.NetworkCountersRunInWindows : Prop :=
  (∀ (s : State) (r : Nat), isLink r = true →
    Sys2Proof.Machine.exec (.linkResend r) s = .next { s with
      resends := s.resends.set 0 r (satAdd 32 (s.resends.get 0 r) 1),
      winResends := s.winResends.set 0 r (satAdd 32 (s.winResends.get 0 r) 1) })
  ∧ (∀ (s : State) (flits : List (Nat × Nat)),
    ∃ t, Sys2Proof.Machine.exec (.statWindow flits) s = .next t
      ∧ t = { s with windows := s.windows + 1, winResends := [], counts := t.counts, snapshot := t.snapshot, snapWin := t.snapWin,
                     hstack := t.hstack, fresh := t.fresh, keeper := t.keeper, pins := t.pins, chans := t.chans }
      ∧ ((∀ p ∈ s.winResends, 1000000 * p.2 ≤ ((flits.find? (fun q => q.1 == p.1)).map Prod.snd).getD 0) →
          t.counts = [] ∧ t.keeper = s.keeper)
      ∧ (bitOf s.sample 8 = false → t.snapshot = s.counts ∧ t.snapWin = s.windows + 1)
      ∧ (bitOf s.sample 8 = true → t.snapshot = s.snapshot ∧ t.snapWin = s.snapWin))
  ∧ (∀ (s : State) (v : W32),
    ∃ t, Sys2Proof.Machine.exec (.restart v) s = .next t
      ∧ t = { s with sample := v &&& 0x11F, hstack := t.hstack, counts := t.counts, winResends := t.winResends }
      ∧ (bitOf v 9 = true → t.counts = [] ∧ t.winResends = [])
      ∧ (bitOf v 9 = false → t = { s with sample := v &&& 0x11F }))

/-! ## Result integrity and unit health -/

/-- R287–R289: a VERDICT for a PENDING slot of a receiving context makes it LANDED where the block passed and POISONED, with a
record, where it did not; a slot that waits too long halts its stream with cause VERDICT, its slots as they are.
It rests on the model's choice of log entry 125 (notes/assumptions).

Completion: under hypotheses on the state and the operands alone, its conclusion is that exec answers a next state for
`verdictPacket` (VERDICT_PACKET), `verdictTimeout` (VERDICT_TIMEOUT). -/
def Obligations.VerdictsSettleSlots : Prop :=
  (∀ (s : State) (v : VerdictBody), v.se < 256 → v.ctx < 8 →
    let c := s.ctx v.se v.ctx
    let slot := c.slotFor v.first.toNat
    c.st = .active → descDir c.desc = 4 → v.last = v.first → v.first.toNat < descTotal c.desc →
    c.slotOf v.first.toNat = .pending → c.low ≤ v.first.toNat → c.done.contains v.first.toNat = false →
    ∃ t, Sys2Proof.Machine.exec (.verdictPacket (.packet v)) s = .next t
      ∧ (v.outcome = 0 → (t.ctx v.se v.ctx).slots.get .free slot = .landed
          ∧ (t.ctx v.se v.ctx).bytes = c.bytes + 256)
      ∧ (v.outcome ≠ 0 → (t.ctx v.se v.ctx) = { c with slots := c.slots.set .free slot .poisoned }
          ∧ t = { s with ses := t.ses, fresh := t.fresh, counts := t.counts, keeper := t.keeper, pins := t.pins, chans := t.chans })
      ∧ (∀ k, k ≠ slot → (t.ctx v.se v.ctx).slots.get .free k = c.slots.get .free k)
      ∧ (∀ d, d ≠ v.ctx → t.ctx v.se d = s.ctx v.se d)
      ∧ t.tstore = s.tstore ∧ t.hbm = s.hbm ∧ t.tiles = s.tiles)
  ∧ (∀ (s : State) (se : Nat) (ctx : BitVec 3) (slot : Nat),
    let c := s.ctx se ctx.toNat
    s.rst.pllLost = false → c.st = .active → c.resuming = false → descDir c.desc = 4 →
    (c.slots.get .free slot = .pending ∨ c.slots.get .free slot = .poisoned) →
    ∃ t, Sys2Proof.Machine.exec (.verdictTimeout se ctx slot) s = .next t
      ∧ (t.ctx se ctx.toNat).st = .halted ∧ (t.ctx se ctx.toNat).cause = causeVerdict
      ∧ (t.ctx se ctx.toNat).failT = c.low ∧ (t.ctx se ctx.toNat).slots = c.slots
      ∧ (∀ d, d ≠ ctx.toNat → t.ctx se d = s.ctx se d)
      ∧ t = { s with ses := t.ses, net := t.net, counts := t.counts, waits := t.waits, fresh := t.fresh, keeper := t.keeper, pins := t.pins,
                     chans := t.chans })

/-- R308–R311, R398: at its sparing point the position of a retired tile goes to the spare of its tier die that its retirement was
promised, which has no weights and a new health count, with a record; the position of a retired stream engine goes to the spare of its
row pair that its retirement was promised, its contexts parked no longer, its translations empty and its walk-through counter kept; a
position that was promised none, both spares being used, is unserved, with a record where a column sparing was abandoned.
It rests on the model's choices of log entries 9, 10, 132, 133 and 134 (notes/assumptions).

Completion: under hypotheses on the state and the operands alone, its conclusion is that exec answers a next state for
`tileMigration` (TILE_MIGRATION), `seMigration` (SE_MIGRATION). -/
def Obligations.PositionsMoveToSpares : Prop :=
  (∀ (s : State) (k : Nat), k < 512 → s.rst.pllLost = false → (s.tserv.get {} k).awaiting = true → (s.tile k).locating = false →
    s.sendsEarly k = false → s.mayMigrate k (s.tserv.get {} k).settling = true →
    let v := s.tserv.get {} k
    ∃ t, Sys2Proof.Machine.exec (.tileMigration k) s = .next t
      ∧ (∀ n, v.next = some n → t = { s with tserv := s.tserv.set {} k { spare := some n }, tiles := t.tiles, health := t.health,
                                             fresh := t.fresh, counts := t.counts, keeper := t.keeper, pins := t.pins, chans := t.chans }
          ∧ t.tile k = spareTile (s.tile k) ∧ (∀ j, j ≠ k → t.tile j = s.tile j)
          ∧ (∀ i, t.hl i = if i = k ∨ i = 2560 + k ∨ i / 4 = 128 + k then { walked := (s.hl i).walked } else s.hl i)
          ∧ (t.keeper.general.get {} (s.keeper.nextGen % 520192)).code = cTileSpared)
      ∧ (v.next = none → v.dropped = false →
          t = { s with tserv := s.tserv.set {} k { unserved := true, spare := v.spare } })
      ∧ (v.next = none → v.dropped = true →
          t = { s with tserv := s.tserv.set {} k { unserved := true, spare := v.spare }, fresh := t.fresh, counts := t.counts,
                       keeper := t.keeper, pins := t.pins, chans := t.chans }
          ∧ (t.keeper.general.get {} (s.keeper.nextGen % 520192)).code = cHealthChanged))
  ∧ (∀ (s : State) (k : Nat), k < 256 → s.rst.pllLost = false → (s.sserv.get {} k).awaiting = true → (s.se k).atRest = true →
    s.atSparing (512 + k) (s.sserv.get {} k).settling = true → s.atSparing (1536 + k) (s.sserv.get {} k).settling = true →
    let v := s.sserv.get {} k
    ∃ t, Sys2Proof.Machine.exec (.seMigration k) s = .next t
      ∧ (∀ n, v.next = some n → t = { s with sserv := s.sserv.set {} k { spare := some n }, tlbs := t.tlbs, ses := t.ses,
                                             health := t.health, fresh := t.fresh, counts := t.counts, keeper := t.keeper, pins := t.pins, chans := t.chans }
          ∧ t.tlb (seInit k) = [] ∧ (∀ r, r ≠ seInit k → t.tlb r = s.tlb r)
          ∧ (t.se k).slots = (s.se k).slots ∧ (∀ c, t.ctx k c = { s.ctx k c with parked := false }) ∧ (∀ n, n ≠ k → t.se n = s.se n)
          ∧ (∀ i, t.hl i = if i = 3072 + k then { walked := (s.hl i).walked } else s.hl i)
          ∧ (t.keeper.general.get {} (s.keeper.nextGen % 520192)).code = cSeSpared)
      ∧ (v.next = none → t = { s with sserv := s.sserv.set {} k { unserved := true, spare := v.spare } }))

/-- R277, R312, R316, R430, R514, R549: a record, whose packet counts for the unit it is about, enters the log at the next place and is
offered to the rings of its ensemble; a COUNTED one is counted while its code is; the end of a period logs how many were; a held record
enters an event ring of the host, 64 bytes at its tail, and where none is held a record EVENTS_DROPPED with the number of those that
were dropped.
It rests on the model's choices of log entries 129, 130, 131 and 253 (notes/assumptions).

Completion: under hypotheses on the state and the operands alone, its conclusion is that exec answers a next state for
`record` (RECORD), `countPeriod` (COUNT_PERIOD), `eventDelivery` (EVENT_DELIVERY). -/
def Obligations.RecordsReachLogAndRings : Prop :=
  (∀ (s : State) (code cls sev unit detail : Nat), 1 ≤ sev → sev ≤ 5 →
    let r := s.dress { recOf code cls unit with sev := sev, detail := detail }
    ∃ t, Sys2Proof.Machine.exec (.record code cls sev unit detail) s = .next t
      ∧ t = { s with counts := t.counts, fresh := t.fresh, keeper := t.keeper, pins := t.pins, chans := t.chans }
      ∧ (recInit cls unit = none → t.counts = s.counts)
      ∧ (∀ i, recInit cls unit = some i → t.count i = { s.count i with reqs := satAdd 48 (s.count i).reqs 1 })
      ∧ t.keeper.general.get {} (s.keeper.nextGen % 520192) = r
      ∧ t.keeper.nextGen = (s.keeper.nextGen + 1) % 2 ^ 40
      ∧ (∀ k, k ≠ s.keeper.nextGen % 520192 → t.keeper.general.get {} k = s.keeper.general.get {} k)
      ∧ (sev = 5 → t.keeper.device.get {} (s.keeper.nextDev % 4096) = r)
      ∧ (sev ≠ 5 → t.keeper.device = s.keeper.device)
      ∧ (∀ c, c ∉ s.ringsFor r.ens → t.chan c = s.chan c)
      ∧ (2 ≤ sev → ∀ c ∈ s.ringsFor r.ens,
          t.chan c = { s.chan c with events := (s.chan c).events ++ List.replicate ((s.ringsFor r.ens).count c) r }))
  ∧ (∀ (s : State) (code cls unit detail : Nat),
    s.keeper.folds.any (fun f => f.1 == cls && f.2.1 == unit && f.2.2.1 == code) = true →
    ∃ t, Sys2Proof.Machine.exec (.record code cls 0 unit detail) s = .next t
      ∧ t = { s with counts := t.counts, keeper := { s.keeper with folds := t.keeper.folds } })
  ∧ (∀ (s : State) (cls unit code : Nat) (f : Nat × Nat × Nat × Fold),
    let mine (f : Nat × Nat × Nat × Fold) : Bool := f.1 == cls && f.2.1 == unit && f.2.2.1 == code
    s.keeper.folds.find? mine = some f →
    ∃ t, Sys2Proof.Machine.exec (.countPeriod cls unit code) s = .next t
      ∧ (f.2.2.2.count = 0 → t = { s with keeper := { s.keeper with folds := remFirst mine s.keeper.folds } })
      ∧ (0 < f.2.2.2.count →
          t.keeper.general.get {} (s.keeper.nextGen % 520192)
              = { f.2.2.2.last with detail := f.2.2.2.last.detail % 256 + f.2.2.2.count * 256 }
          ∧ t.keeper.folds = modFirst mine (fun f => (f.1, f.2.1, f.2.2.1, ({} : Fold))) s.keeper.folds
          ∧ t = { s with fresh := t.fresh, counts := t.counts, keeper := t.keeper, pins := t.pins, chans := t.chans }))
  ∧ (∀ (s : State) (c : Nat) (r : Rec) (rest : List Rec), s.rst.pllLost = false → s.eqRoom c = true → (s.port (s.chanPort c)).up = true →
    (s.chan c).events = r :: rest →
    let a := s.eqBase c + 64 * ((s.chan c).eqTail.toNat % 2 ^ s.eqLog2 c)
    ∃ t, Sys2Proof.Machine.exec (.eventDelivery c) s = .next t
      ∧ t = { s with hostMem := t.hostMem, chans := t.chans }
      ∧ t.chan c = { s.chan c with
          events := rest, eqTail := (s.chan c).eqTail + 1, unsignalled := (s.chan c).unsignalled + 1 }
      ∧ (∀ d, d ≠ c → t.chan d = s.chan d)
      ∧ (∀ i, i < 64 → t.hostByte (s.chanPort c) (a + i) = nth (recBytes r) i 0)
      ∧ (∀ k, (k < hostKey (s.chanPort c) a ∨ hostKey (s.chanPort c) a + 64 ≤ k) →
          Map.get t.hostMem 0 k = Map.get s.hostMem 0 k))
  ∧ (∀ (s : State) (c : Nat), s.rst.pllLost = false → s.eqRoom c = true → (s.port (s.chanPort c)).up = true →
    (s.chan c).events = [] → 0 < (s.chan c).dropped →
    let a := s.eqBase c + 64 * ((s.chan c).eqTail.toNat % 2 ^ s.eqLog2 c)
    let r := s.dress { recOf cEventsDropped 11 0 with detail := (s.chan c).dropped }
    ∃ t, Sys2Proof.Machine.exec (.eventDelivery c) s = .next t
      ∧ t = { s with hostMem := t.hostMem, chans := t.chans, keeper := t.keeper, fresh := t.fresh, pins := t.pins }
      ∧ t.keeper.general.get {} (s.keeper.nextGen % 520192) = r
      ∧ t.chan c = { s.chan c with
          dropped := 0, eqTail := (s.chan c).eqTail + 1, unsignalled := (s.chan c).unsignalled + 1 }
      ∧ (∀ d, d ≠ c → t.chan d = s.chan d)
      ∧ (∀ i, i < 64 → t.hostByte (s.chanPort c) (a + i) = nth (recBytes r) i 0))

/-! ## The logic fabric -/

/-- R318, R319, R321, R322, R325, R336, R337, R364: the user's logic. A flip-flop changes on an edge of a net that runs and that its
cluster chose, in a region that runs, and no other with it: its reset gives the initial value, without its clock enable it stands, and
else it takes what the frames choose. Where both ports of a block RAM write one word on an edge, port A's data stand, with check bits in
SEC-DED use, and a port's output is what the frames choose. A serialising pair takes a word where its pads are on, its word clock runs
and its standard drives at the bank's rate. A border shows the rest value while its region is isolated.

R328, R329, R330, R332, R334: a DSP block that runs the instruction at its PC. MUL, MAC and MSU send their exact product to the
accumulator they name, which it reaches as the third cycle after begins, put there, added or subtracted, held within 56 bits, with a flag
where it was held; CLR clears one accumulator; ADDA waits for the products on their way and puts the sum of both. All else stands.

R329–R334: a narrowing move waits for the products on their way to its accumulator and puts 24 bits of it and its shift on an output,
VALID; SETP, JMP, REPEAT, WAITV, NOP and HALT change P, PC, the repeat count or DONE alone. While RUN is low at a repeat boundary, and
while it has stopped, a block executes nothing; a word that is no instruction, or may not follow REPEAT, stops it with ERR. RESTART at a
repeat boundary starts the block again.

It rests on the model's choices of log entries 135, 136, 137, 138, 139, 141, 142, 143 and 144 (notes/assumptions).

Completion: under hypotheses on the state and the operands alone, its conclusion is that exec answers a next state for
`dspNop` (DSP_NOP), `clr` (CLR), `adda` (ADDA), `mov` (MOV), `setp` (SETP), `jmp` (JMP), `repeatN` (REPEAT), `waitv`
(WAITV), `halt` (HALT), `dspRestart` (DSP_RESTART), `mul` (MUL), `mac` (MAC), `msu` (MSU). -/
def Obligations.TheFabricRunsItsCellsAndDspBlocks : Prop :=
  ((∀ (s : State) (cell ff : Nat) (net : BitVec 5) (i : BitVec 6) (direct enable clear : Bool),
     let t := s.fabAct (.flop cell ff net i direct enable clear)
     let acts := s.netRuns net.toNat = true ∧ s.clusterHas (cell / 8) net.toNat = true ∧ s.logicRuns (cellRegion cell) = true
     t = { s with flops := t.flops }
     ∧ (∀ k, k ≠ 2 * cell + ff → t.flops.get false k = s.flops.get false k)
     ∧ (¬ acts → t = s)
     ∧ (clear = false → enable = false → t = s)
     ∧ (cell < cellCount → ff < 2 → acts → clear = true → t.flop cell ff = s.flopInit cell ff)
     ∧ (cell < cellCount → ff < 2 → acts → clear = false → enable = true →
         let source := (Config.flopSource (s.regionFrames (cellRegion cell)) cell ff).toNat
         t.flop cell ff = if source = 0 then (s.tableOuts cell i).1 else if source = 1 then (s.tableOuts cell i).2
           else if source = 2 then direct else (s.tableOuts cell i).1 ^^ s.logic.carries.get false cell))
   ∧ (∀ (s : State) (b : Nat) (qa qb : Config.BramAsk),
     let v := s.bramSetup b
     let t := s.fabAct (.bram b (some qa) (some qb))
     b < 8192 → s.logicRuns (bramRegion b) = true → s.netRuns v.netA = true → s.netRuns v.netB = true →
     qa.write = true → qb.write = true → qa.addr = qb.addr →
     let was := s.logic.outs.get {} b
     t.bramRead b v.width qa.addr
       = (if v.width = 72 ∧ v.secded = true then secWord (BitVec.ofNat 64 qa.data.toNat) else BitVec.ofNat 72 (fld qa.data 0 v.width))
     ∧ (t.logic.outs.get {} b).a = (if v.width = 72 ∨ 2 ≤ v.modeA then was.a
         else if v.modeA = 1 then s.bramRead b v.width qa.addr else qa.data)
     ∧ (t.logic.outs.get {} b).b = (if v.width = 72 ∨ 2 ≤ v.modeB then was.b
         else if v.modeB = 1 then s.bramRead b v.width qb.addr else qb.data)
     ∧ (∀ k, k / 512 ≠ b → t.bram.get 0 k = s.bram.get 0 k)
     ∧ t = { s with bram := t.bram, logic := { s.logic with outs := t.logic.outs, flips := t.logic.flips } })
   ∧ (∀ (s : State) (bank pair : Nat) (w : BitVec 16),
     let t := s.fabAct (.serialise bank pair w)
     t = { s with logic := { s.logic with given := t.logic.given } }
     ∧ (pair < 16 → s.padsOn bank = true → s.wordClock bank = true → s.pairDrives bank pair = true → s.rateOk bank pair = true →
         t.logic.given.get 0 (16 * bank + pair) = w)
     ∧ ((s.padsOn bank = false ∨ s.wordClock bank = false ∨ s.pairDrives bank pair = false ∨ s.rateOk bank pair = false) → t = s))
   ∧ (∀ (s : State) (r k cell ff : Nat), 1 ≤ r → r ≤ 44 → k < 4096 → s.staticFlop cell ff = true →
     let t := s.fabAct (.borderIn r k cell ff)
     t = { s with flops := t.flops }
     ∧ ((s.region r).isolated = true → t.flop cell ff = s.loader.isolation.get false (4096 * r + k))
     ∧ ((s.region r).isolated = false → t.flop cell ff = s.logic.borders.get false (4096 * r + k))))
  ∧ ((∀ (s : State) (b : Nat) (ops : BitVec 20) (i : DspIn) (c : Instr × Nat × Nat),
     (c = (.mul b ops i, 2, 0) ∨ c = (.mac b ops i, 3, 1) ∨ c = (.msu b ops i, 4, 2)) → s.dspRuns b c.2.1 ops i →
     let d := s.dspNow b i
     let x := i.a.toInt * (if bitOf ops 18 then (d.coef.get 0 d.p.toNat).toInt else i.b.toInt)
     Sys2Proof.Machine.exec c.1 s = .next (s.setDsp b { d with
       pipe := d.pipe ++ [{ wait := 3, acc1 := bitOf ops 19, how := c.2.2, value := x }],
       p := if bitOf ops 18 then d.p + 1 else d.p, pc := (nextDsp d).1, left := (nextDsp d).2 }))
   ∧ (∀ (s : State) (b : Nat) (ops : BitVec 20) (i : DspIn) (x : Product), s.dspRuns b 0 ops i →
     (s.dsp b).pipe = [x] →
     let d := s.dsp b
     let y := if x.how = 0 then x.value else if x.how = 1 then d.acc x.acc1 + x.value else d.acc x.acc1 - x.value
     ∃ t, Sys2Proof.Machine.exec (.dspNop b ops i) s = .next t
       ∧ t = { s with dsps := t.dsps } ∧ (∀ k, k ≠ b → t.dsp k = s.dsp k)
       ∧ (1 < x.wait → (t.dsp b).pipe = [{ x with wait := x.wait - 1 }] ∧ (t.dsp b).a0 = d.a0 ∧ (t.dsp b).a1 = d.a1
           ∧ (t.dsp b).sat = d.sat)
       ∧ (x.wait = 1 → (t.dsp b).pipe = [] ∧ (t.dsp b).sat = (d.sat || y != held56 y)
           ∧ (t.dsp b).a0 = (if x.acc1 then d.a0 else BitVec.ofInt 56 (held56 y))
           ∧ (t.dsp b).a1 = (if x.acc1 then BitVec.ofInt 56 (held56 y) else d.a1)))
   ∧ (∀ (s : State) (b : Nat) (ops : BitVec 20) (i : DspIn), s.dspRuns b 1 ops i →
     let d := s.dspNow b i
     Sys2Proof.Machine.exec (.clr b ops i) s = .next (s.setDsp b { d with
       a0 := if bitOf ops 19 then d.a0 else 0, a1 := if bitOf ops 19 then 0 else d.a1, pc := (nextDsp d).1, left := (nextDsp d).2 }))
   ∧ (∀ (s : State) (b : Nat) (ops : BitVec 20) (i : DspIn), s.dspRuns b 5 ops i →
     let d := (s.dspNow b i).interlock (fun _ => true)
     let x := d.a0.toInt + d.a1.toInt
     Sys2Proof.Machine.exec (.adda b ops i) s = .next (s.setDsp b { d with
       a0 := if bitOf ops 19 then d.a0 else BitVec.ofInt 56 (held56 x), a1 := if bitOf ops 19 then BitVec.ofInt 56 (held56 x) else d.a1,
       sat := d.sat || x != held56 x, pc := d.pc + 1 })))
  ∧ (∀ (s : State) (b : Nat) (ops : BitVec 20) (i : DspIn),
     let d := s.dspNow b i
     let w := s.dspWord b
     (s.dspRuns b 6 ops i →
       let d := d.interlock (fun x => x.acc1 == bitOf ops 19)
       let k := movShift (d.acc (bitOf ops 19)) (fld ops 13 5)
       let out := BitVec.ofInt 24 (d.acc (bitOf ops 19) / 2 ^ k)
       Sys2Proof.Machine.exec (.mov b ops i) s = .next (s.setDsp b { d with
         out0 := if bitOf ops 18 then d.out0 else out, out1 := if bitOf ops 18 then out else d.out1,
         exp := BitVec.ofNat 6 k, valid := true, pc := d.pc + 1 }))
     ∧ (s.dspRuns b 7 ops i →
       Sys2Proof.Machine.exec (.setp b ops i) s
         = .next (s.setDsp b { d with p := BitVec.ofNat 5 (fld ops 0 5), pc := d.pc + 1 }))
     ∧ (s.dspRuns b 0xA ops i →
       Sys2Proof.Machine.exec (.jmp b ops i) s = .next (s.setDsp b { d with pc := BitVec.ofNat 6 (fld ops 0 6) }))
     ∧ (s.dspRuns b 8 ops i →
       Sys2Proof.Machine.exec (.repeatN b ops i) s
         = .next (s.setDsp b { d with left := some (fld ops 0 12 + 1), pc := d.pc + 1 }))
     ∧ (s.dspRuns b 9 ops i →
       Sys2Proof.Machine.exec (.waitv b ops i) s
         = .next (s.setDsp b (if i.inValid then { d with pc := d.pc + 1 } else d)))
     ∧ (s.dspRuns b 0xB ops i →
       Sys2Proof.Machine.exec (.halt b ops i) s = .next (s.setDsp b { d with done := true }))
     ∧ (s.dspRuns b 0 ops i →
       Sys2Proof.Machine.exec (.dspNop b ops i) s
         = .next (s.setDsp b { d with pc := (nextDsp d).1, left := (nextDsp d).2 }))
     ∧ (s.dspClocked b = true → (d.err = true ∨ d.done = true
           ∨ dspOk w = true ∧ dspOp w = 0 ∧ dspOps w = ops ∧ d.samples w = true ∧ i.run = false) →
       Sys2Proof.Machine.exec (.dspNop b ops i) s = .next (s.setDsp b d))
     ∧ (s.dspClocked b = true → d.err = false → d.done = false → (i.run = true ∨ d.samples w = false) →
       (dspOk w = false ∨ dspOp w = 6 ∧ dspOps w = ops ∧ d.left ≠ none) →
       Sys2Proof.Machine.exec (.mov b ops i) s = .next (s.setDsp b { d with err := true, left := none }))
     ∧ (s.dspClocked b = true → (s.dsp b).samples w = true →
       Sys2Proof.Machine.exec (.dspRestart b) s
         = .next (s.setDsp b { (s.dsp b).cycle with pc := 0, err := false, done := false, sat := false })))

/-- R325, R340, R343: a READ, WRITE or ADD that a gateway accepts and whose page is in HBM, while net 0
runs, becomes one request to its controller, and
the command waits for its answer. `u` is the state after the address is translated.

R341, R344, R345, R342: a TS_READ brings the lines of its mask from the tile store and a TS_WRITE puts them there and nowhere
else; a TOKEN no write holds back is sent to its unit, which counts it while it is a member of the command's running ensemble and
otherwise leaves it, UNIT_ABSENT and REFUSED; a command with its answer is shown to the fabric and leaves the gateway,
an error with a record; a line read passes its code, after which the state is `u`; a malformed command is answered MALFORMED and does nothing else.

It rests on the model's choices of log entries 135, 145, 146 and 147 (notes/assumptions).

Completion: under hypotheses on the state and the operands alone, its conclusion is that exec answers a next state for
`tsRead` (TS_READ), `tsWrite` (TS_WRITE), `gwToken` (GW_TOKEN), `token` (TOKEN), `gwResponse` (GW_RESPONSE), `gwRead`
(GW_READ), `gwWrite` (GW_WRITE), `gwAdd` (GW_ADD). -/
def Obligations.GatewaysReachMemoryTilesAndUnits : Prop :=
  (∀ (s u : State) (g m o : Nat) (w : W128) (data : List Byte) (c : Instr × Nat × List Byte),
     (c = (.gwRead g w, 0, []) ∨ c = (.gwWrite g w data, 1, data) ∨ c = (.gwAdd g w data, 2, data)) →
     let v := s.gw g
     g < 28 → s.netRuns 0 = true → s.regionAbsent g = false → s.resetting 3 v.region = false → bitOf v.ctl 0 = true → v.cmds.length < 256 →
     fld w 0 3 = c.2.1 → gwBad w (v.cmds.map (·.tag)) = false →
     let cmd := gwTaken v w c.2.2
     let s' := s.setGw g { v with cmds := v.cmds ++ [cmd], seq := (v.seq + 1) % 2 ^ 32 }
     s'.locate (gwInit g) (fld v.ctl 1 10) (gwAddr w) (c.2.1 != 0) = (u, some (.hbm m o)) →
     ∃ t, Sys2Proof.Machine.exec c.1 s = .next t
       ∧ t = { u with net := u.net ++ [.req (gwRequest g m o cmd)], counts := t.counts, waits := t.waits }
       ∧ t.gws = s'.gws ∧ t.hbm = s.hbm ∧ t.tstore = s.tstore ∧ t.hostMem = s.hostMem)
  ∧ ((∀ (s u : State) (g : Nat) (w : W128),
     let v := s.gw g
     let k := fld w 20 9
     let line := fld w 29 16
     let cmd := gwTaken v w []
     let s' := s.setGw g { v with cmds := v.cmds ++ [cmd], seq := (v.seq + 1) % 2 ^ 32 }
     g < 28 → s.netRuns 0 = true → s.regionAbsent g = false → s.resetting 3 v.region = false → bitOf v.ctl 0 = true → v.cmds.length < 256 →
     fld w 0 3 = 3 → gwBad w (v.cmds.map (·.tag)) = false → bitOf v.ctl 15 = true → line < 57344 → s.unitHere k = true →
     (onesOf (gwMask w) 4).foldl (fun x j => x.tsLoad k (64 * (line + j)) 64)
       (s'.tally (gwInit g) 1 (64 * (onesOf (gwMask w) 4).length)) = u →
     ∃ t l st, Sys2Proof.Machine.exec (.tsRead g w) s = .next t
       ∧ t = { u with gws := t.gws }
       ∧ t.gw g = { v with cmds := v.cmds ++ [{ cmd with status := some st, data := l }], seq := (v.seq + 1) % 2 ^ 32 }
       ∧ (∀ j ∈ onesOf (gwMask w) 4, (l.drop (64 * j)).take 64 = s.tsRead k (64 * (line + j)) 64)
       ∧ (st = 0 ↔ ∀ j ∈ onesOf (gwMask w) 4, u.tsBad k (64 * (line + j)) 64 = false) ∧ (st ≠ 0 → st = gwPoisoned)
       ∧ ∀ n, n ≠ g → t.gw n = s.gw n)
   ∧ (∀ (s : State) (g : Nat) (w : W128) (data : List Byte),
     let v := s.gw g
     let k := fld w 20 9
     let line := fld w 29 16
     g < 28 → s.netRuns 0 = true → s.regionAbsent g = false → s.resetting 3 v.region = false → bitOf v.ctl 0 = true → v.cmds.length < 256 →
     fld w 0 3 = 4 → gwBad w (v.cmds.map (·.tag)) = false → bitOf v.ctl 15 = true → line < 57344 → s.unitHere k = true →
     data.length = 256 →
     ∃ t, Sys2Proof.Machine.exec (.tsWrite g w data) s = .next t
       ∧ t = { s with gws := t.gws, tstore := t.tstore, tpoison := t.tpoison, tfixed := t.tfixed, terr := t.terr,
                      counts := t.counts }
       ∧ t.gw g = { v with cmds := v.cmds ++ [{ gwTaken v w data with status := some 0, data := [] }], seq := (v.seq + 1) % 2 ^ 32 }
       ∧ (∀ j ∈ onesOf (gwMask w) 4, t.tsBad k (64 * (line + j)) 64 = bitOf w 18)
       ∧ (∀ j i, j ∈ onesOf (gwMask w) 4 → i < 64 → t.tsByte k (64 * (line + j) + i) = nth data (64 * j + i) 0)
       ∧ (∀ a, (∀ j i, j ∈ onesOf (gwMask w) 4 → i < 64 → a ≠ tsKey k (64 * (line + j) + i)) →
           Map.get t.tstore 0 a = Map.get s.tstore 0 a)
       ∧ ∀ n, n ≠ g → t.gw n = s.gw n)
   ∧ (∀ (s : State) (g : Nat) (w : W128),
     let v := s.gw g
     g < 28 → s.netRuns 0 = true → s.regionAbsent g = false → s.resetting 3 v.region = false → bitOf v.ctl 0 = true → v.cmds = [] →
     fld w 0 3 = 5 → gwBad w [] = false → bitOf v.ctl 14 = true →
     ∃ t, Sys2Proof.Machine.exec (.gwToken g w) s = .next t
       ∧ t = { s with gws := t.gws, net := s.net ++
           [.token (gwSource g) (fld w 20 10 + 1024 * (s.en (fld v.ctl 11 3)).bank) (fld w 30 4)] }
       ∧ t.gw g = { v with cmds := [{ gwTaken v w [] with sent := true }], seq := (v.seq + 1) % 2 ^ 32 }
       ∧ ∀ n, n ≠ g → t.gw n = s.gw n)
   ∧ (∀ (s : State) (g ub : Nat) (tk : BitVec 4) (c : GwCmd), g < 28 → s.tokenSource ub tk.toNat = some (gwSource g) →
     (s.gw g).cmds.find? (fun c => c.sent && c.status.isNone && fld c.word 20 10 == unitOf ub && fld c.word 30 4 == tk.toNat) = some c →
     let takes := s.runs ub = true ∧ s.ensOf ub = fld c.ctl 11 3 ∧ s.unitHere (unitOf ub) = true
     let answered (st : Nat) := modFirst (· == c) (fun c => { c with status := some st, data := [] }) (s.gw g).cmds
     let u := s.take (.token (gwSource g) ub tk.toNat)
     ∃ t, Sys2Proof.Machine.exec (.token ub tk) s = .next t
       ∧ (takes → (s.bk ub).tk.get 0 tk.toNat < 255 → t = { u with banks := t.banks, gws := t.gws }
           ∧ t.bk ub = { s.bk ub with tk := (s.bk ub).tk.set 0 tk.toNat ((s.bk ub).tk.get 0 tk.toNat + 1) }
           ∧ (∀ v, v ≠ ub → t.bk v = s.bk v) ∧ t.gw g = { s.gw g with cmds := answered 0 })
       ∧ (¬ takes → t = { u with gws := t.gws, fresh := t.fresh }
           ∧ t.gw g = { s.gw g with cmds := answered gwUnitAbsent, refused := true })
       ∧ ∀ n, n ≠ g → t.gw n = s.gw n)
   ∧ (∀ (s : State) (g : Nat) (tag : Byte) (c : GwCmd) (st : Nat),
     (s.gw g).cmds.find? (fun c => c.tag == tag && c.status.isSome) = some c → c.status = some st →
     ∃ t, Sys2Proof.Machine.exec (.gwResponse g tag) s = .next t
       ∧ t.gw g = { s.gw g with
           cmds := dropFirst (s.gw g).cmds c, err := (s.gw g).err || 2 ≤ st, shown := some (tag, st, c.data) }
       ∧ (∀ n, n ≠ g → t.gw n = s.gw n)
       ∧ (st < 2 → t = { s with gws := t.gws })
       ∧ (2 ≤ st → t = { s with gws := t.gws, fresh := t.fresh, counts := t.counts, keeper := t.keeper, pins := t.pins, chans := t.chans }))
   ∧ (∀ (s : State) (g : Nat) (w : W128),
     let v := s.gw g
     g < 28 → s.netRuns 0 = true → s.regionAbsent g = false → s.resetting 3 v.region = false → bitOf v.ctl 0 = true → v.cmds = [] →
     fld w 0 3 = 5 → gwMask w ≠ 0 →
     ∃ t, Sys2Proof.Machine.exec (.gwToken g w) s = .next t
       ∧ t = { s with gws := t.gws } ∧ (t.gw g).cmds.map (·.status) = [some gwMalformed]))

/-! ## Personalities -/

/-- R353, R357, R358, R374, R435, R493: LOAD_PERSONALITY reads the header from host memory. One that passes the checks is queued,
last, and measured, and the command stays in flight; one that does not completes LOAD_FAILED with its cause. A header whose read
has failed (R422) is answered HOST_ERR.
It rests on the model's choices of log entries 150 and 151 (notes/assumptions).

Completion: under hypotheses on the state and the operands alone, its conclusion is that exec answers a next state for
`loadPersonality` (LOAD_PERSONALITY). -/
def Obligations.LoadsAreRequested : Prop :=
  ∀ (s : State) (h : Issuer) (image length : W64) (asid : BitVec 10) (dest : BitVec 48), s.accepts h →
    (s.begin h).isVf h.chan = false →
    let q := (s.begin h).chanPort h.chan
    let hdr := s.hostRead q image.toNat (min 512 length.toNat)
    let c := (s.begin h).requestCause hdr
    let lost := s.hostLost.contains keeperInit
    ∃ t, Sys2Proof.Machine.exec (.loadPersonality h image length asid dest) s = .next t
      ∧ (lost = true → t = { s with hostLost := dropFirst s.hostLost keeperInit, counts := t.counts, chans := t.chans }
          ∧ Answers s t h 0x02 stHostErr 0 0)
      ∧ (lost = false → c = 0 → t = { s.begin h with loader := t.loader, sec := t.sec, counts := t.counts }
          ∧ t.loader.queue = s.loader.queue ++ [{
                source := .host q image.toNat length.toNat, header := hdr, issuer := some h, asid := asid.toNat,
                dest := dest.toNat, key := (s.sec.unwrap hdr).1 }]
          ∧ t.mr (hdrKind hdr + 1) = Config.sm3 (s.mr (hdrKind hdr + 1) ++ Config.sm3 hdr)
          ∧ (∀ k, k ≠ hdrKind hdr + 1 → t.mr k = s.mr k))
      ∧ (lost = false → c ≠ 0 → t = { s with fresh := t.fresh, keeper := t.keeper, pins := t.pins, chans := t.chans, counts := t.counts }
          ∧ (t.chan h.chan).compls = (s.chan h.chan).compls ++ answerOf h 0x02 stLoadFailed 0 (BitVec.ofNat 32 c))

/-- R359, R376, R505, R508: IMAGE_START takes the slave port for a new image; IMAGE_DATA appends to it; CFG_STATUS, CSP_STATUS
and MGMT_RESP return what they say and change nothing else.

R505, R506, R508, R509: a request frame whose CRC agrees does what its operation does, as the command of that name does it on
the port, a write while the other port's is not still executing; one of no operation is answered MALFORMED, and one whose CRC does not
agree FRAME_CRC.

It rests on the model's choices of log entries 248, 250, 251 and 254 (notes/assumptions).

Completion: under hypotheses on the state and the operands alone, its conclusion is that exec answers a next state for
`imageStart` (IMAGE_START), `imageData` (IMAGE_DATA), `cfgStatus` (CFG_STATUS), `cspStatus` (CSP_STATUS), `mgmtResp`
(MGMT_RESP), `mgmtReq` (MGMT_REQ), `attest` (ATTEST). -/
def Obligations.TheSlavePortTakesImagesAndFrames : Prop :=
  (∀ (s : State), s.portsUp = true →
     (∀ dest, s.loader.cspOn = false → Sys2Proof.Machine.exec (.imageStart dest) s = .next { s with
       loader := { s.loader with cspOn := true, cspDest := dest, cspImage := [], cspBytes := [] } })
     ∧ (∀ bytes : List Byte, s.loader.cspOn = true →
       s.loader.cspImage.length + s.loader.cspBytes.length + bytes.length < 512 →
       Sys2Proof.Machine.exec (.imageData bytes) s = .next { s with
         loader := { s.loader with cspImage := s.loader.cspImage ++ (s.loader.cspBytes ++ bytes), cspBytes := [] } })
     ∧ Sys2Proof.Machine.exec .cfgStatus s
         = .next { s with loader := { s.loader with cspOut := leBytes 4 s.cfgStatus.toNat } }
     ∧ Sys2Proof.Machine.exec .cspStatus s = .next { s with loader := { s.loader with
         cspOut := leBytes 4 (4096 - s.loader.cspBytes.length
           + 2 ^ 13 * flag (s.loader.cspOn || s.loader.queue.any (fun l => l.source == .csp))
           + 2 ^ 14 * s.loader.cspCause) } }
     ∧ (bitOf s.keeper.cfg 2 = true → Sys2Proof.Machine.exec .mgmtResp s
         = .next { s with loader := { s.loader with cspOut := s.keeper.cspPort.resp.getD [0xFF] } }))
  ∧ (∀ (s : State) (frame : List Byte) (ok : Bool), s.mgmtUp .csp = true → s.keeper.cspPort.busy = false →
     s.keeper.stopped = false →
     let op := field frame 0 1
     let seq := BitVec.ofNat 8 (field frame 1 1)
     let arg := field frame 4 4
     let l := (frame.drop 8).take (frame.length - 12)
     (frameOk frame = false →
       Sys2Proof.Machine.exec (.mgmtReq frame ok) s = .next (s.respond .csp op seq.toNat stFrameCrc))
     ∧ (frameOk frame = true →
       (op = 0x01 → l = [] → Sys2Proof.Machine.exec (.mgmtReq frame ok) s
           = Sys2Proof.Machine.exec (.regRead .csp seq (BitVec.ofNat 32 arg)) s)
       ∧ (op = 0x02 → l.length = 4 → s.keeper.i3cPort.busy = false → Sys2Proof.Machine.exec (.mgmtReq frame ok) s
           = Sys2Proof.Machine.exec (.regWrite .csp seq (BitVec.ofNat 32 arg) false (BitVec.ofNat 64 (ofLe l))) s)
       ∧ (op = 0x03 → l = [] → arg < 2 ^ 25 → Sys2Proof.Machine.exec (.mgmtReq frame ok) s
           = Sys2Proof.Machine.exec (.telemetry .csp seq (BitVec.ofNat 8 arg) (BitVec.ofNat 16 (bits arg 8 16)) (bit arg 24)) s)
       ∧ (op = 0x05 → s.keeper.i3cPort.busy = false → l.length = 4 → ofLe l < 2 ^ 19 → Sys2Proof.Machine.exec (.mgmtReq frame ok) s
           = Sys2Proof.Machine.exec (.blockReset .csp seq { cls := ofLe l % 8, index := bits (ofLe l) 3 16 }) s)
       ∧ (op = 0x06 → s.keeper.i3cPort.busy = false → l.length % 8 = 0 → Sys2Proof.Machine.exec (.mgmtReq frame ok) s
           = Sys2Proof.Machine.exec (.mgmtSetLimits .csp seq ((chunks 8 l.length l).map (fun x =>
               (BitVec.ofNat 16 (field x 0 2), BitVec.ofNat 32 (field x 4 4))))) s)
       ∧ (op = 0x07 → s.keeper.i3cPort.busy = false → bits arg 2 4 = 0 → Sys2Proof.Machine.exec (.mgmtReq frame ok) s
           = Sys2Proof.Machine.exec (.slotWrite .csp seq (bit arg 0) (bit arg 1) (BitVec.ofNat 26 (arg / 64)) l) s)
       ∧ (op = 0x02 → l.length = 8 → s.keeper.i3cPort.busy = false → Sys2Proof.Machine.exec (.mgmtReq frame ok) s
           = Sys2Proof.Machine.exec (.regWrite .csp seq (BitVec.ofNat 32 arg) true (BitVec.ofNat 64 (ofLe l))) s)
       ∧ (op = 0x04 → l.length = 8 → arg < 2 → Sys2Proof.Machine.exec (.mgmtReq frame ok) s
           = Sys2Proof.Machine.exec (.logRead .csp seq (arg == 1) (BitVec.ofNat 64 (ofLe l))) s)
       ∧ (op = 0x08 → s.keeper.i3cPort.busy = false → l.length = 1 → arg < 4 → Sys2Proof.Machine.exec (.mgmtReq frame ok) s
           = Sys2Proof.Machine.exec (.configSet .csp seq (BitVec.ofNat 2 arg) (BitVec.ofNat 8 (ofLe l))) s)
       ∧ (op = 0x11 → s.keeper.i3cPort.busy = false → l.length = 1 → Sys2Proof.Machine.exec (.mgmtReq frame ok) s
           = Sys2Proof.Machine.exec (.ownerRevoke .csp seq (BitVec.ofNat 8 (ofLe l)) ok) s)
       ∧ (op = 0x10 → s.keeper.i3cPort.busy = false → l.length = 33 → Sys2Proof.Machine.exec (.mgmtReq frame ok) s
           = Sys2Proof.Machine.exec (.ownerProvision .csp seq (BitVec.ofNat 8 (field l 0 1)) (BitVec.ofNat 256 (field l 1 32)) ok) s)
       ∧ (op = 0x12 → s.keeper.i3cPort.busy = false → l.length = 2 → Sys2Proof.Machine.exec (.mgmtReq frame ok) s
           = Sys2Proof.Machine.exec (.policySet .csp seq (bit (field l 0 1) 0) (bit (field l 1 1) 0) ok) s)
       ∧ (op = 0x15 → s.keeper.i3cPort.busy = false → l.length = 2 → Sys2Proof.Machine.exec (.mgmtReq frame ok) s
           = Sys2Proof.Machine.exec (.rollbackAdvance .csp seq (BitVec.ofNat 8 (field l 0 1)) (BitVec.ofNat 8 (field l 1 1)) ok) s)
       ∧ (op = 0x16 → s.keeper.i3cPort.busy = false → bits arg 2 4 = 0 → Sys2Proof.Machine.exec (.mgmtReq frame ok) s
           = Sys2Proof.Machine.exec (.fwStage .csp seq (bit arg 0) (bit arg 1) (BitVec.ofNat 26 (arg / 64)) l) s)
       ∧ (op = 0x18 → l.length = 33 → Sys2Proof.Machine.exec (.mgmtReq frame ok) s
           = Sys2Proof.Machine.exec (.attest .csp seq (l.take 32) (BitVec.ofNat 8 (field l 32 1))) s)
       ∧ (op ∉ [0x01, 0x02, 0x03, 0x04, 0x05, 0x06, 0x07, 0x08, 0x10, 0x11, 0x12, 0x13, 0x14, 0x15, 0x16, 0x17, 0x18] →
           s.keeper.i3cPort.busy = false → Sys2Proof.Machine.exec (.mgmtReq frame ok) s = .next (s.respond .csp op seq.toNat stMalformed))
       ∧ (op = 0x13 → s.keeper.i3cPort.busy = false → Sys2Proof.Machine.exec (.mgmtReq frame ok) s
           = Sys2Proof.Machine.exec (.keyWrite .csp seq l) s)
       ∧ (op = 0x14 → s.keeper.i3cPort.busy = false → l = [] → Sys2Proof.Machine.exec (.mgmtReq frame ok) s
           = Sys2Proof.Machine.exec (.keyErase .csp seq) s)
       ∧ (op = 0x17 → s.keeper.i3cPort.busy = false → l = [] → arg < 2 → Sys2Proof.Machine.exec (.mgmtReq frame ok) s
           = Sys2Proof.Machine.exec (.fwActivate .csp seq (arg == 1)) s)))

/-- R360–R363, R366, R367, R374, R375: a PARTIAL load writes the frames that have come; while its image is still coming it holds its
region LOADING and isolated; one that ends well waits for the region's release, which makes it ACTIVE and tells the one who asked; one
that ends on a fault leaves the region INCOMPLETE with its cause, and one of no frames EMPTY. A region that no such load waits for and
that is not ACTIVE is not released. A TABLES load stages its sets for a commit or discards them; the commit, between no MODE step's
arrival and completion, makes them the committed ones and tiles of no ensemble adopt them.

R368, R369, R374: a MODEL load whose source is lost ends with cause AUTH and writes nothing; otherwise it ends, once its
payload is there, with the cause its segments give, and memory holds what they wrote; while a page of its is not there yet, it
waits. The one who asked is told.

It rests on the model's choices of log entries 152, 154, 155, 156 and 159 (notes/assumptions).

Completion: under hypotheses on the state and the operands alone, its conclusion is that exec answers a next state for
`partialLoad` (PARTIAL_LOAD), `regionRelease` (REGION_RELEASE), `tablesLoad` (TABLES_LOAD), `tableCommit`
(TABLE_COMMIT), `modelLoad` (MODEL_LOAD). -/
def Obligations.PartialTablesAndModelLoads : Prop :=
  ((∀ (s : State) (l : Load) (r : List Load), s.loader.queue = l :: r → hdrKind l.header = 2 → l.ended = false →
     let n := hdrRegion l.header
     let u := (if l.begun then s else s.beginPartial l.header).cspPull
     let e := u.payloadEnd l (u.parsed l)
     ∃ t, Sys2Proof.Machine.exec .partialLoad s = .next t
       ∧ t = { u with loader := t.loader, regions := t.regions, logic := t.logic, sec := t.sec, hostLost := t.hostLost,
                      keeper := t.keeper, pins := t.pins, chans := t.chans, counts := t.counts, fresh := t.fresh }
       ∧ t.loader.frames = (u.writeFrames (u.parsed l).frames).loader.frames
       ∧ (e = none → t = u.writeFrames (u.parsed l).frames)
       ∧ (e = none → l.begun = false → (t.region n).st = .loading ∧ (t.region n).isolated = true ∧ (t.region n).held = true
           ∧ (t.region n).release = false)
       ∧ (e = some 0 → 0 < hdrCount l.header → t.region n = { u.region n with cause := 0, svn := hdrSvn l.header, release := true })
       ∧ (e = some 0 → hdrCount l.header = 0 → t.region n = { u.region n with st := .empty, cause := 0, svn := hdrSvn l.header })
       ∧ (∀ c, e = some c → c ≠ 0 → t.region n = { u.region n with st := .incomplete, cause := c, release := false })
       ∧ (∀ k, k ≠ n → t.region k = s.region k))
   ∧ (∀ (s : State) (n : Nat), n ≤ 44 → (s.region n).release = true →
     let v : Region := { s.region n with st := .active, isolated := false, held := false, release := false }
     (s.releasing n = false → (s.region n).st = .active →
       Sys2Proof.Machine.exec (.regionRelease n) s = .next (s.setRegion n v))
     ∧ (s.releasing n = false → (s.region n).st ≠ .active → Sys2Proof.Machine.exec (.regionRelease n) s = .next s)
     ∧ (∀ (l : Load) (r : List Load), s.loader.queue = l :: r → s.releasing n = true →
       ((s.region n).st = .active ∨ (s.region n).st = .loading) →
       ∃ t, Sys2Proof.Machine.exec (.regionRelease n) s = .next t
         ∧ t = { s with loader := t.loader, regions := t.regions, sec := t.sec, hostLost := t.hostLost, keeper := t.keeper,
                        pins := t.pins, chans := t.chans, counts := t.counts, fresh := t.fresh }
         ∧ t.region n = v ∧ (∀ k, k ≠ n → t.region k = s.region k)
         ∧ (∀ h, l.issuer = some h → (s.chan h.chan).disabler = none → h.tag ∈ (s.chan h.chan).inflight →
             (t.chan h.chan).compls = (s.chan h.chan).compls ++ answerOf h 0x02 stOk 0 0)))
   ∧ (∀ (s : State) (l : Load) (r : List Load), s.loader.queue = l :: r → hdrKind l.header = 3 → l.ended = false →
     let u := s.cspPull
     let e := u.payloadEnd l (u.parsed l)
     ∃ t, Sys2Proof.Machine.exec .tablesLoad s = .next t
       ∧ t = { u with loader := t.loader, sec := t.sec, hostLost := t.hostLost, keeper := t.keeper, pins := t.pins, chans := t.chans,
                      counts := t.counts, fresh := t.fresh }
       ∧ (e = none → t = u)
       ∧ (e = some 0 → t.loader.commit = true
           ∧ t.loader.staged = (u.parsed l).sets.foldl (fun m x => Map.set m [] x.1 x.2) u.loader.staged)
       ∧ (∀ c, e = some c → c ≠ 0 → t.loader.staged = [] ∧ t.loader.commit = s.loader.commit)
       ∧ t.loader.committed = s.loader.committed)
   ∧ (∀ (s : State), s.loader.commit = true → s.modeInBarrier = false →
     ∃ t, Sys2Proof.Machine.exec .tableCommit s = .next t
       ∧ t = { s with loader := t.loader, tiles := t.tiles, sec := t.sec, hostLost := t.hostLost, keeper := t.keeper, pins := t.pins,
                      chans := t.chans, counts := t.counts, fresh := t.fresh }
       ∧ t.loader.commit = false ∧ t.loader.staged = []
       ∧ t.loader.committed = s.loader.staged.foldl (fun m x => Map.set m [] x.1 x.2) s.loader.committed
       ∧ (∀ k, k < 512 → s.ensOf k = 8 → s.ensOf (k + 1024) = 8 → t.tile k = { s.tile k with tables := t.loader.committed })
       ∧ (∀ k, (s.ensOf k ≠ 8 ∨ s.ensOf (k + 1024) ≠ 8) → t.tile k = s.tile k)))
  ∧ (∀ (s : State) (l : Load) (r : List Load), s.loader.queue = l :: r → hdrKind l.header = 4 →
     let u := (s.modHead (fun l => { l with begun := true })).cspPull
     let b := u.payload l
     let run := u.runModel { l with begun := true } b.1
     let ends (v t : State) (c : Nat) : Prop :=
       t = { v with loader := t.loader, sec := t.sec, hostLost := t.hostLost, keeper := t.keeper, pins := t.pins, chans := t.chans,
                    counts := t.counts, fresh := t.fresh }
       ∧ (∀ h, l.issuer = some h → (v.chan h.chan).disabler = none → h.tag ∈ (v.chan h.chan).inflight →
           (t.chan h.chan).compls
             = (v.chan h.chan).compls ++ answerOf h 0x02 (if c = 0 then stOk else stLoadFailed) 0 (BitVec.ofNat 32 c))
     ∃ t, Sys2Proof.Machine.exec .modelLoad s = .next t
       ∧ (b.2.2 = true → ends u t lcAuth)
       ∧ (b.2.2 = false → b.2.1 = false → t = u)
       ∧ (b.2.2 = false → b.2.1 = true → run.2 = ModelEnd.later → t = u)
       ∧ (∀ c, b.2.2 = false → b.2.1 = true → run.2 = ModelEnd.cause c → ends run.1 t c))

/-- R370–R373: a STATIC image that passes brings the device to the wait for DONE, one that fails leaves region 0 EMPTY with its
cause; the boot takes slot A, then slot B, and fails with both; thirty-two samples of DONE high in a row start the global
release, which turns the outputs on, with ALERT_N and HOT_N as they then stand, then writes on, then makes every region of the image
ACTIVE.
It rests on the model's choices of log entries 153, 154, 157, 158 and 178 (notes/assumptions).

Completion: under hypotheses on the state and the operands alone, its conclusion is that exec answers a next state for
`staticLoad` (STATIC_LOAD), `bootLoad` (BOOT_LOAD), `globalRelease` (GLOBAL_RELEASE). -/
def Obligations.StaticImagesBootAndRelease : Prop :=
  (∀ (s : State) (l : Load) (r : List Load), s.loader.queue = l :: r → hdrKind l.header = 1 →
    let u := ((s.setRegion 0 { s.region 0 with st := .loading }).modHead (fun l => { l with begun := true })).cspPull
    let e := u.payloadEnd { l with begun := true } (u.parsed l)
    ∃ t, Sys2Proof.Machine.exec .staticLoad s = .next t
      ∧ t = { s with loader := t.loader, regions := t.regions, dsps := t.dsps, gws := t.gws, bram := t.bram, flops := t.flops,
                     logic := t.logic, tiles := t.tiles, sec := t.sec, hostLost := t.hostLost, keeper := t.keeper, pins := t.pins,
                     chans := t.chans, counts := t.counts, fresh := t.fresh }
      ∧ (e = none → (t.region 0).st = .loading)
      ∧ (e = some 0 → t.loader.phase = 2 ∧ t.loader.doneHigh = 0 ∧ t.pins.done = true ∧ t.pins.cfgErrN = true
          ∧ 0 ∈ t.loader.bootRegions)
      ∧ (∀ c, e = some c → c ≠ 0 → (t.region 0).st = .empty ∧ (t.region 0).cause = c ∧ t.loader.phase = s.loader.phase))
  ∧ (∀ (s : State), s.loader.phase = 1 →
    ∃ t, Sys2Proof.Machine.exec .bootLoad s = .next t
      ∧ t = { s with loader := t.loader, regions := t.regions, dsps := t.dsps, gws := t.gws, bram := t.bram, flops := t.flops,
                     logic := t.logic, tiles := t.tiles, sec := t.sec, hostLost := t.hostLost, keeper := t.keeper, pins := t.pins,
                     chans := t.chans, counts := t.counts, fresh := t.fresh }
      ∧ ((s.bootFrom 0).2 = 0 → t.loader.phase = 2 ∧ t.loader.bootSlot = 0 ∧ t.pins.done = true)
      ∧ ((s.bootFrom 0).2 ≠ 0 → t.loader.slotAFail = true
          ∧ (t.loader.phase = 2 ∧ t.loader.bootSlot = 1 ∧ t.pins.done = true
            ∨ t.loader.phase = 5 ∧ t.loader.slotBFail = true ∧ t.pins.cfgErrN = false ∧ t.pins.done = false
              ∧ (t.region 0).st = .empty))
      ∧ ((s.slot 0).valid = false → (s.slot 1).valid = false →
          t.loader.phase = 5 ∧ t.loader.bootCause = lcFormat ∧ (t.region 0).cause = lcFormat))
  ∧ (∀ (s : State) (high : Bool), s.loader.phase = 2 →
    ∃ t, Sys2Proof.Machine.exec (.globalRelease high) s = .next t
      ∧ t = { s with loader := { s.loader with doneHigh := t.loader.doneHigh, phase := t.loader.phase,
                                               relStage := t.loader.relStage },
                     pins := { s.pins with doneIn := high } }
      ∧ (high = false → t.loader.doneHigh = 0 ∧ t.loader.phase = 2)
      ∧ (high = true → s.loader.doneHigh < 31 → t.loader.doneHigh = s.loader.doneHigh + 1 ∧ t.loader.phase = 2)
      ∧ (high = true → 31 ≤ s.loader.doneHigh → t.loader.phase = 3 ∧ t.loader.relStage = 0))
  ∧ (∀ (s : State) (high : Bool), s.loader.phase = 3 →
    ∃ t, Sys2Proof.Machine.exec (.globalRelease high) s = .next t
      ∧ (s.loader.relStage = 0 →
          t = { s with loader := { s.loader with relStage := 1 }, keeper := t.keeper, pins := t.pins, chans := t.chans,
                       counts := t.counts, fresh := t.fresh }
          ∧ t.pins.outputs = true ∧ t.pins.inputs = true ∧ t.pins.hotN = !s.gov.hot
          ∧ (s.pins.vioBad = [] → t.pins.alertN = ((s.keeper.alert &&& (s.keeper.mask ++ 1#1)) == 0)))
      ∧ (s.loader.relStage = 1 → t = { s with loader := { s.loader with relStage := 2 } })
      ∧ (2 ≤ s.loader.relStage → t = { s with loader := { s.loader with phase := 4 }, regions := t.regions }
          ∧ (∀ k ∈ s.loader.bootRegions, t.region k = { s.region k with st := .active, isolated := false, held := false })
          ∧ (∀ k, k ∉ s.loader.bootRegions → t.region k = s.region k)))

/-! ## Reset and bring-up -/

/-- R377–R381, R387, R390, R398, R415: a power-on reset clears what R379 does not keep, HBM and LTC with it, and RST_CAUSE holds POR
alone; what a thermal trip latched stands. A system reset, by pin, by register or by the watchdog, clears the same but keeps HBM and
LTC, and is discarded during a power-on reset; a core reset clears the units and keeps memory, and is discarded during another reset or
the option-load phase; each sets its bit of RST_CAUSE. Loss of the PLL's lock is held until a power-on reset or SYS_RST_N.

R385, R386, R371, R415, R489: a reset whose sources have gone ends into the option-load phase, one that a thermal trip holds does
not; the phase ends with the port split in force, the tile stores zero, the boot load to follow, and the repair applied, or, with both of
its copies lost, the manufacturing repair of the fuses; a key whose check fails is erased and TAMPERED is set.

It rests on the model's choices of log entries 162, 163, 164, 166, 168, 169 and 178 (notes/assumptions).

Completion: under hypotheses on the state and the operands alone, its conclusion is that exec answers a next state for
`powerOnReset` (POWER_ON_RESET), `coreReset` (CORE_RESET), `pllUnlock` (PLL_UNLOCK), `optionLoad` (OPTION_LOAD),
`systemReset` (SYSTEM_RESET), `sysWdog` (SYS_WDOG). -/
def Obligations.ResetsClearKeepAndLoadOptions : Prop :=
  (∀ (s : State),
     (∃ t, Sys2Proof.Machine.exec .powerOnReset s = .next t ∧ ResetClears t ∧ ResetKeeps s t
       ∧ t.rst = { level := .power, tripped := s.rst.tripped, tripWas := s.rst.tripWas } ∧ t.ltc = 0 ∧ t.hbm = [] ∧ t.hpoison = [])
     ∧ (∀ (c : Instr × Nat), (c = (.systemReset true, 1) ∨ c = (.systemReset false, 2) ∨ c = (.sysWdog, 3)) →
       (s.rst.level ≠ .power → ∃ t, Sys2Proof.Machine.exec c.1 s = .next t ∧ ResetClears t ∧ ResetKeeps s t
         ∧ t.rst.level = .system ∧ bitOf t.rst.cause c.2 = true ∧ t.rst.last = BitVec.ofNat 3 c.2
         ∧ t.rst.pllLost = (s.rst.pllLost && c.2 != 1)
         ∧ t.ltc = s.ltc ∧ t.hbm = s.hbm ∧ t.hpoison = s.hpoison)
       ∧ (s.rst.level = .power → Sys2Proof.Machine.exec c.1 s = .next s))
     ∧ (∀ b : Bool, (s.rst.level = .none → s.rst.loading = false →
       ∃ t, Sys2Proof.Machine.exec (.coreReset b) s = .next t
         ∧ t.banks = [] ∧ t.ses = [] ∧ t.sync = [] ∧ t.mses = [] ∧ t.tlbs = [] ∧ t.dsps = [] ∧ t.flops = []
         ∧ t.tiles = s.columnMaps ∧ (∀ e, (t.en e).st = .idle)
         ∧ bitOf t.rst.cause (if b then 5 else 6) = true
         ∧ t.hbm = s.hbm ∧ t.tstore = s.tstore ∧ t.regions = s.regions ∧ t.ltc = s.ltc ∧ t.ports = s.ports)
       ∧ ((s.rst.level ≠ .none ∨ s.rst.loading = true) → Sys2Proof.Machine.exec (.coreReset b) s = .next s))
     ∧ (s.rst.pllLost = false →
       ∃ t, Sys2Proof.Machine.exec .pllUnlock s = .next t
         ∧ t = { s with rst := { s.rst with pllLost := true }, fresh := t.fresh, counts := t.counts, keeper := t.keeper,
                        pins := t.pins, chans := t.chans }
         ∧ (t.keeper.general.get {} (s.keeper.nextGen % 520192)).code = cPllUnlock)
     ∧ (s.rst.pllLost = true → Sys2Proof.Machine.exec .pllUnlock s = .next s))
  ∧ ((∀ (s : State) (b : Bool) (r : BitVec 2), s.rst.level ≠ .none →
     (s.rst.tripped = none → Sys2Proof.Machine.exec (.optionLoad b r) s
       = .next { s with rst := { s.rst with level := .none, loading := true } })
     ∧ (s.rst.tripped ≠ none → Sys2Proof.Machine.exec (.optionLoad b r) s = .next s))
   ∧ (∀ (s : State) (b : Bool) (r : BitVec 2), s.rst.level = .none → s.rst.loading = true →
     let m := s.sec.fuses.repair
     ∃ t, Sys2Proof.Machine.exec (.optionLoad b r) s = .next t
       ∧ t = { s with rst := t.rst, tstore := t.tstore, tpoison := t.tpoison, tfixed := t.tfixed, terr := t.terr, health := t.health,
                      keeper := t.keeper, loader := { s.loader with phase := 1 }, pins := t.pins, sec := t.sec, tiles := t.tiles,
                      tserv := t.tserv, sserv := t.sserv, tspares := t.tspares, sspares := t.sspares, hstack := t.hstack,
                      pcs := t.pcs, zegus := t.zegus, chans := t.chans, counts := t.counts, fresh := t.fresh }
       ∧ t.rst = { s.rst with loading := false, storm := false, tripWas := none } ∧ t.keeper.splitNow = s.keeper.splits
       ∧ t.tstore = [] ∧ t.tpoison = [] ∧ t.tfixed = [] ∧ t.terr = [] ∧ t.pins.cfgErrN = true ∧ t.pins.term = true
       ∧ (r ≠ 0 → t.tserv = s.tserv ∧ t.sserv = s.sserv ∧ t.tspares = s.tspares ∧ t.sspares = s.sspares ∧ t.tiles = s.tiles
           ∧ t.pcs = s.pcs ∧ t.hstack = s.hstack ∧ t.zegus = s.zegus ∧ t.health = keptHealth s.health)
       ∧ (r = 0 → t.tserv = madeServices m.tiles ∧ t.sserv = madeServices m.ses ∧ t.tiles = madeTiles m.columns ∧ t.health = [])
       ∧ (s.sec.present = true → b = false → t.sec.present = false ∧ t.sec.bbk = 0 ∧ t.sec.tampered = true)
       ∧ ((s.sec.present = false ∨ b = true) → t.sec.present = s.sec.present ∧ t.sec.bbk = s.sec.bbk)
       ∧ t.sec.fuses = s.sec.fuses))

/-- R391–R393, R35, R398: a block reset that is not refused waits for its block to be idle, and faults the ensembles of a unit with the
code of R391; once the block is idle, or in the end forced, the block is reset and whoever asked is answered, with whether it was forced;
a pseudo-channel's is frozen where it is forced.

R394, R395, R422, R543: PERST takes a port's halves down and their channels, functions and sessions with them; a port that may
train comes up; a function-level reset of a physical function resets its half with the link as it is, one of a virtual function
disables its channels and resets its registers.

It rests on the model's choices of log entries 170, 171, 172, 173, 177 and 192 (notes/assumptions).

Completion: under hypotheses on the state and the operands alone, its conclusion is that exec answers a next state for
`resetBlock` (RESET_BLOCK), `blockReset` (BLOCK_RESET), `blockIdle` (BLOCK_IDLE), `perst` (PERST), `pcieTraining`
(PCIE_TRAINING), `flr` (FLR), `blockIdleTimeout` (BLOCK_IDLE_TIMEOUT). -/
def Obligations.BlocksAndPortsAreReset : Prop :=
  (let asked (s t : State) (b : BlockId) : Prop :=
     (∀ e, e < 8 → b.cls ≤ 1 → (s.en e).has (blockUnit b) = true →
         ((s.en e).st = .running ∨ (s.en e).st = .loaded ∨ (s.en e).st = .done) →
         (t.en e).st = .faulted ∧ (t.en e).fault = cBlockReset)
     ∧ t.hbm = s.hbm ∧ t.tstore = s.tstore ∧ (b.cls ≠ 1 → t.tiles = s.tiles)
   (∀ (s : State) (h : Issuer) (b : BlockId), s.accepts h → (s.begin h).isVf h.chan = false →
     (b.cls = 4 → b.index / 2 ≠ (s.begin h).chanPort h.chan / 2) →
     (s.resetRefusal b = none →
       ∃ t, Sys2Proof.Machine.exec (.resetBlock h b) s = .next t
         ∧ t.rst.waits = s.rst.waits ++ [{ block := b, issuer := some h, port := none }]
         ∧ (2 ≤ b.cls → t = { s.begin h with rst := t.rst }) ∧ asked s t b)
     ∧ (∀ st, s.resetRefusal b = some st →
       ∃ t, Sys2Proof.Machine.exec (.resetBlock h b) s = .next t ∧ t = { s with chans := t.chans } ∧ Answers s t h 0x10 st 0 0))
   ∧ (∀ (s : State) (p : MPort) (seq : Byte) (b : BlockId), s.mgmtQuiet p → s.resetRefusal b = none →
     ∃ t, Sys2Proof.Machine.exec (.blockReset p seq b) s = .next t
       ∧ t.rst.waits = s.rst.waits ++ [{ block := b, issuer := none, port := some (p, seq) }]
       ∧ (t.mport p).busy = true ∧ ((2 ≤ b.cls ∨ s.rst.pllLost = true) → t = { s with rst := t.rst, keeper := t.keeper })
       ∧ (s.rst.pllLost = false → asked s t b))
   ∧ (∀ (s : State) (b : BlockId) (w : BlockWait) (c : Instr) (forced : Bool), s.rst.pllLost = false →
     (c = .blockIdle b ∧ forced = false ∧ s.blockIdle b = true ∨ c = .blockIdleTimeout b ∧ forced = !s.blockIdle b) →
     s.rst.waits.find? (fun w => w.block == b) = some w →
     ∃ t, Sys2Proof.Machine.exec c s = .next t
       ∧ t.rst.waits = remFirst (fun w => w.block == b) s.rst.waits
       ∧ (b.cls = 0 → t.tile b.index = (s.tile b.index).blockReset ∧ (∀ k, k ≠ b.index → t.tile k = s.tile k)
           ∧ t.bk b.index = (s.bk b.index).blockReset ∧ t.bk (b.index + 1024) = (s.bk (b.index + 1024)).blockReset)
       ∧ (b.cls = 1 → (t.se b.index).slots = [] ∧ (t.se b.index).ctxs = [] ∧ t.tlb (seInit b.index) = []
           ∧ (∀ k, k ≠ b.index → t.se k = s.se k))
       ∧ (b.cls = 2 → forced = false → (t.pcs.get {} b.index).st = .training ∧ (t.pcs.get {} b.index).reads = []
           ∧ (t.pcs.get {} b.index).writes = [] ∧ (t.pcs.get {} b.index).throttled = [])
       ∧ (b.cls = 2 → forced = true → (t.pcs.get {} b.index).st = .frozen ∧ (t.pcs.get {} b.index).cause = 4)
       ∧ (b.cls = 3 → (t.region b.index).held = true ∧ (t.region b.index).isolated = true
           ∧ (t.region b.index).release = ((s.region b.index).st == .active))
       ∧ (b.cls = 4 → (t.port b.index).up = false)
       ∧ (∀ h, w.issuer = some h → w.port = none → b.cls < 4 → (s.chan h.chan).disabler = none →
           h.tag ∈ (s.chan h.chan).inflight →
           (t.chan h.chan).compls = (s.chan h.chan).compls ++ answerOf h 0x10 stOk 0 (BitVec.ofNat 32 (flag forced)))
       ∧ (∀ p seq, w.port = some (p, seq) → Responds t p 0x05 stOk seq (leBytes 4 (flag forced)))
       ∧ t.hbm = s.hbm ∧ t.tstore = s.tstore)
   ∧ (∀ (s : State) (b : BlockId), s.blockIdle b = false → Sys2Proof.Machine.exec (.blockIdle b) s = .next s))
  ∧ ((∀ (s : State) (p : Nat), p < 2 →
     ∃ t, Sys2Proof.Machine.exec (.perst p) s = .next t
       ∧ (t.port (2 * p)).up = false ∧ (t.port (2 * p + 1)).up = false
       ∧ (∀ q, q / 2 ≠ p → t.port q = s.port q)
       ∧ (∀ c, s.ownerOf c / 2 = p → t.chan c = {}) ∧ (∀ c, s.ownerOf c / 2 ≠ p → t.chan c = s.chan c)
       ∧ (∀ n, n / 128 = p → t.fn n = {}) ∧ (∀ n, n / 128 ≠ p → t.fn n = s.fn n)
       ∧ t = { s with sync := t.sync, net := t.net, sec := t.sec, chans := t.chans, cacheLru := t.cacheLru, fns := t.fns, ports := t.ports }
       ∧ t.sec = { s.sec with sessions := t.sec.sessions, spdmOut := t.sec.spdmOut }
       ∧ (∀ q, t.sec.sessions.get 0 q = if q / 2 = p then 0 else s.sec.sessions.get 0 q))
   ∧ (∀ (s : State) (p half : Nat), p < 2 → half < 2 → s.portsUp = true → (half = 1 → s.split p = true) →
     ∃ t, Sys2Proof.Machine.exec (.pcieTraining p half) s = .next t
       ∧ t = { s with ports := t.ports, fns := t.fns }
       ∧ (t.port (2 * p + half)).up = true ∧ (∀ q, q ≠ 2 * p + half → t.port q = s.port q))
   ∧ (∀ (s : State) (q : Nat), q < 4 →
     ∃ t, Sys2Proof.Machine.exec (.flr q 0) s = .next t
       ∧ t.ports.get {} q = { up := (s.port q).up }
       ∧ (∀ c, s.ownerOf c = q → t.chan c = {}) ∧ (∀ c, s.ownerOf c ≠ q → t.chan c = s.chan c)
       ∧ (∀ n, n / 64 = q → t.fn n = {}) ∧ (∀ n, n / 64 ≠ q → t.fn n = s.fn n)
       ∧ t = { s with sync := t.sync, net := t.net, sec := t.sec, chans := t.chans, cacheLru := t.cacheLru, fns := t.fns, ports := t.ports })
   ∧ (∀ (s : State) (q n : Nat), q < 4 → 0 < n → n < 64 →
     ∃ t, Sys2Proof.Machine.exec (.flr q n) s = .next t
       ∧ t.fn (64 * q + n) = {} ∧ (∀ k, k ≠ 64 * q + n → t.fn k = s.fn k)
       ∧ (∀ c, c < 4096 → s.chanFn c = 64 * q + n → (t.chan c).enabled = false)
       ∧ t.ports = s.ports ∧ t.hbm = s.hbm ∧ t.tstore = s.tstore ∧ t.tiles = s.tiles))

/-! ## Clocks, power and thermal governance -/

/-- R405–R408, R410, R416, R417, R439: a control interval puts the limits accepted since the last in force; while HOT does not
hold, every domain's point is at or below what either governor proposes, and its rate is no higher than its point's; while it does, or
the cores do not run, every domain holds its point, and while the current limit holds every tier domain. A settled voltage lets a raised rate rise.

R304, R409, R413–R415, R401, R402, R532: a sensor's reading is kept; at T_HOT it pulls HOT_N low, once the outputs are on, and takes the domains it
concerns to OP7, until every sensor is 5 °C below; I_FAST takes every tier domain there; a thermal trip latches the sensor, pulls THERM_TRIP_N low and resets the
system with its memory kept, or extends a power-on reset; a rail out of range is recorded, VK out of range is a power-on reset, and a bank whose supply is
wrong is disabled until it returns.

It rests on the model's choices of log entries 164, 180, 183, 184, 186, 187, 188, 189 and 191 (notes/assumptions).

Completion: under hypotheses on the state and the operands alone, its conclusion is that exec answers a next state for
`controlInterval` (CONTROL_INTERVAL), `voltageSettled` (VOLTAGE_SETTLED), `sensorRead` (SENSOR_READ), `iFast` (I_FAST),
`thermTrip` (THERM_TRIP), `railFault` (RAIL_FAULT), `powerOnReset` (POWER_ON_RESET), `vioSupplyReturned`
(VIO_SUPPLY_RETURNED). -/
def Obligations.IntervalsSensorsAndRailsGovern : Prop :=
  ((∀ (s : State) (w tw : Nat), s.watched = true → s.keeperRuns = true → s.keeper.held = [] →
     ∃ t, Sys2Proof.Machine.exec (.controlInterval w tw) s = .next t
       ∧ t.keeper.limitQ = [] ∧ t.gov.power = w % 65536 ∧ t.gov.current = s.gov.current - 1
       ∧ (∀ id, t.limit id = (s.keeper.limitQ.foldl (fun (u : State) q => u.setPairs q.2.2) s).limit id)
       ∧ (s.gov.hot = true → ∀ d, t.dom d = s.dom d) ∧ (1 < s.gov.current → ∀ d, d < 32 → t.dom d = s.dom d)
       ∧ (s.gov.hot = false → ∀ d ∈ s.domains, (s.gov.current ≤ 1 ∨ 32 ≤ d) →
           (t.dom d).thermOp ≤ (t.dom d).op ∧ (t.dom d).powerOp ≤ (t.dom d).op ∧ (t.dom d).rate ≤ opRate (t.dom d).op)
       ∧ t.hbm = s.hbm ∧ t.tstore = s.tstore ∧ t.tiles = s.tiles ∧ t.banks = s.banks)
   ∧ (∀ (s : State) (w tw : Nat), (s.watched = false ∨ s.keeperRuns = false) →
     Sys2Proof.Machine.exec (.controlInterval w tw) s = .next s)
   ∧ (∀ (s : State) (d : Nat), (s.dom d).rising = true →
     ∃ t, Sys2Proof.Machine.exec (.voltageSettled d) s = .next t
       ∧ t = { s with gov := { s.gov with domains := t.gov.domains } }
       ∧ t.dom d = { s.dom d with
           rate := opRate (s.dom d).op, mv := s.opVoltage d (s.dom d).op, rising := false }
       ∧ ∀ k, k ≠ d → t.dom k = s.dom k))
  ∧ ((∀ (s : State) (n : Nat) (x : Int), n < 1024 → s.watched = true →
     ∃ t, Sys2Proof.Machine.exec (.sensorRead n x) s = .next t
       ∧ t.gov.temps.get 0 n = x ∧ (∀ k, k ≠ n → t.gov.temps.get 0 k = s.gov.temps.get 0 k)
       ∧ (16 * (s.limit 0x04 : Int) ≤ x → t.gov.hot = true ∧ (s.gov.hot = false → t.pins.hotN = !s.pins.outputs)
           ∧ ∀ d ∈ s.hotDomains n, (t.dom d).op = 7)
       ∧ (x < 16 * (s.limit 0x04 : Int) → s.gov.hot = false → t.gov.hot = false ∧ ∀ d, t.dom d = s.dom d)
       ∧ (s.gov.hot = true → x < 16 * (s.limit 0x04 : Int) → (t.gov.hot = false ↔
           ∀ y ∈ t.gov.temps, y.1 < 1024 → y.2 < 16 * (s.limit 0x04 : Int) - 80) ∧ (t.gov.hot = false → t.pins.hotN = true))
       ∧ t = { s with gov := t.gov, health := t.health, tserv := t.tserv, sserv := t.sserv, tspares := t.tspares,
                      sspares := t.sspares, keeper := t.keeper, pins := t.pins, chans := t.chans, counts := t.counts,
                      fresh := t.fresh, rst := { s.rst with tripped := t.rst.tripped, tripWas := t.rst.tripWas } })
   ∧ (∀ (s : State), s.watched = true →
     ∃ t, Sys2Proof.Machine.exec .iFast s = .next t
       ∧ t = { s with gov := { s.gov with domains := t.gov.domains, current := 2 } }
       ∧ ∀ d, d < 32 → (t.dom d).op = 7 ∧ (t.dom d).rate ≤ opRate 7)
   ∧ (∀ (s : State) (n : Nat) (x : Int), tripPoint n ≤ x →
     ∃ t, Sys2Proof.Machine.exec (.thermTrip n x) s = .next t
       ∧ t.rst.tripped = some (n, x) ∧ t.pins.thermTripN = false
       ∧ (s.rst.level ≠ .power → t.rst.level = .system ∧ bitOf t.rst.cause 4 = true
           ∧ ResetClears t ∧ ResetKeeps s t ∧ t.hbm = s.hbm ∧ t.ltc = s.ltc)
       ∧ (s.rst.level = .power → t = { s with gov := t.gov, rst := t.rst, pins := t.pins } ∧ t.rst.level = .power))
   ∧ (∀ (s : State) (n : Nat) (x : Int), x < tripPoint n → Sys2Proof.Machine.exec (.thermTrip n x) s = .next s)
   ∧ (∀ (s : State), Sys2Proof.Machine.exec (.railFault 7 none) s = Sys2Proof.Machine.exec .powerOnReset s)
   ∧ (∀ (s : State) (r : Nat), r < 21 → r ≠ 7 → s.rst.level = .none → s.pins.outputs = true →
     ∃ t, Sys2Proof.Machine.exec (.railFault r none) s = .next t
       ∧ t = { s with fresh := t.fresh, counts := t.counts, keeper := t.keeper, pins := t.pins, chans := t.chans }
       ∧ (∀ b, b ∈ t.pins.vioBad ↔ b ∈ s.pins.vioBad ∨ 8 ≤ r ∧ r < 20 ∧ b = r - 8))
   ∧ (∀ (s : State) (b : Nat), Sys2Proof.Machine.exec (.vioSupplyReturned b) s
       = .next { s with pins := { s.pins with vioBad := s.pins.vioBad.filter (· != b) } }))

/-! ## The host interface -/

/-- R423, R432, R433, R425, R427: a poll clears the words it swapped and serves the channels they name, and the interval starts
again at its shortest; a doorbell record read again for a channel whose completion waits is taken, or, malformed, ends the
channel.

R429, R430, R434, R422: a completion that waits is written, 32 bytes at the ring's tail, once the ring has room; a channel that
is due raises its vector, sending its message or setting its pending bit; a host access without an answer in time ends as
HOST_ERR: one that is on its way, or the next that its initiator makes.

It rests on the model's choices of log entries 73, 197, 198 and 204 (notes/assumptions).

Completion: under hypotheses on the state and the operands alone, its conclusion is that exec answers a next state for
`poll` (POLL), `doorbellReread` (DOORBELL_REREAD), `completionWrite` (COMPLETION_WRITE), `interrupt` (INTERRUPT),
`completionTimeout` (COMPLETION_TIMEOUT). -/
def Obligations.DoorbellsCompletionsAndInterrupts : Prop :=
  ((∀ (s : State) (fn : Nat) (w : PollWords), fn < 256 → s.rst.pllLost = false → bitOf (s.fn fn).summary 0 = true →
     s.portHere (fn / 64) = true →
     w.top = 0 → bitOf w.admin 0 = false →
     let base := fld (s.fn fn).summary 6 58 * 64
     ∃ t, Sys2Proof.Machine.exec (.poll fn w) s = .next t
       ∧ t = { s with fns := t.fns, hostMem := t.hostMem }
       ∧ t.fn fn = (s.fn fn).polled (w.admin != 0)
       ∧ (∀ i, i < 8 → w.admin ≠ 0 → t.hostByte (fn / 64) (base + 8 + i) = 0)
       ∧ (w.admin = 0 → t.hostMem = s.hostMem)
       ∧ (∀ k, (k < hostKey (fn / 64) (base + 8) ∨ hostKey (fn / 64) (base + 8) + 8 ≤ k) →
           Map.get t.hostMem 0 k = Map.get s.hostMem 0 k)
       ∧ ∀ k, k ≠ fn → t.fn k = s.fn k)
   ∧ (∀ (s : State) (fn g b : Nat), fn < 256 → s.rst.pllLost = false → bitOf (s.fn fn).summary 0 = true →
     s.portHere (fn / 64) = true →
     g < 64 → b < 64 →
     let w : PollWords := { top := BitVec.ofNat 64 (2 ^ g), admin := 0, groups := [(g, BitVec.ofNat 64 (2 ^ b))] }
     let base := fld (s.fn fn).summary 6 58 * 64
     ∃ t u, Sys2Proof.Machine.exec (.poll fn w) s = .next t
       ∧ u = { s with fns := u.fns, hostMem := u.hostMem }
       ∧ u.fn fn = { s.fn fn with interval := (s.fn fn).minNs, empty := 0 }
       ∧ (∀ i, i < 8 → u.hostByte (fn / 64) (base + i) = 0 ∧ u.hostByte (fn / 64) (base + 64 + 8 * g + i) = 0)
       ∧ t = u.serve fn (64 * g + b)
       ∧ ((s.chan (64 * g + b)).enabled = false → t = u))
   ∧ (∀ (s : State) (q : Nat), q < 4 → s.rst.pllLost = false → bitOf (s.fn (64 * q)).summary 0 = true → s.portHere q = true →
     let base := fld (s.fn (64 * q)).summary 6 58 * 64
     ∃ t u : State, Sys2Proof.Machine.exec (.poll (64 * q) { top := 0, admin := 1, groups := [] }) s = .next t
       ∧ u = { s with fns := u.fns, hostMem := u.hostMem }
       ∧ u.fn (64 * q) = { s.fn (64 * q) with interval := (s.fn (64 * q)).minNs, empty := 0 }
       ∧ (∀ i, i < 8 → u.hostByte q (base + 8 + i) = 0) ∧ t = u.serve (64 * q) (4096 + q))
   ∧ (∀ (s : State) (c : Nat), c < 4096 → s.rst.pllLost = false → (s.chan c).compls ≠ [] → (s.chan c).enabled = true →
     (s.port (s.ownerOf c)).up = true →
     let d := s.hostRead (s.ownerOf c) (s.dbAddr c) 16
     ∃ t, Sys2Proof.Machine.exec (.doorbellReread c) s = .next t
       ∧ (s.badDoorbell c d = false → t = { s with chans := t.chans }
           ∧ t.chan c = { s.chan c with
               sqTail := BitVec.ofNat 16 (field d 0 2), cqHead := BitVec.ofNat 16 (field d 2 2),
               eqHead := BitVec.ofNat 16 (field d 4 2) }
           ∧ ∀ k, k ≠ c → t.chan k = s.chan k)
       ∧ (s.badDoorbell c d = true → (t.chan c).enabled = false
           ∧ t = { s with chans := t.chans, fresh := t.fresh, counts := t.counts, keeper := t.keeper, pins := t.pins })))
  ∧ ((∀ (s : State) (c : Nat) (x : Compl) (r : List Compl), s.rst.pllLost = false → (s.chan c).compls = x :: r → s.cqRoom c = true →
     (s.port (s.ownerOf c)).up = true → (s.chan c).disabler = none →
     let v := s.chan c
     let a := s.cqBase c + 32 * (v.cqTail.toNat % 2 ^ s.cqLog c)
     ∃ t, Sys2Proof.Machine.exec (.completionWrite c) s = .next t
       ∧ t = { s with hostMem := t.hostMem, chans := t.chans }
       ∧ (∀ i, i < 32 → t.hostByte (s.ownerOf c) (a + i) = nth (complBytes x v.sqHead v.phase) i 0)
       ∧ (∀ k, (k < hostKey (s.ownerOf c) a ∨ hostKey (s.ownerOf c) a + 32 ≤ k) →
           Map.get t.hostMem 0 k = Map.get s.hostMem 0 k)
       ∧ (t.chan c).phase = (if v.cqTail.toNat % 2 ^ s.cqLog c = 2 ^ s.cqLog c - 1 then !v.phase else v.phase)
       ∧ (t.chan c).cqTail = v.cqTail + 1 ∧ (t.chan c).unsignalled = v.unsignalled + 1
       ∧ (r ≠ [] → (t.chan c).compls = r ∧ (t.chan c).sqHead = v.sqHead)
       ∧ (∀ d, d ≠ c → t.chan d = s.chan d))
   ∧ (∀ (s : State) (c : Nat) (e : Bool), s.rst.pllLost = false →
     ((s.chan c).signalNow = true ∨ s.coalCount c ≤ (s.chan c).unsignalled ∨ e = true ∧ 0 < (s.chan c).unsignalled) →
     let v := (s.fn (s.chanFn c)).vectors.get {} (s.chanVector c)
     ∃ t, Sys2Proof.Machine.exec (.interrupt c e) s = .next t
       ∧ t.chan c = { s.chan c with unsignalled := 0, signalNow := false }
       ∧ (∀ d, d ≠ c → t.chan d = s.chan d)
       ∧ (v.masked = false → t = { s with chans := t.chans, msix := s.msix ++ [(s.chanFn c, s.chanVector c)] })
       ∧ (v.masked = true → t = { s with chans := t.chans, fns := t.fns }
           ∧ (t.fn (s.chanFn c)).vectors.get {} (s.chanVector c) = { v with pending := true }))
   ∧ (∀ (s : State) (r : Resp) (pre post : List Packet), s.net = pre ++ .resp r :: post →
     64 ≤ r.stack → r.stack < 68 → (∀ x, Packet.resp x ∈ pre → x.init ≠ r.init ∨ x.sub ≠ r.sub ∨ x.seq ≠ r.seq) →
     Sys2Proof.Machine.exec (.completionTimeout r.init r.sub r.seq) s = .next { s with net := pre ++ .ack {
       init := r.init, sub := r.sub, seq := r.seq, epoch := r.epoch, stack := r.stack, block := r.block, status := .hostErr } :: post })
   ∧ (∀ (s : State) (init : BitVec 12) (sub : BitVec 4) (seq : W32),
     (∀ x, Packet.resp x ∈ s.net → x.init = init → x.sub = sub → x.seq = seq → x.stack < 64 ∨ 68 ≤ x.stack) →
     s.mayLose init.toNat = true → s.hostLost.contains init.toNat = false →
     Sys2Proof.Machine.exec (.completionTimeout init sub seq) s = .next { s with hostLost := s.hostLost ++ [init.toNat] }))

/-- R425, R439, R440, R442: ENABLE of a channel whose entry is sound, from the admin ring that owns it, starts its rings at 0;
DISABLE stops it; SET_LIMITS in range waits for the next control interval; QUERY writes its item to the buffer,
and clears a tile's counters where it is asked to; CORRELATE_TIME
returns LTC, and PTM time where there is one; NOP completes.

R435, R436, R182, R438: a COPY between places that can be reached writes at the destination what it read at the source and
completes with its length; a MAP_PAGES writes its entries, drops the translations of its range, and completes once no access
to the range is outstanding.

It rests on the model's choices of log entries 60, 114, 193, 194, 195, 199, 200 and 201 (notes/assumptions).

Completion: under hypotheses on the state and the operands alone, its conclusion is that exec answers a next state for
`hostNop` (HOST_NOP), `correlateTime` (CORRELATE_TIME), `setLimits` (SET_LIMITS), `query` (QUERY), `enable` (ENABLE),
`disable` (DISABLE), `copy` (COPY), `mapPages` (MAP_PAGES). -/
def Obligations.HostCommandsActAndComplete : Prop :=
  ((∀ (s : State) (h : Issuer), s.accepts h →
     ∃ t, Sys2Proof.Machine.exec (.hostNop h) s = .next t
       ∧ t = { s with chans := t.chans } ∧ Answers s t h 0x00 stOk 0 0)
   ∧ (∀ (s : State) (h : Issuer), s.accepts h →
     (∃ t, Sys2Proof.Machine.exec (.correlateTime h none) s = .next t
       ∧ t = { s with chans := t.chans } ∧ Answers s t h 0x0F stOk (BitVec.ofNat 128 s.ltc.toNat) 0)
     ∧ ∀ (m : W64) (u : W32), ∃ t, Sys2Proof.Machine.exec (.correlateTime h (some (m, u))) s = .next t
       ∧ t = { s with chans := t.chans }
       ∧ Answers s t h 0x0F stOk (BitVec.ofNat 128 (s.ltc.toNat + 2 ^ 64 * m.toNat)) u)
   ∧ (∀ (s : State) (h : Issuer) (pairs : List (BitVec 16 × W32)), s.accepts h → (s.begin h).isVf h.chan = false →
     s.limitsOk (usedPairs pairs) = true →
     Sys2Proof.Machine.exec (.setLimits h pairs) s
       = .next { s.begin h with keeper := { s.keeper with limitQ := s.keeper.limitQ ++ [(some h, none, usedPairs pairs)] } })
   ∧ (∀ (s : State) (h : Issuer) (item : Byte) (index : BitVec 16) (clear : Bool) (buf len : W64) (l : List Byte), s.accepts h →
     (s.begin h).mayQuery h item.toNat index.toNat = true → (s.begin h).queryItem item.toNat index.toNat = .ok l →
     l.length ≤ len.toNat →
     let q := (s.begin h).chanPort h.chan
     ∃ t, Sys2Proof.Machine.exec (.query h item index clear buf len) s = .next t
       ∧ (∀ i, i < l.length → t.hostByte q (buf.toNat + i) = nth l i 0)
       ∧ (∀ k, (k < hostKey q buf.toNat ∨ hostKey q buf.toNat + l.length ≤ k) → Map.get t.hostMem 0 k = Map.get s.hostMem 0 k)
       ∧ t = { (if clear = true ∧ item.toNat = 0x03 then s.clearTile index.toNat else s) with
               hostMem := t.hostMem, chans := t.chans }
       ∧ Answers s t h 0x0E stOk (BitVec.ofNat 128 l.length) 0)
   ∧ (∀ (s : State) (h : Issuer) (c : BitVec 12), s.accepts h → (s.begin h).mayControl h c.toNat = true →
     (s.chan c.toNat).enabled = false → (s.chan c.toNat).disabler = none →
     s.entryOk c.toNat (s.readChanEntry c.toNat) = true →
     ∃ t, Sys2Proof.Machine.exec (.enable h c) s = .next t
       ∧ t = { s with chans := t.chans }
       ∧ t.chan c.toNat = { enabled := true, entry := s.readChanEntry c.toNat }
       ∧ (t.chan h.chan).compls = (s.chan h.chan).compls ++ answerOf h 0x12 stOk 0 0
       ∧ ∀ d, d ≠ c.toNat → d ≠ h.chan → t.chan d = s.chan d)
   ∧ (∀ (s : State) (h : Issuer) (c : BitVec 12), s.accepts h → (s.begin h).mayControl h c.toNat = true →
     (s.chan c.toNat).disabler = none →
     ∃ t, Sys2Proof.Machine.exec (.disable h c) s = .next t
       ∧ (t.chan c.toNat).enabled = false ∧ t.cacheLru = s.cacheLru.erase c.toNat
       ∧ ((s.chan c.toNat).fetched = [] → (s.chan c.toNat).inflight = [] → (s.chan c.toNat).compls = [] → s.sync = [] →
           (t.chan h.chan).compls = (s.chan h.chan).compls ++ answerOf h 0x12 stOk 0 0
           ∧ (t.chan c.toNat).cached = false ∧ (t.chan c.toNat).entry = [])
       ∧ t = { s with chans := t.chans, cacheLru := t.cacheLru, sync := t.sync }))
  ∧ ((∀ (s u v : State) (h : Issuer) (src dst len : W64) (ss ds : BitVec 2) (asid : BitVec 10) (l : List (Byte × Bool))
       (g : List Byte) (b : Bool), s.accepts h →
     (s.begin h).copyRefusal h dst.toNat len.toNat ss.toNat ds.toNat asid.toNat = none →
     let n := len.toNat
     (s.begin h).copyRead h ss.toNat asid.toNat (blockFuel n) src.toNat n = (u, .bytes g b, l) →
     u.copyWrite h ds.toNat asid.toNat (n / 64 + 2) dst.toNat l = (v, .done) →
     ∃ t, Sys2Proof.Machine.exec (.copy h src dst len ss ds asid) s = .next t
       ∧ t = { v with chans := t.chans }
       ∧ Answers v t h 0x01 stOk (BitVec.ofNat 128 n) 0
       ∧ l.length = n
       ∧ t.tstore = s.tstore ∧ t.ens = s.ens ∧ t.banks = s.banks ∧ t.tiles = s.tiles ∧ t.sync = s.sync)
   ∧ (∀ (s : State) (h : Issuer) (src dst len : W64) (asid : BitVec 10), s.accepts h →
     s.hostLost.contains ((s.begin h).hostTlb h.chan) = false →
     len.toNat % 4 = 0 → 0 < len.toNat →
     dst.toNat % 64 + len.toNat ≤ 64 → src.toNat % 64 + len.toNat ≤ 64 →
     let q := (s.begin h).chanPort h.chan
     ∃ t, Sys2Proof.Machine.exec (.copy h src dst len 0 0 asid) s = .next t
       ∧ (∀ i, i < len.toNat → t.hostByte q (dst.toNat + i) = s.hostByte q (src.toNat + i))
       ∧ (∀ k, (k < hostKey q dst.toNat ∨ hostKey q dst.toNat + len.toNat ≤ k) → Map.get t.hostMem 0 k = Map.get s.hostMem 0 k)
       ∧ t = { s with hostMem := t.hostMem, counts := t.counts, chans := t.chans }
       ∧ (t.chan h.chan).compls = (s.chan h.chan).compls ++ answerOf h 0x01 stOk (BitVec.ofNat 128 len.toNat) 0)
   ∧ (∀ (s x u : State) (h : Issuer) (asid : BitVec 10) (all : Bool) (va len list : W64) (n : W32) (bytes : List Byte), s.accepts h →
     (s.begin h).isVf h.chan = false → va.toNat % 65536 = 0 → len.toNat % 65536 = 0 → n.toNat ≤ 65536 →
     s.mapWaits = [] →
     (if n.toNat = 0 then (s.begin h, some [])
       else (s.begin h).hostFetch ((s.begin h).hostTlb h.chan) ((s.begin h).chanPort h.chan) list.toNat (16 * n.toNat))
       = (x, some bytes) →
     x.writeEntries (x.hostTlb h.chan) (chunks 16 n.toNat bytes) = (u, .done) →
     let w : MapWait := { issuer := h, asid := asid.toNat, all := all, va := va.toNat, len := len.toNat }
     let outside (e : TlbEntry) : Prop := e.asid ≠ asid.toNat ∨ all = false ∧
       (va.toNat + len.toNat ≤ e.page * pageSize e.big ∨ (e.page + 1) * pageSize e.big ≤ va.toNat)
     ∃ t, Sys2Proof.Machine.exec (.mapPages h asid all va len list n) s = .next t
       ∧ t.hbm = u.hbm
       ∧ t = { u with tlbs := t.tlbs, walkers := t.walkers, mapWaits := t.mapWaits, ens := t.ens, banks := t.banks, chans := t.chans,
                      cacheLru := t.cacheLru }
       ∧ (∀ r e, e ∈ t.tlb r → outside e) ∧ (∀ r e, e ∈ u.tlb r → outside e → e ∈ t.tlb r)
       ∧ (s.rangeBusy w = true → t.mapWaits = [w] ∧ t.chans = u.chans)
       ∧ (s.rangeBusy w = false → t.mapWaits = [] ∧ Answers u t h 0x09 stOk 0 0)
       ∧ t.tstore = s.tstore ∧ t.tiles = s.tiles ∧ t.ses = s.ses))

/-! ## Zegus links -/

/-- R446, R450, R451: the next frame of an UP link is accepted. A PUT that memory takes writes each piece it carries at the place of its address, and
no other byte of HBM, and is answered OK; a GET_REQ is answered with the 256 bytes of its block and its EPOCH (R272), and changes no memory.

R158, R168, R172, R202, R451: a GET_RESP lands in the slot of the transaction it answers, an OK acknowledgement retires the
part it answers, a RING frame lands in its slot of the ring and is answered OK, a GRANT adds its grants to those
that the sending context holds of that receiver, and an ARRIVE frame becomes one token on the floor.

It rests on the model's choices of log entries 77, 78, 208, 209, 210 and 211 (notes/assumptions).

Completion: under hypotheses on the state and the operands alone, its conclusion is that exec answers a next state for
`put` (PUT), `getReq` (GET_REQ), `getResp` (GET_RESP), `ackFrame` (ACK_FRAME), `ring` (RING), `grant` (GRANT),
`arriveFrame` (ARRIVE_FRAME). -/
def Obligations.FramesOfPeersAreDelivered : Prop :=
  ((∀ (s u v : State) (die m o : Nat) (f : Frame), s.receives die f 0x0 0 →
     bitOf s.zegus.ctl 0 = true →
     (s.accepted die f).remotePlace die (f.addr.toNat / 256 * 256) true = (u, some (.ok (m, o))) → o % 256 = 0 →
     (pieceRuns f.len f.data).foldl (fun (x : State × Put) (j : Nat × List Byte) => match x with
         | (s, .done) => s.writePlace (linkInit die) (.hbm m (o + j.1)) j.2 (f.vstate == 2) (f.addr.toNat / 256 * 256)
         | x => x) (u, Put.done) = (v, Put.done) →
     ∃ t, Sys2Proof.Machine.exec (.put die f) s = .next t
       ∧ (t.link die).rxSeq = (s.link die).rxSeq + 1
       ∧ (∀ j k i : Nat, (onesOf f.len.toNat 4)[k]? = some j → i < 64 →
           t.hbmByte m (o + 64 * j + i) = nth (fit 0 64 ((f.data.drop (64 * k)).take 64)) i 0)
       ∧ (∀ m' o' : Nat, (∀ j ∈ onesOf f.len.toNat 4, ∀ i < 64, hbmKey m' o' ≠ hbmKey m (o + 64 * j + i)) →
           t.hbmByte m' o' = s.hbmByte m' o')
       ∧ Sends s t (ackOf s.devId f 0)
       ∧ t = { v with zegus := t.zegus, fresh := t.fresh, counts := t.counts, keeper := t.keeper, pins := t.pins, chans := t.chans }
       ∧ t.tstore = s.tstore ∧ t.tiles = s.tiles ∧ t.sync = s.sync ∧ t.ens = s.ens ∧ t.ses = s.ses)
   ∧ (∀ (s u v : State) (die m o : Nat) (f : Frame) (l : List Byte) (bad : Bool), s.receives die f 0x3 1 →
     bitOf s.zegus.ctl 0 = true →
     (s.accepted die f).remotePlace die (f.addr.toNat / 256 * 256) false = (u, some (.ok (m, o))) →
     u.readPlace (linkInit die) (.hbm m o) 256 (f.addr.toNat / 256 * 256) = (v, .bytes l bad) →
     ∃ t, Sys2Proof.Machine.exec (.getReq die f) s = .next t
       ∧ (t.link die).rxSeq = (s.link die).rxSeq + 1
       ∧ Sends s t { newFrame s.devId f.src.toNat 0 0x2 15 f.sid.toNat f.tseq.toNat f.addr.toNat (s.hbmRead m o 256) with
           vstate := if bad then 2 else 0, epoch := f.epoch }
       ∧ t = { v with zegus := t.zegus, fresh := t.fresh, counts := t.counts, keeper := t.keeper, pins := t.pins, chans := t.chans }
       ∧ (o % 64 = 0 → bad = (List.range 4).any (fun j => s.hbmBad m (o + 64 * j)))
       ∧ t.hbm = s.hbm ∧ t.tstore = s.tstore ∧ t.tiles = s.tiles ∧ t.sync = s.sync ∧ t.ens = s.ens ∧ t.ses = s.ses))
  ∧ ((∀ (s : State) (die n c k pos : Nat) (f : Frame) (o : Out) (p : Part), s.receives die f 0x2 0 →
     sidEngine f.sid = some (n, c) → f.len = 15 →
     let v := s.ctx n c
     s.epochFits v.ub f.epoch = true → v.st = .active → landsInRing v.desc = true → o.failed = false →
     v.outs.find? (fun o => o.awaits f.tseq.toNat atPeer (f.addr.toNat / 256 * 256)) = some o →
     o.part? atPeer (f.addr.toNat / 256 * 256) = some p → o.parts = [p] → p.pieces = [(k, pos)] → k < 4 →
     ∃ t, Sys2Proof.Machine.exec (.getResp die f) s = .next t
       ∧ (t.link die).rxSeq = (s.link die).rxSeq + 1
       ∧ (t.ctx n c).outs.length + 1 = v.outs.length ∧ (t.ctx n c).slots.get .free (v.slotFor o.t) = .landed
       ∧ (∀ i : Nat, i < 64 → t.tsByte (selTile n v.tsel) (v.slotByte (v.slotFor o.t) + pos + i)
           = nth (fit 0 64 ((f.data.drop (64 * k)).take 64)) i 0)
       ∧ t = { s with zegus := t.zegus, ses := t.ses, banks := t.banks, ens := t.ens, net := t.net, counts := t.counts, waits := t.waits,
                      tstore := t.tstore, tpoison := t.tpoison, tfixed := t.tfixed, terr := t.terr })
   ∧ (∀ (s : State) (die n c : Nat) (f : Frame) (o : Out) (p : Part), s.receives die f 0x4 1 →
     f.sid.toNat ≠ adoptSid → sidEngine f.sid = some (n, c) → f.addr.toNat % 16 = 0 →
     let v := s.ctx n c
     v.st = .active → landsInRing v.desc = false → o.failed = false →
     v.outs.find? (fun o => o.awaits f.tseq.toNat atPeer 0) = some o →
     o.part? atPeer 0 = some p → o.parts = [p] →
     ∃ t, Sys2Proof.Machine.exec (.ackFrame die f) s = .next t
       ∧ (t.link die).rxSeq = (s.link die).rxSeq + 1
       ∧ (t.ctx n c).outs.length + 1 = v.outs.length ∧ (o.t < (t.ctx n c).low ∨ (t.ctx n c).done.contains o.t = true)
       ∧ t = { s with zegus := t.zegus, ses := t.ses, banks := t.banks, ens := t.ens, net := t.net, counts := t.counts, waits := t.waits })
   ∧ (∀ (s : State) (die n c : Nat) (f : Frame), s.receives die f 0x1 0 →
     bitOf s.zegus.ctl 0 = true → frameCtx f = some (n, c) →
     let v := s.ctx n c
     v.takesFrom f.src.toNat f.sid.toNat f.tseq.toNat = true → v.notArrived f.tseq.toNat = true → s.unitHere (512 + n) = true →
     ∃ t, Sys2Proof.Machine.exec (.ring die f) s = .next t
       ∧ (t.link die).rxSeq = (s.link die).rxSeq + 1
       ∧ (∀ i : Nat, i < 256 → t.tsByte (selTile n v.tsel) (v.slotByte (v.slotFor f.tseq.toNat) + i) = nth (fit 0 256 f.data) i 0)
       ∧ Sends s t (ackOf s.devId f 0)
       ∧ (f.vstate ≠ 1 → f.vstate ≠ 2 → f.arith = false →
           (t.ctx n c).slots.get .free (v.slotFor f.tseq.toNat) = .landed
           ∧ t = { s with zegus := t.zegus, ses := t.ses, banks := t.banks, ens := t.ens, net := t.net, tstore := t.tstore,
                          tpoison := t.tpoison, tfixed := t.tfixed, terr := t.terr, fresh := t.fresh, counts := t.counts,
                          keeper := t.keeper, pins := t.pins, chans := t.chans })
       ∧ t.hbm = s.hbm)
   ∧ (∀ (s : State) (die n c : Nat) (f : Frame), s.receives die f 0x5 1 → frameCtx f = some (n, c) →
     ∃ t, Sys2Proof.Machine.exec (.grant die f) s = .next t
       ∧ t = { s with zegus := t.zegus, ses := t.ses }
       ∧ (t.link die).rxSeq = (s.link die).rxSeq + 1
       ∧ t.ctx n c = { s.ctx n c with
           grants := (s.ctx n c).grants.set 0 (f.src.toNat * 2 ^ 16 + f.sid.toNat)
             ((s.ctx n c).grants.get 0 (f.src.toNat * 2 ^ 16 + f.sid.toNat) + f.tseq.toNat) }
       ∧ ∀ k d : Nat, (k, d) ≠ (n, c) → t.ctx k d = s.ctx k d)
   ∧ (∀ (s : State) (die : Nat) (f : Frame), s.receives die f 0x6 1 →
     ∃ t, Sys2Proof.Machine.exec (.arriveFrame die f) s = .next t
       ∧ t = { s with zegus := t.zegus, net := s.net ++ [.arrive (.link f.src die) (fld f.addr 0 15) 1 {}] }
       ∧ (t.link die).rxSeq = (s.link die).rxSeq + 1))

/-- R448, R449, R457, R458: a FENCE is delivered and changes its link only. An ADOPT of an ID whose route entry is VALID and names
the sender as understudy redirects that ID to the sender and is answered OK; UNADOPT clears the redirection. A frame for
another device goes on with one hop fewer by the link of its route.
It rests on the model's choices of log entries 218, 219 and 226 (notes/assumptions).

Completion: under hypotheses on the state and the operands alone, its conclusion is that exec answers a next state for
`fence` (FENCE), `adopt` (ADOPT), `unadopt` (UNADOPT), `forward` (FORWARD). -/
def Obligations.BarriersRedirectAndFramesGoOn : Prop :=
  (∀ (s : State) (die : Nat) (f : Frame), s.receives die f 0x8 3 → barrierKind f = 0 →
    ∃ t, Sys2Proof.Machine.exec (.fence die f) s = .next t
      ∧ t = { s with zegus := { s.zegus with links := t.zegus.links } }
      ∧ (t.link die).rxSeq = (s.link die).rxSeq + 1 ∧ ∀ l, l ≠ die → t.link l = s.link l)
  ∧ (∀ (s : State) (die : Nat) (f : Frame), s.receives die f 0x8 3 → barrierKind f = 1 →
    bitOf (Map.get s.zegus.routes 0 (barrierDev f)) 30 = true →
    BitVec.ofNat 14 (fld (Map.get s.zegus.routes 0 (barrierDev f)) 16 14) = f.src →
    f.src ≠ 0x3FFF → Map.get s.zegus.redirects 0x3FFF f.src.toNat = 0x3FFF →
    ∃ t, Sys2Proof.Machine.exec (.adopt die f) s = .next t
      ∧ (t.link die).rxSeq = (s.link die).rxSeq + 1
      ∧ (∀ x, Map.get t.zegus.redirects 0x3FFF x = if x = barrierDev f then f.src else Map.get s.zegus.redirects 0x3FFF x)
      ∧ t.zegus.routes = s.zegus.routes
      ∧ Sends s t (ackOf s.devId f 0)
      ∧ t = { s with zegus := t.zegus, fresh := t.fresh, counts := t.counts, keeper := t.keeper, pins := t.pins, chans := t.chans })
  ∧ (∀ (s : State) (die : Nat) (f : Frame), s.receives die f 0x8 3 → barrierKind f = 2 →
    ∃ t, Sys2Proof.Machine.exec (.unadopt die f) s = .next t
      ∧ t = { s with zegus := t.zegus }
      ∧ (t.link die).rxSeq = (s.link die).rxSeq + 1
      ∧ (∀ x, Map.get t.zegus.redirects 0x3FFF x = if x = barrierDev f then 0x3FFF else Map.get s.zegus.redirects 0x3FFF x))
  ∧ (∀ (s : State) (die l : Nat) (f : Frame), die < 16 → s.rst.pllLost = false → (s.link die).st = .up → f.lseq = (s.link die).rxSeq →
    typeVc f.type.toNat = some f.vc.toNat → s.isHere f.dst = false → f.ttl ≠ 0 → s.linkFor f = some l →
    ∃ t, Sys2Proof.Machine.exec (.forward die f) s = .next t
      ∧ t = { s with zegus := { s.zegus with links := t.zegus.links } }
      ∧ (t.link die).rxSeq = (s.link die).rxSeq + 1
      ∧ SentOn t l { f with ttl := f.ttl - 1 })

/-- R452, R454: LACK and CRED take the frames they acknowledge out of the retry buffer and give back credits, and waiting frames
may follow. A NACK is counted and recorded: the link stays UP, and goes into RECOVERY at the eighth of one LSEQ in a row. A
codeword that cannot be corrected makes the die drop what follows.

R455, R456, R460, R464: the states of a link. A trained link exchanges IDENT on sixteen lanes that are not retired; it is UP
only where peer, peer die and version are those of the installation map, and REFUSED otherwise. Retraining brings a link in
RECOVERY back UP; the third failure takes it DOWN. A training that fails in time goes DOWN, a REFUSED link trains again. Loss
of lock with fewer than eight lanes left is RECOVERY. A spare takes a lane's place and the link stays UP.

It rests on the model's choices of log entries 213, 214, 215 and 217 (notes/assumptions).

Completion: under hypotheses on the state and the operands alone, its conclusion is that exec answers a next state for
`lackCred` (LACK_CRED), `nack` (NACK), `uncorrectableCodeword` (UNCORRECTABLE_CODEWORD), `phyTrained` (PHY_TRAINED),
`ident` (IDENT), `trainingTimeout` (TRAINING_TIMEOUT), `recovery` (RECOVERY), `laneSparing` (LANE_SPARING). -/
def Obligations.LinksTrainRetryAndRecover : Prop :=
  ((∀ (s : State) (die : Nat) (lack : BitVec 16) (cred : BitVec 32), die < 16 → s.rst.pllLost = false → (s.link die).st = .up →
     ∃ t more, Sys2Proof.Machine.exec (.lackCred die lack cred) s = .next t
       ∧ t = { s with zegus := { s.zegus with links := t.zegus.links } }
       ∧ (t.link die).buffer = (s.link die).buffer.filter (fun f => !seqBefore f.lseq lack) ++ more
       ∧ more.length + (t.link die).waiting.length = (s.link die).waiting.length
       ∧ ((s.link die).waiting = [] → ∀ v : Nat, v < 4 →
           Map.get (t.link die).credits 0 v = Map.get (s.link die).credits 0 v + fld cred (8 * v) 8)
       ∧ ∀ l, l ≠ die → t.link l = s.link l)
   ∧ (∀ (s : State) (die : Nat) (lseq : BitVec 16), die < 16 → s.rst.pllLost = false → (s.link die).st = .up →
     let l := (s.link die).absorbLack lseq
     ∃ t, Sys2Proof.Machine.exec (.nack die lseq) s = .next t
       ∧ (t.link die).retries = (s.link die).retries + 1
       ∧ (l.nackSeq ≠ some lseq → (t.link die).st = .up ∧ (t.link die).nackSeq = some lseq ∧ (t.link die).nacks = 1)
       ∧ (l.nackSeq = some lseq → l.nacks < 7 → (t.link die).st = .up ∧ (t.link die).nacks = l.nacks + 1)
       ∧ (l.nackSeq = some lseq → 7 ≤ l.nacks → (t.link die).st = .recovery)
       ∧ (∀ k, k ≠ die → t.link k = s.link k)
       ∧ t = { s with zegus := { s.zegus with links := t.zegus.links }, fresh := t.fresh, counts := t.counts, keeper := t.keeper, pins := t.pins, chans := t.chans })
   ∧ (∀ (s : State) (die : Nat) (lanes : List Nat), die < 16 → s.rst.pllLost = false → (s.link die).st = .up →
     ∃ t, Sys2Proof.Machine.exec (.uncorrectableCodeword die lanes) s = .next t
       ∧ ((t.link die).dropping = true ∨ (t.link die).st = .down)
       ∧ (lanes.Nodup → ∀ k ∈ lanes, k < 18 → (s.hl (4192 + 18 * die + k)).st = .healthy →
           (t.hl (4192 + 18 * die + k)).st = .observed)
       ∧ t.hbm = s.hbm ∧ t.tstore = s.tstore ∧ t.ens = s.ens ∧ t.sync = s.sync))
  ∧ ((∀ (s : State) (die : Nat), die < 16 → s.rst.pllLost = false →
     ((s.link die).st = .training → ∃ t, Sys2Proof.Machine.exec (.phyTrained die true) s = .next t
       ∧ t = { s with zegus := { s.zegus with links := t.zegus.links } }
       ∧ t.link die = { s.link die with st := .ident, active := (s.trainLanes die).1, spares := (s.trainLanes die).2 }
       ∧ ∀ l, l ≠ die → t.link l = s.link l)
     ∧ ((s.link die).st = .recovery → ∃ t, Sys2Proof.Machine.exec (.phyTrained die true) s = .next t
       ∧ t = { s with zegus := { s.zegus with links := t.zegus.links } }
       ∧ (t.link die).st = .up ∧ (t.link die).failed = 0 ∧ ∀ l, l ≠ die → t.link l = s.link l)
     ∧ ((s.link die).st = .recovery → (s.link die).failed < 2 → ∃ t, Sys2Proof.Machine.exec (.phyTrained die false) s = .next t
       ∧ t = { s with zegus := { s.zegus with links := t.zegus.links } }
       ∧ t.link die = { s.link die with failed := (s.link die).failed + 1 } ∧ ∀ l, l ≠ die → t.link l = s.link l)
     ∧ ((s.link die).st = .recovery → 2 ≤ (s.link die).failed → ∃ t, Sys2Proof.Machine.exec (.phyTrained die false) s = .next t
       ∧ (t.link die).st = .down ∧ (t.link die).failed = 3 ∧ (∀ l, (t.link l).st = .up → (s.link l).st = .up)
       ∧ t.hbm = s.hbm ∧ t.tstore = s.tstore ∧ t.ens = s.ens ∧ t.sync = s.sync))
   ∧ (∀ (s : State) (die : Nat) (peer : BitVec 14) (peerDie : BitVec 4) (version : Byte) (credits : List Nat) (digests : Bool)
       (mirrors : List MirrorRange), die < 16 → s.rst.pllLost = false → (s.link die).st = .ident →
     ∃ t, Sys2Proof.Machine.exec (.ident die peer peerDie version credits digests mirrors) s = .next t
       ∧ (t.link die).peer = peer
       ∧ ((peer = (s.link die).mapDev ∧ peerDie = (s.link die).mapDie ∧ version = 1) →
           (t.link die).st = .up ∧ t = { s with zegus := { s.zegus with links := t.zegus.links } })
       ∧ (¬(peer = (s.link die).mapDev ∧ peerDie = (s.link die).mapDie ∧ version = 1) →
           (t.link die).st = .refused ∧ (t.link die).mismatch = true
             ∧ t = { s with zegus := { s.zegus with links := t.zegus.links }, fresh := t.fresh, counts := t.counts, keeper := t.keeper, pins := t.pins, chans := t.chans })
       ∧ ∀ l, l ≠ die → t.link l = s.link l)
   ∧ (∀ (s : State) (die : Nat), die < 16 → s.rst.pllLost = false → ((s.link die).st = .training ∨ (s.link die).st = .refused) →
     ∃ t, Sys2Proof.Machine.exec (.trainingTimeout die) s = .next t
       ∧ (t.link die).st = (if (s.link die).st = .training then .down else .training)
       ∧ (∀ l, l ≠ die → (t.link l).st = (s.link l).st)
       ∧ t.hbm = s.hbm ∧ t.tstore = s.tstore ∧ t.ens = s.ens ∧ t.sync = s.sync)
   ∧ (∀ (s : State) (die : Nat) (lanes : List Nat), die < 16 → s.rst.pllLost = false → (s.link die).st = .up →
     ∃ t, Sys2Proof.Machine.exec (.recovery die lanes) s = .next t
       ∧ ((lanes = [] ∨ (((s.link die).active.filter (fun k => !lanes.contains k)).length + (s.link die).spares.length < 8)) →
           (t.link die).st = .recovery ∨ (t.link die).st = .down)
       ∧ (lanes = [] → (∀ k ∈ (s.link die).active ++ (s.link die).spares, (s.hl (4192 + 18 * die + k)).st ≠ .retired) →
           t.link die = { s.link die with st := .recovery, failed := 0, nackSeq := none, nacks := 0 })
       ∧ (lanes.Nodup → ∀ k ∈ lanes, k < 18 → (s.hl (4192 + 18 * die + k)).st = .healthy →
           (t.hl (4192 + 18 * die + k)).st = .observed)
       ∧ t.hbm = s.hbm ∧ t.tstore = s.tstore ∧ t.ens = s.ens ∧ t.sync = s.sync)
   ∧ (∀ (s : State) (die lane spare : Nat), die < 16 → s.rst.pllLost = false → (s.link die).st = .up → lane ∈ (s.link die).active →
     spare ∈ (s.link die).spares →
     ∃ t, Sys2Proof.Machine.exec (.laneSparing die lane spare) s = .next t
       ∧ t = { s with zegus := { s.zegus with links := t.zegus.links }, fresh := t.fresh, counts := t.counts, keeper := t.keeper, pins := t.pins, chans := t.chans }
       ∧ t.link die = { s.link die with active := (s.link die).active.map (fun k => if k = lane then spare else k),
                                        spares := (s.link die).spares.erase spare }
       ∧ ∀ l, l ≠ die → t.link l = s.link l))

/-- R453: a virtual channel of an UP link whose clock runs that has held a frame ready without credit for 100 µs makes a record ZL_STALLED of severity
LOGGED, and keeps waiting: nothing of the link changes.

Completion: under hypotheses on the state and the operands alone, its conclusion is that exec answers a next state for
`zlStalled` (ZL_STALLED). -/
def Obligations.StalledChannelsAreRecordedAndWait : Prop :=
  ∀ (s : State) (die : Nat) (vc : BitVec 2), die < 16 → s.rst.pllLost = false → (s.link die).st = .up →
    Map.get (s.link die).credits 0 vc.toNat = 0 → (s.link die).waiting.any (fun f => f.vc == vc) = true →
    ∃ t, Sys2Proof.Machine.exec (.zlStalled die vc) s = .next t
      ∧ (t.keeper.general.get {} (s.keeper.nextGen % 520192)).code = cZlStalled
      ∧ (t.keeper.general.get {} (s.keeper.nextGen % 520192)).sev = 1
      ∧ (t.keeper.general.get {} (s.keeper.nextGen % 520192)).detail = vc.toNat
      ∧ t.keeper.nextGen = (s.keeper.nextGen + 1) % 2 ^ 40
      ∧ t = { s with fresh := t.fresh, counts := t.counts, keeper := t.keeper, pins := t.pins, chans := t.chans }

/-! ## The partnership -/

/-- R464, R472: the partner link trains, comes up where the other side is the mapped partner with the same digests, which pairs a
device that is LINKING or PARTITIONED, and is REFUSED otherwise with a record.

R466, R472–R474: a heartbeat on the sideband marks it heard; one on the link ends PARTITIONED. The device's own heartbeat
toggles HB_OUT and carries its time, state and checkpoint. In PAIRED, silence on both paths is SEVERED, on the link alone
PARTITIONED with the shadow no longer valid, on the sideband alone a record. A quorum that is not reached in time is given up:
the device stays SEVERED, and every peer that accepted is told otherwise.

R474: while the device seeks a quorum, the peer whose OK makes a majority makes it take its partner over; the peer whose refusal
makes half of them makes it FENCED.

It rests on the model's choices of log entries 220, 222, 223, 227 and 235 (notes/assumptions).

Completion: under hypotheses on the state and the operands alone, its conclusion is that exec answers a next state for
`phyTrained` (PHY_TRAINED), `ident` (IDENT), `heartbeat` (HEARTBEAT), `heartbeatSend` (HEARTBEAT_SEND), `silence`
(SILENCE), `quorumWait` (QUORUM_WAIT), `ackFrame` (ACK_FRAME). -/
def Obligations.ThePairJoinsPartsAndDecides : Prop :=
  ((∀ (s : State), s.rst.pllLost = false → s.partner.link = .training →
     Sys2Proof.Machine.exec (.phyTrained 16 true) s
       = .next { s with partner := { s.partner with link := .ident, lanes := s.partnerLanes } })
   ∧ (∀ (s : State) (peer : BitVec 14) (peerDie : BitVec 4) (version : Byte) (credits : List Nat) (digests : Bool)
       (mirrors : List MirrorRange), s.rst.pllLost = false → s.partner.link = .ident →
     ∃ t, Sys2Proof.Machine.exec (.ident 16 peer peerDie version credits digests mirrors) s = .next t
       ∧ ((peer = s.partner.id ∧ digests = true) → t.partner.link = .up
           ∧ t.partner.st = (if s.partner.st = .linking ∨ s.partner.st = .partitioned then .paired else s.partner.st))
       ∧ (¬(peer = s.partner.id ∧ digests = true) →
           t = { s with partner := { s.partner with link := .refused }, fresh := t.fresh, counts := t.counts, keeper := t.keeper, pins := t.pins, chans := t.chans })
       ∧ ((peer = s.partner.id ∧ digests = true) →
           t.partner.inn = if s.partner.st = .takenOver then s.partner.inn else s.takeMirrors [] mirrors)
       ∧ t = { s with partner := t.partner, sec := t.sec, fresh := t.fresh, counts := t.counts, keeper := t.keeper, pins := t.pins,
                      chans := t.chans }))
  ∧ ((∀ s : State, s.partner.st ≠ .bench →
     Sys2Proof.Machine.exec (.heartbeat .sideband) s = .next { s with partner := { s.partner with sideband := true } })
   ∧ (∀ s : State, s.rst.pllLost = false → s.partner.linkUp = true → s.partner.st = .partitioned →
     ∃ t, Sys2Proof.Machine.exec (.heartbeat .frames) s = .next t
       ∧ t.partner = { s.partner with st := .paired, copies := copiesOf s.partner.out false }
       ∧ t = { s with partner := t.partner, sec := t.sec, fresh := t.fresh, counts := t.counts, keeper := t.keeper, pins := t.pins, chans := t.chans })
   ∧ (∀ s : State, s.portsUp = true → s.partner.st ≠ .bench → s.partner.st ≠ .fenced → s.partner.releasing = false →
     s.partner.admission ≠ .handingBack →
     Sys2Proof.Machine.exec .heartbeatSend s = .next { s with
       pins := { s.pins with hbOut := !s.pins.hbOut },
       partner := { s.partner with beat := some (s.ltc, s.partner.st, s.partner.ckptNo) } })
   ∧ (∀ (s : State) (link sideband : Bool), s.partner.st = .paired →
     ∃ t, Sys2Proof.Machine.exec (.silence link sideband) s = .next t
       ∧ t.partner.sideband = (s.partner.sideband && !sideband)
       ∧ t.partner.st = (if link = true then (if sideband = true then .severed else .partitioned) else .paired)
       ∧ (link = true → sideband = false → t.partner.shadowOk = false)
       ∧ (link = false → t = { s with partner := t.partner, fresh := t.fresh, counts := t.counts, keeper := t.keeper, pins := t.pins, chans := t.chans })
       ∧ t.hbm = s.hbm ∧ t.tstore = s.tstore)
   ∧ (∀ s : State, s.partner.st = .severed → s.partner.asked ≠ [] →
     ∃ t, Sys2Proof.Machine.exec .quorumWait s = .next t
       ∧ t.partner = { s.partner with asked := [], oks := [], refusals := [] }
       ∧ (s.partner.oks = [] →
           t = { s with partner := t.partner, fresh := t.fresh, counts := t.counts, keeper := t.keeper, pins := t.pins, chans := t.chans })))
  ∧ (∀ (s : State) (die : Nat) (f : Frame), s.receives die f 0x4 1 → f.sid.toNat = adoptSid →
     s.partner.st = .severed → f.src.toNat ∈ s.partner.asked → f.src.toNat ∉ s.partner.oks → f.src.toNat ∉ s.partner.refusals →
     ∃ t, Sys2Proof.Machine.exec (.ackFrame die f) s = .next t
       ∧ (f.addr.toNat % 16 = 0 → s.partner.asked.length < 2 * (s.partner.oks.length + 1) →
           t.partner.st = .takenOver ∧ s.partner.id.toNat ∈ t.zegus.adopted)
       ∧ (f.addr.toNat % 16 = 3 → s.partner.asked.length ≤ 2 * (s.partner.refusals.length + 1) →
           2 * s.partner.oks.length ≤ s.partner.asked.length → t.partner.st = .fenced))

/-- R469, R477, R478: MARK. A PAIRED device puts a CHECKPOINT of the ensemble behind every earlier mirrored line and the ensemble
goes on; one that hands an adopted ensemble back sends the checkpoint to its partner and stops the ensemble; without a
partner the bar only ends.
It rests on the model's choices of log entries 230 and 237 (notes/assumptions).

Completion: under hypotheses on the state and the operands alone, its conclusion is that exec answers a next state for
`mark` (MARK). -/
def Obligations.MarkMakesACheckpoint : Prop :=
  ∀ (s : State) (e : BitVec 3), s.rst.pllLost = false → (s.en e.toNat).st = .running → (s.en e.toNat).stopping = false →
    (s.en e.toNat).markAt ≠ none → (s.en e.toNat).live = [] →
    ∃ t, Sys2Proof.Machine.exec (.mark e) s = .next t
      ∧ ((t.en e.toNat).st = .running ∧ (t.en e.toNat).markAt = none ∨ (t.en e.toNat).stopping = true)
      ∧ (∀ d, d ≠ e.toNat → t.en d = s.en d)
      ∧ (s.partner.st ≠ .paired → ¬(s.partner.admission = .handingBack ∧ e.toNat ∈ s.partner.adopted) →
          t = { s with ens := t.ens } ∧ t.en e.toNat = { s.en e.toNat with markAt := none })
      ∧ (s.partner.st = .paired → s.partner.admission ≠ .handingBack → s.partner.releasing = false →
          t = { s with ens := t.ens, partner := { s.partner with
                  queue := s.partner.queue ++ [.checkpoint (s.checkpoint e.toNat ((s.en e.toNat).ckpts + 1))] } }
            ∧ t.en e.toNat = { s.en e.toNat with markAt := none, ckpts := (s.en e.toNat).ckpts + 1 })
      ∧ (s.partner.admission = .handingBack → e.toNat ∈ s.partner.adopted →
          (t.en e.toNat).stopping = true
            ∧ t.partner = { s.partner with
                handed := s.partner.handed ++ [s.checkpoint e.toNat ((s.en e.toNat).ckpts + 1)],
                controls := s.partner.controls ++ [.handback (s.checkpoint e.toNat ((s.en e.toNat).ckpts + 1))] })
      ∧ t.hbm = s.hbm ∧ t.tstore = s.tstore

/-- R465, R468–R470: frames of the partner while its link is up. A mirrored run of bytes and a piece of a bulk copy write the bytes
at the place of their address; a checkpoint record is kept, the last two of its ensemble; the last piece of a copy is
answered. No other byte of memory changes. A copy of an entry that does not fit in the shadow (R17, R467) writes nothing.

R465, R467: the partner's requests are served in this device's memory and answered in order, a read with the 256 bytes of the
block, a write once its bytes, and their poison, are stored; a response of the partner's retires the part of the transaction it answers.

It rests on the model's choices of log entries 220, 233, 234, 235 and 236 (notes/assumptions).

Completion: under hypotheses on the state and the operands alone, its conclusion is that exec answers a next state for
`mirror` (MIRROR), `resilver` (RESILVER), `memory` (MEMORY). -/
def Obligations.ThePartnersMemoryIsKeptAndServed : Prop :=
  ((∀ (s : State) (a m o : Nat) (data : List Byte) (poisoned : Bool), s.rst.pllLost = false → s.partner.linkUp = true → data ≠ [] →
     data.length ≤ 64 - a % 64 → s.place a = some (m, o) → s.availFor partnerInit m o true = .ok →
     ∃ t, Sys2Proof.Machine.exec (.mirror (.lines a data poisoned)) s = .next t
       ∧ t = { s with hbm := t.hbm, hpoison := t.hpoison, hfixed := t.hfixed, herr := t.herr, hstack := t.hstack, pcs := t.pcs,
                      counts := t.counts, fresh := t.fresh, keeper := t.keeper, pins := t.pins, chans := t.chans }
       ∧ (∀ i : Nat, i < data.length → t.hbmByte m (o + i) = nth data i 0)
       ∧ (∀ m' o' : Nat, (∀ i < data.length, hbmKey m' o' ≠ hbmKey m (o + i)) → t.hbmByte m' o' = s.hbmByte m' o')
       ∧ t.hbmBad m o = poisoned)
   ∧ (∀ (s : State) (c : Ckpt), s.rst.pllLost = false → s.partner.linkUp = true →
     ∃ t, Sys2Proof.Machine.exec (.mirror (.checkpoint c)) s = .next t
       ∧ t = { s with partner := { s.partner with ckpts := t.partner.ckpts, ckptNo := c.number } }
       ∧ (∃ l, Map.get s.partner.ckpts [] c.ens = l ++ (Map.get t.partner.ckpts [] c.ens).dropLast)
       ∧ (Map.get t.partner.ckpts [] c.ens).getLast? = some c
       ∧ (Map.get t.partner.ckpts [] c.ens).length = min 2 ((Map.get s.partner.ckpts [] c.ens).length + 1)
       ∧ ∀ e, e ≠ c.ens → Map.get t.partner.ckpts [] e = Map.get s.partner.ckpts [] e)
   ∧ (∀ (s : State) (r : MirrorRange) (own last : Bool) (off m o : Nat) (data : List Byte), s.rst.pllLost = false → s.partner.linkUp = true →
     data ≠ [] → data.length ≤ 64 - ((if own = true then r.addr else r.partner) + off) % 64 →
     s.place ((if own = true then r.addr else r.partner) + off) = some (m, o) → s.availFor partnerInit m o true = .ok →
     (own = true ∨ 64 ≤ r.entry ∨ s.shadowFits s.partner.inn r = true) →
     ∃ t, Sys2Proof.Machine.exec (.resilver r own off data last) s = .next t
       ∧ t = { s with hbm := t.hbm, hpoison := t.hpoison, hfixed := t.hfixed, herr := t.herr, hstack := t.hstack, pcs := t.pcs,
                      counts := t.counts, fresh := t.fresh, keeper := t.keeper, pins := t.pins, chans := t.chans, partner := t.partner }
       ∧ (∀ i : Nat, i < data.length → t.hbmByte m (o + i) = nth data i 0)
       ∧ (∀ m' o' : Nat, (∀ i < data.length, hbmKey m' o' ≠ hbmKey m (o + i)) → t.hbmByte m' o' = s.hbmByte m' o')
       ∧ t.partner.controls = s.partner.controls
           ++ (if last = true then [if own = true then .phaseOneDone else .phaseTwoDone] else [])
       ∧ t.partner.shadowOk = (if own = true then s.partner.shadowOk else last))
   ∧ (∀ (s : State) (r : MirrorRange) (last : Bool) (off : Nat) (data : List Byte), s.rst.pllLost = false →
     s.partner.linkUp = true → r.entry < 64 → s.shadowFits s.partner.inn r = false →
     Sys2Proof.Machine.exec (.resilver r false off data last) s = .next { s with partner := { s.partner with
       shadowOk := false, controls := s.partner.controls ++ (if last = true then [.phaseTwoDone] else []) } }))
  ∧ ((∀ (s u : State) (a m o : Nat) (mask : BitVec 4) (seq : W32) (sid : BitVec 16) (data l : List Byte) (p b : Bool),
     s.rst.pllLost = false → s.partner.linkUp = true → s.place a = some (m, o) →
     s.readPlace partnerInit (.hbm m (o / 256 * 256)) 256 0 = (u, .bytes l b) →
     ∃ t, Sys2Proof.Machine.exec (.memory (.request a false mask seq sid data p)) s = .next t
       ∧ t = { u with partner := t.partner } ∧ Served s u
       ∧ t.partner = { s.partner with memory := s.partner.memory ++ [.response a seq sid
           (if (onesOf mask.toNat 4).any (fun j => s.hbmBad m (o / 256 * 256 + 64 * j)) then .poisoned else .ok)
           (s.hbmRead m (o / 256 * 256) 256)] })
   ∧ (∀ (s u : State) (a m o : Nat) (seq : W32) (sid : BitVec 16) (data : List Byte) (p : Bool), s.rst.pllLost = false → s.partner.linkUp = true →
     s.place a = some (m, o) → s.writePlace partnerInit (.hbm m o) (data.take (64 - o % 64)) p 0 = (u, .done) →
     ∃ t, Sys2Proof.Machine.exec (.memory (.request a true 0 seq sid data p)) s = .next t
       ∧ (p = true → data ≠ [] → t.hbmBad m o = true)
       ∧ (∀ i : Nat, i < min data.length (64 - o % 64) → t.hbmByte m (o + i) = nth data i 0)
       ∧ (∀ m' o' : Nat, (∀ i < min data.length (64 - o % 64), hbmKey m' o' ≠ hbmKey m (o + i)) →
           t.hbmByte m' o' = s.hbmByte m' o')
       ∧ t = { u with partner := { u.partner with memory := u.partner.memory ++ [.response a seq sid .ok []] } }
       ∧ u.partner.memory = s.partner.memory ∧ Stored s u)
   ∧ (∀ (s : State) (a n c : Nat) (seq : W32) (sid : BitVec 16) (o : Out) (p : Part), s.rst.pllLost = false → s.partner.linkUp = true →
     sidEngine sid = some (n, c) →
     let v := s.ctx n c
     v.st = .active → landsInRing v.desc = false → o.failed = false →
     v.outs.find? (fun o => o.awaits seq.toNat atPartner a) = some o → o.part? atPartner a = some p → o.parts = [p] →
     ∃ t, Sys2Proof.Machine.exec (.memory (.response a seq sid .ok [])) s = .next t
       ∧ (t.ctx n c).outs.length + 1 = v.outs.length ∧ (o.t < (t.ctx n c).low ∨ (t.ctx n c).done.contains o.t = true)
       ∧ t = { s with ses := t.ses, banks := t.banks, ens := t.ens, net := t.net, counts := t.counts, waits := t.waits }))

/-- R477–R479: CONTROL messages. A device asked to release its work stops each ensemble at its MARK bar and is FENCED once none runs;
told that the partner has released it, the device takes the partner over; an ensemble handed back runs from its checkpoint
and is confirmed; once the copies are done the admission completes.

R467, R474, R476–R480: the partner commands of a physical function, in the states that allow them. PTN_MIRROR writes or clears
its entry; PTN_TAKEOVER takes the partner over; PTN_STAND_DOWN stops every ensemble and makes the device FENCED, complete at
once where none was at work; PTN_RELEASE asks the partner to release its work; PTN_ADMIT begins the copy back.

It rests on the model's choices of log entries 224, 225, 228, 235 and 238 (notes/assumptions).

Completion: under hypotheses on the state and the operands alone, its conclusion is that exec answers a next state for
`control` (CONTROL), `ptnMirror` (PTN_MIRROR), `ptnTakeover` (PTN_TAKEOVER), `ptnStandDown` (PTN_STAND_DOWN),
`ptnRelease` (PTN_RELEASE), `ptnAdmit` (PTN_ADMIT). -/
def Obligations.ThePairMovesWork : Prop :=
  ((∀ s : State, s.rst.pllLost = false → s.partner.linkUp = true → s.partner.st = .paired →
     ∃ t, Sys2Proof.Machine.exec (.control .release) s = .next t
       ∧ ((∃ e < 8, (s.en e).st = .running ∧ (s.en e).stopping = false) →
           t = { s with partner := { s.partner with releasing := true } })
       ∧ ((∀ e < 8, (s.en e).st = .running → (s.en e).stopping = true) →
           t.partner.st = .fenced ∧ t.partner.releasing = false ∧ t.partner.controls = s.partner.controls ++ [.released]))
   ∧ (∀ (s : State) (h : Issuer), s.rst.pllLost = false → s.partner.linkUp = true → s.partner.st = .paired → s.partner.waitRelease = some h →
     ∃ t, Sys2Proof.Machine.exec (.control .released) s = .next t
       ∧ t.partner.st = .takenOver ∧ t.partner.waitRelease = none ∧ s.partner.id.toNat ∈ t.zegus.adopted)
   ∧ (∀ (s u : State) (c : Ckpt), s.rst.pllLost = false → s.partner.linkUp = true → s.partner.st = .paired → s.restore s.ownBank s.ownBank c = (u, true) →
     Sys2Proof.Machine.exec (.control (.handback c)) s
       = .next { u with partner := { u.partner with controls := u.partner.controls ++ [.confirm c.ens] } }
       ∧ (u.en c.ens).st = .running)
   ∧ (∀ (s : State) (e : Nat), s.rst.pllLost = false → s.partner.linkUp = true → s.partner.admission = .handingBack →
     (∃ c ∈ s.partner.handed, c.ens = e) →
     (∃ d ∈ s.partner.adopted, d ≠ e ∧ (s.en d).st = .running) →
     Sys2Proof.Machine.exec (.control (.confirm e)) s = .next { s with partner := { s.partner with
       handed := s.partner.handed.filter (fun c => c.ens != e), adopted := s.partner.adopted.filter (· != e) } })
   ∧ (∀ (s : State), s.rst.pllLost = false → s.partner.linkUp = true → s.partner.admission = .phaseOne →
     (∃ d ∈ s.partner.adopted, (s.en d).st = .running) →
     Sys2Proof.Machine.exec (.control .phaseOneDone) s = .next { s with partner := { s.partner with admission := .handingBack } })
   ∧ (∀ (s : State) (h : Issuer), s.rst.pllLost = false → s.partner.linkUp = true → s.partner.admission = .phaseTwo → s.partner.waitAdmit = some h →
     (s.chan h.chan).disabler = none → h.tag ∈ (s.chan h.chan).inflight →
     ∃ t, Sys2Proof.Machine.exec (.control .phaseTwoDone) s = .next t
       ∧ t = { s with partner := { s.partner with admission := .none, waitAdmit := none }, chans := t.chans }
       ∧ Answers s t h 0x24 stOk 0 0))
  ∧ ((∀ (s : State) (h : Issuer) (k : BitVec 6) (valid : Bool) (addr len p : W64), s.accepts h →
     (s.begin h).isVf h.chan = false → s.partner.st ≠ .bench →
     addr.toNat % 65536 = 0 → len.toNat % 65536 = 0 → p.toNat % 65536 = 0 →
     (valid = true → (s.begin h).mirrorFits k.toNat len.toNat p.toNat = true) →
     ∃ t, Sys2Proof.Machine.exec (.ptnMirror h k valid addr len p) s = .next t
       ∧ t = { s with chans := t.chans, partner := { s.partner with out := t.partner.out, copies := t.partner.copies } }
       ∧ (∀ j, Map.get t.partner.out {} j = if j = k.toNat
           then (if valid = true then { valid := true, addr := addr.toNat, len := len.toNat, partner := p.toNat } else {})
           else Map.get s.partner.out {} j)
       ∧ Answers s t h 0x20 stOk 0 0)
   ∧ (∀ (s : State) (h : Issuer), s.accepts h → (s.begin h).isVf h.chan = false →
     (s.partner.st = .severed ∨ s.partner.st = .partitioned) →
     ∃ t, Sys2Proof.Machine.exec (.ptnTakeover h) s = .next t
       ∧ t.partner.st = .takenOver ∧ s.partner.id.toNat ∈ t.zegus.adopted
       ∧ (s.partner.waitRelease = none → answerOf h 0x21 stOk 0 0 <:+ (t.chan h.chan).compls))
   ∧ (∀ (s : State) (h : Issuer), s.accepts h → (s.begin h).isVf h.chan = false →
     (s.partner.st = .severed ∨ s.partner.st = .partitioned) →
     ∃ t, Sys2Proof.Machine.exec (.ptnStandDown h) s = .next t
       ∧ t.partner.st = .fenced
       ∧ (∀ e < 8, (t.en e).st = .idle ∨ (t.en e).stopping = true)
       ∧ ((∀ e < 8, (s.en e).st = .idle) → s.partner.waitRelease = none → s.partner.waitAdmit = none →
           answerOf h 0x22 stOk 0 0 <:+ (t.chan h.chan).compls)
       ∧ t.hbm = s.hbm ∧ t.tstore = s.tstore)
   ∧ (∀ (s : State) (h : Issuer), s.accepts h → (s.begin h).isVf h.chan = false → s.partner.st = .paired →
     s.partner.waitRelease = none →
     Sys2Proof.Machine.exec (.ptnRelease h) s = .next { s.begin h with
       partner := { s.partner with waitRelease := some h, controls := s.partner.controls ++ [.release] } })
   ∧ (∀ (s : State) (h : Issuer), s.accepts h → (s.begin h).isVf h.chan = false → s.partner.st = .takenOver →
     s.partner.linkUp = true → s.partner.admission = .none →
     Sys2Proof.Machine.exec (.ptnAdmit h) s = .next { s.begin h with
       partner := { s.partner with admission := .phaseOne, waitAdmit := some h, copies := copiesOf s.partner.inn true } }))

/-- R443, R457, R461: a map whose checks pass gives the device its ID, its route table, the peer of each link of the variant, and
its partner, and completes OK.
It rests on the model's choices of log entries 231 and 232 (notes/assumptions).

Completion: under hypotheses on the state and the operands alone, its conclusion is that exec answers a next state for
`writeInstallationMap` (WRITE_INSTALLATION_MAP). -/
def Obligations.MapsAreInstalled : Prop :=
  ∀ (s x u : State) (h : Issuer) (addr : W64) (m l : List Byte), s.accepts h → (s.begin h).isVf h.chan = false →
    (s.begin h).hostFetch ((s.begin h).hostTlb h.chan) ((s.begin h).chanPort h.chan) addr.toNat 80 = (x, some m) →
    x.mapRefusal m = none → x.readDev (x.hostTlb h.chan) 2049 x.zegus.rtBase.toNat 131072 = (u, .bytes l false) →
    ∃ t, Sys2Proof.Machine.exec (.writeInstallationMap h addr) s = .next t
      ∧ t.devId = BitVec.ofNat 14 (field m 0 2)
      ∧ t.partner.id = BitVec.ofNat 14 (field m 2 2)
      ∧ (∀ d < 16384, Map.get t.zegus.routes 0 d = BitVec.ofNat 64 (field (l.drop (8 * d)) 0 8 % 2 ^ 31))
      ∧ (∀ k ∈ s.variant.linkDies, (t.link k).mapDev = BitVec.ofNat 14 (field m (16 + 4 * k) 4)
          ∧ (t.link k).mapDie = BitVec.ofNat 4 (bits (field m (16 + 4 * k) 4) 14 4))
      ∧ (s.partner.waitRelease = none → s.partner.waitAdmit = none → answerOf h 0x11 stOk 0 0 <:+ (t.chan h.chan).compls)
      ∧ t.hbm = s.hbm ∧ t.tstore = s.tstore ∧ t.sync = s.sync

/-! ## Management ports and security -/

/-- R505, R506, R509–R514, R539: management requests that a free port takes. REG_READ answers with a register of management space
and REG_WRITE writes MGMT_CFG, ALERT_MASK and ALERT_STATUS (whose bits it clears, but for those set in this cycle), TELEMETRY answers with its item, LOG_READ with records from the one wanted on; SET_LIMITS waits for the
next control interval with its port busy; CONFIG_SET stores the split that the next option-load phase takes. A write that
arrives while the other port's is still executing waits for it.

R507: the common command codes of the I3C target, while the keeper acts. ENTDAA gives an address to a target without
one, RSTDAA takes it away; ENEC and DISEC enable and disable events; SETMWL and SETMRL store lengths, which GETMWL and GETMRL
return; GETPID returns the identity, and GETBCR, GETDCR and GETSTATUS their bytes, once there is an address; a target without one
does not answer.

It rests on the model's choices of log entries 248, 250, 253, 256 and 259 (notes/assumptions).

Completion: under hypotheses on the state and the operands alone, its conclusion is that exec answers a next state for
`regRead` (REG_READ), `regWrite` (REG_WRITE), `telemetry` (TELEMETRY), `logRead` (LOG_READ), `mgmtSetLimits`
(MGMT_SET_LIMITS), `configSet` (CONFIG_SET), `controlInterval` (CONTROL_INTERVAL), `entdaa` (ENTDAA), `rstdaa`
(RSTDAA), `enec` (ENEC), `disec` (DISEC), `getpid` (GETPID), `getbcr` (GETBCR), `getdcr` (GETDCR), `getstatus`
(GETSTATUS), `getmwl` (GETMWL), `getmrl` (GETMRL), `setmwl` (SETMWL), `setmrl` (SETMRL). -/
def Obligations.ManagementPortsAndI3cCodesAct : Prop :=
  ((∀ (s : State) (p : MPort) (seq : Byte) (off : W32) (r : Reg), s.mgmtFree p → s.mgmtReg off.toNat = some r →
     ∃ t, Sys2Proof.Machine.exec (.regRead p seq off) s = .next t
       ∧ t = { s with keeper := t.keeper }
       ∧ Responds t p 0x01 stOk seq (leBytes (if r.wide = true then 8 else 4) (s.readReg r)))
   ∧ (∀ (s : State) (p : MPort) (seq : Byte) (v : W64), s.mgmtQuiet p →
     (∃ t, Sys2Proof.Machine.exec (.regWrite p seq 0x2000008 false v) s = .next t
       ∧ t = { s with keeper := t.keeper } ∧ t.keeper.cfg = BitVec.ofNat 3 v.toNat ∧ Responds t p 0x02 stOk seq [])
     ∧ (∃ t, Sys2Proof.Machine.exec (.regWrite p seq 0x2000004 false v) s = .next t
       ∧ t = { s with keeper := t.keeper, pins := { s.pins with alertN := t.pins.alertN } }
       ∧ t.keeper.mask = BitVec.ofNat 6 (v.toNat % 2 ^ 32 / 2) ∧ t.keeper.alert = s.keeper.alert
       ∧ Responds t p 0x02 stOk seq [])
     ∧ (∃ t, Sys2Proof.Machine.exec (.regWrite p seq 0x2000000 false v) s = .next t
       ∧ t = { s with keeper := t.keeper, pins := { s.pins with alertN := t.pins.alertN } }
       ∧ t.keeper.alert = s.keeper.alert &&& ~~~(BitVec.ofNat 7 (s.clearing 4 0 7 (v.toNat % 2 ^ 32)))
       ∧ t.keeper.mask = s.keeper.mask
       ∧ Responds t p 0x02 stOk seq []))
   ∧ (∀ (s u : State) (p : MPort) (seq item : Byte) (index : BitVec 16) (clear : Bool) (l : List Byte), s.mgmtFree p →
     s.telemetryItem item.toNat index.toNat clear = (u, .ok l) →
     ∃ t, Sys2Proof.Machine.exec (.telemetry p seq item index clear) s = .next t
       ∧ t = { u with keeper := t.keeper } ∧ Responds t p 0x03 stOk seq l)
   ∧ (∀ (s : State) (p : MPort) (seq : Byte) (device : Bool) (first : W64), s.mgmtFree p →
     let next := if device = true then s.keeper.nextDev else s.keeper.nextGen
     let size := if device = true then 4096 else 520192
     let ring := if device = true then s.keeper.device else s.keeper.general
     let start := max first.toNat (next - size)
     ∃ t, Sys2Proof.Machine.exec (.logRead p seq device first) s = .next t
       ∧ t = { s with keeper := t.keeper }
       ∧ Responds t p 0x04 stOk seq (leBytes 8 start
           ++ (List.range (min 63 (next - start))).flatMap (fun i => recBytes (Map.get ring {} ((start + i) % size)))))
   ∧ (∀ (s : State) (p : MPort) (seq : Byte) (pairs : List (BitVec 16 × W32)), s.mgmtQuiet p →
     s.limitsOk (usedPairs pairs) = true →
     ∃ t, Sys2Proof.Machine.exec (.mgmtSetLimits p seq pairs) s = .next t
       ∧ t = { s with keeper := t.keeper } ∧ (t.mport p).busy = true
       ∧ t.keeper.limitQ = s.keeper.limitQ ++ [(none, some (p, seq), usedPairs pairs)]
       ∧ t.keeper.limits = s.keeper.limits)
   ∧ (∀ (s : State) (p : MPort) (seq : Byte) (port : BitVec 2) (split : Byte), s.mgmtQuiet p → port.toNat < 2 → split.toNat < 2 →
     ∃ t, Sys2Proof.Machine.exec (.configSet p seq port split) s = .next t
       ∧ t = { s with keeper := t.keeper } ∧ t.keeper.splitNow = s.keeper.splitNow
       ∧ (∀ k : Nat, k < 2 → bitOf t.keeper.splits k = if k = port.toNat then split == 1 else bitOf s.keeper.splits k)
       ∧ Responds t p 0x08 stOk seq [])
   ∧ (∀ (s : State) (p : MPort) (seq : Byte) (off : W32) (v : W64) (wide : Bool), s.mgmtFree p → (s.mport (otherPort p)).busy = true →
     Sys2Proof.Machine.exec (.regWrite p seq off wide v) s
       = .next { s.setMport p { s.mport p with busy := true } with
           keeper := { (s.setMport p { s.mport p with busy := true }).keeper with held := s.keeper.held ++ [(p, .regWrite p seq off wide v)] } })
   ∧ (∀ (s u : State) (p : MPort) (i : Instr) (w tw : Nat), s.watched = true → s.keeperRuns = true →
     Sys2Proof.Machine.exec (.controlInterval w tw) { s with keeper := { s.keeper with held := [] } } = .next u →
     (u.mport (otherPort p)).busy = false →
     Sys2Proof.Machine.exec (.controlInterval w tw) { s with keeper := { s.keeper with held := [(p, i)] } } = .next (u.takeUp p i)))
  ∧ (∀ (s : State), s.watched = true →
     let x := s.keeper.i3c
     let gives (i : Instr) (y : I3c) : Prop := Sys2Proof.Machine.exec i s = .next { s with keeper := { s.keeper with i3c := y } }
     (∀ a : BitVec 7, x.addr = none →
       gives (.entdaa a) { x with addr := some a, hotJoin := false, out := (leBytes 6 s.provisionedId).reverse })
     ∧ (∀ a : BitVec 7, x.addr ≠ none → gives (.entdaa a) x)
     ∧ gives .rstdaa { x with addr := none }
     ∧ (∀ ev : Byte, gives (.enec ev) { x with disabled := x.disabled &&& ~~~ev })
     ∧ (∀ ev : Byte, gives (.disec ev) { x with disabled := x.disabled ||| ev })
     ∧ (∀ n : BitVec 16, gives (.setmwl n) { x with mwl := n } ∧ gives (.setmrl n) { x with mrl := n })
     ∧ (x.addr ≠ none →
         gives .getpid { x with out := (leBytes 6 s.provisionedId).reverse }
         ∧ gives .getbcr { x with out := leBytes 1 (Config.i3cCharacteristic 0x8E).toNat }
         ∧ gives .getdcr { x with out := leBytes 1 (Config.i3cCharacteristic 0x8F).toNat }
         ∧ gives .getstatus { x with out := (leBytes 2 (Config.i3cCharacteristic 0x90).toNat).reverse }
         ∧ gives .getmwl { x with out := (leBytes 2 x.mwl.toNat).reverse }
         ∧ gives .getmrl { x with out := (leBytes 2 x.mrl.toNat).reverse ++ [1] })
     ∧ (x.addr = none → ∀ i ∈ [Instr.getpid, .getbcr, .getdcr, .getstatus, .getmwl, .getmrl], gives i x))

/-- R506, R511, R512: chunks of a boot slot. A chunk is refused while the boot load reads the slots or where R511 says so; one that its port may write is stored at its place, the first erasing the slot,
which its port then owns; the last answers with the cause of the checks, and the slot is VALID only where that is 0. Ten
seconds without a chunk end the ownership.

R500–R504: firmware. A chunk goes to the inactive slot of its kind, which is VALID once an image whose checks passed is whole,
and erased where they fail; FW_ACTIVATE runs a VALID one on trial and measures it; a commit ends the trial, a reversion runs
the previous slot again. While one is on trial both are answered BUSY, and FW_ACTIVATE of a slot that is not VALID DENIED.
A lockstep mismatch restarts the cores from the active slot, and a second within a second leaves them stopped.

It rests on the model's choices of log entries 244, 245 and 255 (notes/assumptions).

Completion: under hypotheses on the state and the operands alone, its conclusion is that exec answers a next state for
`slotWrite` (SLOT_WRITE), `slotOwnershipTimeout` (SLOT_OWNERSHIP_TIMEOUT), `fwStage` (FW_STAGE), `fwActivate`
(FW_ACTIVATE), `fwCommit` (FW_COMMIT), `fwReverted` (FW_REVERTED), `keeperRestart` (KEEPER_RESTART). -/
def Obligations.SlotsAndFirmwareAreWrittenAndRun : Prop :=
  ((∀ (s : State) (p : MPort) (seq : Byte) (slotB last : Bool) (off : BitVec 26) (bytes : List Byte), s.mgmtQuiet p →
     s.loader.phase ≠ 1 → chunkRefusal (s.slot (flag slotB)) p off.toNat bytes.length = none →
     let cause := s.slotCause ((s.slot (flag slotB)).chunk p off.toNat bytes) hdrPersonality
     ∃ t, Sys2Proof.Machine.exec (.slotWrite p seq slotB last off bytes) s = .next t
       ∧ t = { s with loader := { s.loader with slots := t.loader.slots }, keeper := t.keeper }
       ∧ (∀ i : Nat, i < bytes.length → Map.get (t.slot (flag slotB)).data 0 (64 * off.toNat + i) = nth bytes i 0)
       ∧ (off.toNat = 0 → ∀ i : Nat, bytes.length ≤ i → Map.get (t.slot (flag slotB)).data 0 i = 0)
       ∧ (off.toNat ≠ 0 → ∀ i : Nat, i < 64 * off.toNat ∨ 64 * off.toNat + bytes.length ≤ i →
           Map.get (t.slot (flag slotB)).data 0 i = Map.get (s.slot (flag slotB)).data 0 i)
       ∧ (last = false → (t.slot (flag slotB)).owner = some p ∧ Responds t p 0x07 stOk seq [])
       ∧ (last = true → (t.slot (flag slotB)).owner = none ∧ ((t.slot (flag slotB)).valid = true ↔ cause = 0)
           ∧ Responds t p 0x07 stOk seq (leBytes 1 cause))
       ∧ ∀ k, k ≠ flag slotB → t.slot k = s.slot k)
   ∧ (∀ (s : State) (p : MPort) (seq : Byte) (slotB last : Bool) (off : BitVec 26) (bytes : List Byte) (st : Nat), s.mgmtQuiet p →
     (s.loader.phase = 1 ∧ st = stBusy)
       ∨ (s.loader.phase ≠ 1 ∧ chunkRefusal (s.slot (flag slotB)) p off.toNat bytes.length = some st) →
     ∃ t, Sys2Proof.Machine.exec (.slotWrite p seq slotB last off bytes) s = .next t
       ∧ t = { s with keeper := t.keeper } ∧ Responds t p 0x07 st seq [])
   ∧ (∀ (s : State) (k : Nat), k < 2 →
     ∃ t, Sys2Proof.Machine.exec (.slotOwnershipTimeout k) s = .next t
       ∧ t = { s with loader := { s.loader with slots := t.loader.slots } }
       ∧ t.slot k = { s.slot k with owner := none } ∧ ∀ j, j ≠ k → t.slot j = s.slot j)
   ∧ (∀ (s : State) (k : Nat), k < 4 →
     ∃ t, Sys2Proof.Machine.exec (.slotOwnershipTimeout (k + 2)) s = .next t
       ∧ t = { s with sec := { s.sec with fw := t.sec.fw } }
       ∧ t.fwSlotOf k = { s.fwSlotOf k with owner := none } ∧ ∀ j, j ≠ k → t.fwSlotOf j = s.fwSlotOf j))
  ∧ (let idle (s : State) (steward : Bool) : Nat := if steward = true then 5 - s.sec.activeSt else 1 - s.sec.activeFw
   let trial (s : State) (steward : Bool) : Bool := if steward = true then s.sec.stTrial else s.sec.fwTrial
   let header (s : State) (k : Nat) : List Byte := (s.fwSlotOf k).bytes 0 512
   let refused (s : State) (i : Instr) (p : MPort) (seq : Byte) (op st : Nat) : Prop :=
     ∃ t, Sys2Proof.Machine.exec i s = .next t ∧ t = { s with keeper := t.keeper } ∧ Responds t p op st seq []
   (∀ (s : State) (p : MPort) (seq : Byte) (steward last : Bool) (off : BitVec 26) (bytes : List Byte), s.mgmtQuiet p →
     trial s steward = false → chunkRefusal (s.fwSlotOf (idle s steward)) p off.toNat bytes.length = none →
     let k := idle s steward
     let cause := s.slotCause ((s.fwSlotOf k).chunk p off.toNat bytes) (hdrFirmware (if steward = true then 0x11 else 0x10))
     ∃ t, Sys2Proof.Machine.exec (.fwStage p seq steward last off bytes) s = .next t
       ∧ (last = false → (t.fwSlotOf k).owner = some p ∧ Responds t p 0x16 stOk seq [])
       ∧ (last = true → Responds t p 0x16 stOk seq (leBytes 1 cause) ∧ (t.fwSlotOf k).owner = none
           ∧ ((t.fwSlotOf k).valid = true ↔ cause = 0) ∧ (cause ≠ 0 → t.fwSlotOf k = {}))
       ∧ (last = false ∨ cause = 0 →
           (∀ i : Nat, i < bytes.length → Map.get (t.fwSlotOf k).data 0 (64 * off.toNat + i) = nth bytes i 0)
           ∧ (off.toNat = 0 → ∀ i : Nat, bytes.length ≤ i → Map.get (t.fwSlotOf k).data 0 i = 0)
           ∧ (off.toNat ≠ 0 → ∀ i : Nat, i < 64 * off.toNat ∨ 64 * off.toNat + bytes.length ≤ i →
               Map.get (t.fwSlotOf k).data 0 i = Map.get (s.fwSlotOf k).data 0 i))
       ∧ (∀ j, j ≠ k → t.fwSlotOf j = s.fwSlotOf j)
       ∧ t = { s with sec := t.sec, keeper := t.keeper }
       ∧ t.sec = { s.sec with fw := t.sec.fw, mrs := t.sec.mrs, log := t.sec.log, logOvf := t.sec.logOvf })
   ∧ (∀ (s : State) (p : MPort) (seq : Byte) (steward last : Bool) (off : BitVec 26) (bytes : List Byte), s.mgmtQuiet p →
     (trial s steward = true → refused s (.fwStage p seq steward last off bytes) p seq 0x16 stBusy
         ∧ refused s (.fwActivate p seq steward) p seq 0x17 stBusy)
     ∧ (∀ st, trial s steward = false → chunkRefusal (s.fwSlotOf (idle s steward)) p off.toNat bytes.length = some st →
         refused s (.fwStage p seq steward last off bytes) p seq 0x16 st)
     ∧ (trial s steward = false → (s.fwSlotOf (idle s steward)).valid = false →
         refused s (.fwActivate p seq steward) p seq 0x17 stDenied))
   ∧ (∀ (s : State) (p : MPort) (seq : Byte) (steward : Bool), s.mgmtQuiet p →
     trial s steward = false → (s.fwSlotOf (idle s steward)).valid = true →
     let k := idle s steward
     ∃ t, Sys2Proof.Machine.exec (.fwActivate p seq steward) s = .next t
       ∧ t = { s with sec := t.sec, keeper := t.keeper }
       ∧ t.sec = { s.sec with
             stSlot := if steward = true then k else s.sec.stSlot, stTrial := s.sec.stTrial || steward,
             fwSlot := if steward = true then s.sec.fwSlot else k, fwTrial := s.sec.fwTrial || !steward,
             mrs := t.sec.mrs, log := t.sec.log, logOvf := t.sec.logOvf }
       ∧ t.mr (flag steward) = Config.sm3 (s.mr (flag steward) ++ Config.sm3 (header s k))
       ∧ t.mr 7 = Config.sm3 (s.mr 7 ++ Config.sm3 (leBytes 1 0x17 ++ leBytes 1 (flag steward)))
       ∧ Responds t p 0x17 stOk seq [])
   ∧ (∀ (s : State) (steward : Bool),
     Sys2Proof.Machine.exec (.fwCommit steward) s = .next { s with sec := { s.sec with
       stTrial := s.sec.stTrial && !steward, fwTrial := s.sec.fwTrial && steward } })
   ∧ (∀ (s : State) (steward : Bool), trial s steward = true →
     let k := if steward = true then s.sec.activeSt else s.sec.activeFw
     ∃ t, Sys2Proof.Machine.exec (.fwReverted steward) s = .next t
       ∧ t.sec = { s.sec with
             stSlot := if steward = true then k else s.sec.stSlot, stTrial := s.sec.stTrial && !steward,
             fwSlot := if steward = true then s.sec.fwSlot else k, fwTrial := s.sec.fwTrial && steward,
             mrs := t.sec.mrs, log := t.sec.log, logOvf := t.sec.logOvf }
       ∧ t.mr (flag steward) = Config.sm3 (s.mr (flag steward) ++ Config.sm3 (header s k))
       ∧ t.mr 7 = Config.sm3 (s.mr 7 ++ Config.sm3 (header s k))
       ∧ (steward = true → t = { s with sec := t.sec })
       ∧ t = { s with sec := t.sec, fresh := t.fresh, counts := t.counts, keeper := t.keeper, pins := t.pins, chans := t.chans })
   ∧ (∀ (s : State) (steward : Bool), trial s steward = false → Sys2Proof.Machine.exec (.fwReverted steward) s = .next s)
   ∧ (∀ s : State, s.watched = true → s.keeper.stopped = false →
     ∃ t, Sys2Proof.Machine.exec .keeperRestart s = .next t
       ∧ ((∀ x, s.keeper.lockstep = some x → x + secondTicks ≤ s.ltc.toNat) →
           t.keeper.stopped = false ∧ t.keeper.lockstep = some s.ltc.toNat
           ∧ t.sec = { s.sec with fwSlot := s.sec.activeFw, fwTrial := false,
                                  mrs := t.sec.mrs, log := t.sec.log, logOvf := t.sec.logOvf }
           ∧ t.mr 0 = Config.sm3 (s.mr 0 ++ Config.sm3 (header s s.sec.activeFw))
           ∧ t = { s with sec := t.sec, fresh := t.fresh, counts := t.counts, keeper := t.keeper, pins := t.pins, chans := t.chans })
       ∧ (∀ x, s.keeper.lockstep = some x → s.ltc.toNat < x + secondTicks →
           t = { s with keeper := { s.keeper with stopped := true } })))

/-- R481, R482, R486, R487, R492: fuse writes. OWNER_PROVISION programs an empty owner slot; OWNER_REVOKE revokes one while another
live one remains; POLICY_SET turns key sources off and never on; ROLLBACK_ADVANCE blows bits until the counter holds the
value. Each that verifies is measured into MR7 and answered OK; one that does not leaves the fuses, is recorded and answers
FUSE_FAIL. A slot or a value out of range is answered RANGE; a programmed slot, and the last live one, DENIED.

R488–R491: KEY_WRITE stores the key that its cipher holds, and PRESENT, while no tamper is asserted and no load uses the key;
DENIED and BUSY otherwise. KEY_ERASE clears it at once, and so does TAMPER_N, which also leaves TAMPERED and is measured and
recorded, outside resets and the option-load phase at once and otherwise owed. Each erase ends the loads that use the key with
KEY_ABSENT; where there are none it changes nothing but what is named.

It rests on the model's choices of log entries 150, 239, 240, 241 and 242 (notes/assumptions).

Completion: under hypotheses on the state and the operands alone, its conclusion is that exec answers a next state for
`ownerProvision` (OWNER_PROVISION), `ownerRevoke` (OWNER_REVOKE), `policySet` (POLICY_SET), `rollbackAdvance`
(ROLLBACK_ADVANCE), `keyWrite` (KEY_WRITE), `keyErase` (KEY_ERASE), `tamper` (TAMPER). -/
def Obligations.FusesAndKeysAreWritten : Prop :=
  (let done (s t : State) (p : MPort) (seq : Byte) (op : Nat) (operands payload : List Byte) (f : Fuses) : Prop :=
     t = { s with sec := t.sec, keeper := t.keeper }
       ∧ t.sec = { s.sec with fuses := f, mrs := t.sec.mrs, log := t.sec.log, logOvf := t.sec.logOvf }
       ∧ t.mr 7 = Config.sm3 (s.mr 7 ++ Config.sm3 (leBytes 1 op ++ operands)) ∧ (∀ k, k ≠ 7 → t.mr k = s.mr k)
       ∧ Responds t p op stOk seq payload
   let failed (s t : State) (p : MPort) (seq : Byte) (op : Nat) : Prop :=
     t = { s with fresh := t.fresh, counts := t.counts, keeper := t.keeper, pins := t.pins, chans := t.chans }
       ∧ Responds t p op stFuseFail seq []
   let refused (s : State) (i : Instr) (p : MPort) (seq : Byte) (op st : Nat) : Prop :=
     ∃ t, Sys2Proof.Machine.exec i s = .next t ∧ t = { s with keeper := t.keeper } ∧ Responds t p op st seq []
   (∀ (s : State) (p : MPort) (seq slot : Byte) (hash : BitVec 256) (ok : Bool), s.mgmtQuiet p →
     (slot.toNat < 4 → Map.get s.sec.fuses.owners 0 slot.toNat = 0 →
       ∃ t, Sys2Proof.Machine.exec (.ownerProvision p seq slot hash ok) s = .next t
         ∧ (ok = true → (∀ k, Map.get t.sec.fuses.owners 0 k = if k = slot.toNat then hash else Map.get s.sec.fuses.owners 0 k)
             ∧ done s t p seq 0x10 (leBytes 1 slot.toNat ++ leBytes 32 hash.toNat) []
                 { s.sec.fuses with owners := t.sec.fuses.owners })
         ∧ (ok = false → failed s t p seq 0x10))
     ∧ (4 ≤ slot.toNat → refused s (.ownerProvision p seq slot hash ok) p seq 0x10 stRange)
     ∧ (slot.toNat < 4 → Map.get s.sec.fuses.owners 0 slot.toNat ≠ 0 →
         refused s (.ownerProvision p seq slot hash ok) p seq 0x10 stDenied))
   ∧ (∀ (s : State) (p : MPort) (seq slot : Byte) (ok : Bool), s.mgmtQuiet p →
     (slot.toNat < 4 → (∃ k < 4, k ≠ slot.toNat ∧ s.sec.fuses.ownerLive k = true) →
       ∃ t, Sys2Proof.Machine.exec (.ownerRevoke p seq slot ok) s = .next t
         ∧ (ok = true →
             (∀ k : Nat, k < 4 → bitOf t.sec.fuses.revoked k = if k = slot.toNat then true else bitOf s.sec.fuses.revoked k)
             ∧ done s t p seq 0x11 (leBytes 1 slot.toNat) [] { s.sec.fuses with revoked := t.sec.fuses.revoked })
         ∧ (ok = false → failed s t p seq 0x11))
     ∧ (4 ≤ slot.toNat → refused s (.ownerRevoke p seq slot ok) p seq 0x11 stRange)
     ∧ (slot.toNat < 4 → (∀ k < 4, k ≠ slot.toNat → s.sec.fuses.ownerLive k = false) →
         refused s (.ownerRevoke p seq slot ok) p seq 0x11 stDenied))
   ∧ (∀ (s : State) (p : MPort) (seq : Byte) (f b ok : Bool), s.mgmtQuiet p →
     ∃ t, Sys2Proof.Machine.exec (.policySet p seq f b ok) s = .next t
       ∧ (ok = true → done s t p seq 0x12 (leBytes 1 (flag f) ++ leBytes 1 (flag b)) []
           { s.sec.fuses with fusedOff := s.sec.fuses.fusedOff || f, bbkOff := s.sec.fuses.bbkOff || b })
       ∧ (ok = false → failed s t p seq 0x12))
   ∧ (∀ (s : State) (p : MPort) (seq cls value : Byte) (ok : Bool), s.mgmtQuiet p →
     (cls.toNat < 16 → value.toNat ≤ 64 →
       s.sec.fuses.arbValue cls.toNat < value.toNat → (∀ n, s.runningSvn cls.toNat = some n → value.toNat ≤ n) →
       ∃ t, Sys2Proof.Machine.exec (.rollbackAdvance p seq cls value ok) s = .next t
         ∧ (ok = true → t.sec.fuses.arbValue cls.toNat = value.toNat
             ∧ (∀ k, k ≠ cls.toNat → Map.get t.sec.fuses.arb 0 k = Map.get s.sec.fuses.arb 0 k)
             ∧ done s t p seq 0x15 (leBytes 1 cls.toNat ++ leBytes 1 value.toNat) (s.slotsBelow cls.toNat value.toNat)
                 { s.sec.fuses with arb := t.sec.fuses.arb })
         ∧ (ok = false → failed s t p seq 0x15))
     ∧ (16 ≤ cls.toNat ∨ 64 < value.toNat ∨ value.toNat ≤ s.sec.fuses.arbValue cls.toNat
           ∨ (∃ n, s.runningSvn cls.toNat = some n ∧ n < value.toNat) →
         refused s (.rollbackAdvance p seq cls value ok) p seq 0x15 stRange)))
  ∧ (let keyed (s : State) : List Load := s.loader.queue.filter (fun l => l.usesBbk && !l.ended)
   let erased (s : State) (tampered : Bool) : Sec :=
     { s.sec with bbk := 0, bbkCheck := 0, present := false, tampered := s.sec.tampered || tampered }
   (∀ (s : State) (p : MPort) (seq : Byte) (cipher : List Byte), s.mgmtQuiet p →
     (s.pins.tamperN = true → keyed s = [] →
       ∃ t, Sys2Proof.Machine.exec (.keyWrite p seq cipher) s = .next t
         ∧ t = { s with sec := t.sec, keeper := t.keeper }
         ∧ t.sec = { s.sec with bbk := Config.sm2Decrypt s.sec.fuses.idPriv cipher, bbkCheck := t.sec.bbkCheck,
                                present := true, tampered := false, mrs := t.sec.mrs, log := t.sec.log, logOvf := t.sec.logOvf }
         ∧ t.sec.bbkCheck = Config.keyCheck t.sec.bbk ∧ Responds t p 0x13 stOk seq [])
     ∧ (s.pins.tamperN = false ∨ (s.pins.tamperN = true ∧ keyed s ≠ []) →
       ∃ t, Sys2Proof.Machine.exec (.keyWrite p seq cipher) s = .next t ∧ t = { s with keeper := t.keeper }
         ∧ Responds t p 0x13 (if s.pins.tamperN = true then stBusy else stDenied) seq []))
   ∧ (∀ (s : State) (p : MPort) (seq : Byte), s.mgmtQuiet p →
     ∃ t u, Sys2Proof.Machine.exec (.keyErase p seq) s = .next t
       ∧ u = (keyed s).foldl (fun s l => s.abortLoad l lcKeyAbsent) { s with sec := erased s false }
       ∧ t = { u with sec := t.sec, keeper := t.keeper }
       ∧ t.sec = { u.sec with mrs := t.sec.mrs, log := t.sec.log, logOvf := t.sec.logOvf }
       ∧ t.mr 7 = Config.sm3 (u.mr 7 ++ Config.sm3 [0x14]) ∧ Responds t p 0x14 stOk seq [])
   ∧ (∀ s : State, 
     ∃ t u, Sys2Proof.Machine.exec (.tamper false true) s = .next t
       ∧ u = (keyed s).foldl (fun s l => s.abortLoad l lcKeyAbsent)
               { s.mark 3 1 with pins := { s.pins with tamperN := false }, sec := erased s true }
       ∧ ((u.rst.level = .none ∧ u.rst.loading = false) →
           t = { u with sec := t.sec, fresh := t.fresh, counts := t.counts, keeper := t.keeper, pins := t.pins, chans := t.chans }
           ∧ t.sec = { u.sec with owedTamper := false, mrs := t.sec.mrs, log := t.sec.log, logOvf := t.sec.logOvf }
           ∧ t.mr 7 = Config.sm3 (u.mr 7 ++ Config.sm3 []))
       ∧ ((u.rst.level ≠ .none ∨ u.rst.loading = true) → t = { u with sec := { u.sec with owedTamper := true } }))
   ∧ (∀ (s : State),
     Sys2Proof.Machine.exec (.tamper false false) s = .next { s with pins := { s.pins with tamperN := true } })
   ∧ (∀ (s : State) (asserted : Bool), s.rst.level ≠ .power → Sys2Proof.Machine.exec (.tamper true asserted) s = .next s)
   ∧ (∀ (s : State) (asserted : Bool), s.rst.level = .power → keyed s = [] →
     Sys2Proof.Machine.exec (.tamper true asserted) s
       = .next { s.mark 3 1 with sec := { erased s true with owedTamper := true } }))

/-- R496–R499: ATTEST answers with the report, signed under the device identity, and is measured.

R497: the SPDM responder of a physical function whose port is up, and the root PLL in lock, answers each request in the
function's mailbox, and changes nothing else but the session: KEY_EXCHANGE begins one, FINISH opens the one begun, END_SESSION
closes the one open. A slot other than 0, an index without a measurement, and a request out of order are answered ERROR;
where the port is down nothing happens.

It rests on the model's choices of log entries 150 and 246 (notes/assumptions).

Completion: under hypotheses on the state and the operands alone, its conclusion is that exec answers a next state for
`attest` (ATTEST), `keyExchange` (KEY_EXCHANGE), `finish` (FINISH), `endSession` (END_SESSION), `getVersion`
(GET_VERSION), `getCapabilities` (GET_CAPABILITIES), `negotiateAlgorithms` (NEGOTIATE_ALGORITHMS), `getDigests`
(GET_DIGESTS), `getCertificate` (GET_CERTIFICATE), `challenge` (CHALLENGE), `getMeasurements` (GET_MEASUREMENTS). -/
def Obligations.TheDeviceAttests : Prop :=
  (∀ (s : State) (p : MPort) (seq mask : Byte) (nonce : List Byte), s.mgmtFree p →
     ∃ t, Sys2Proof.Machine.exec (.attest p seq nonce mask) s = .next t
       ∧ t = { s with sec := t.sec, keeper := t.keeper }
       ∧ t.sec = { s.sec with mrs := t.sec.mrs, log := t.sec.log, logOvf := t.sec.logOvf }
       ∧ Responds t p 0x18 stOk seq (s.attestBody nonce mask.toNat
           ++ fit 0 64 (Config.sm2Sign s.sec.fuses.idPriv (Config.sm3 ((s.attestBody nonce mask.toNat).take 0x180))))
       ∧ t.mr 7 = Config.sm3 (s.mr 7 ++ Config.sm3 (leBytes 1 0x18 ++ (fit 0 32 nonce ++ leBytes 1 mask.toNat)))
       ∧ ∀ k, k ≠ 7 → t.mr k = s.mr k)
  ∧ ((∀ (s : State) (q : Nat), q < 4 → s.rst.pllLost = false → (s.port q).up = true →
     let answers (i : Instr) (code : Nat) (made : List Byte) : Prop := Sys2Proof.Machine.exec i s = .next (s.spdm q code made)
     let sign (b : List Byte) : List Byte := Config.sm2Sign s.sec.fuses.idPriv (Config.sm3 b)
     (∀ req, answers (.getVersion q req) 0x04 req ∧ answers (.getCapabilities q req) 0x61 req
       ∧ answers (.negotiateAlgorithms q req) 0x63 req ∧ answers (.getDigests q req) 0x01 (req ++ Config.sm3 s.sec.chain))
     ∧ (∀ (off len : BitVec 16), answers (.getCertificate q 0 off len) 0x02
         (leBytes 2 off.toNat ++ leBytes 2 len.toNat ++ (s.sec.chain.drop off.toNat).take len.toNat))
     ∧ (∀ nonce, answers (.challenge q 0 nonce) 0x03 (nonce ++ s.measurements ++ sign (nonce ++ s.measurements)))
     ∧ (∀ nonce, answers (.getMeasurements q 0 nonce) 0x60 [8])
     ∧ (∀ (k : Byte) nonce, 1 ≤ k.toNat → k.toNat ≤ 8 →
         answers (.getMeasurements q k nonce) 0x60 (leBytes 1 k.toNat ++ fit 0 32 (s.mr (k.toNat - 1))
           ++ sign (nonce ++ (leBytes 1 k.toNat ++ fit 0 32 (s.mr (k.toNat - 1))))))
     ∧ (∀ nonce, answers (.getMeasurements q 0xFF nonce) 0x60 (s.measurements ++ sign (nonce ++ s.measurements)))
     ∧ (∀ (k : Byte) nonce, 8 < k.toNat → k ≠ 0xFF → answers (.getMeasurements q k nonce) spdmError (leBytes 1 k.toNat))
     ∧ (∀ req, Sys2Proof.Machine.exec (.keyExchange q 0 req) s
         = .next ((s.spdm q 0x64 (req ++ sign (req ++ s.measurements))).setSession q 1))
     ∧ (∀ req, (Map.get s.sec.sessions 0 q = 1 →
           Sys2Proof.Machine.exec (.finish q req) s = .next ((s.spdm q 0x65 req).setSession q 2))
         ∧ (Map.get s.sec.sessions 0 q ≠ 1 → answers (.finish q req) spdmError req))
     ∧ (Map.get s.sec.sessions 0 q = 2 → Sys2Proof.Machine.exec (.endSession q) s = .next ((s.spdm q 0x6C []).setSession q 0))
     ∧ (Map.get s.sec.sessions 0 q ≠ 2 → answers (.endSession q) spdmError [])
     ∧ (∀ (slot : BitVec 4) (off len : BitVec 16) nonce req, slot ≠ 0 →
         answers (.getCertificate q slot off len) spdmError (leBytes 1 slot.toNat)
         ∧ answers (.challenge q slot nonce) spdmError (leBytes 1 slot.toNat)
         ∧ answers (.keyExchange q slot req) spdmError (leBytes 1 slot.toNat)))
   ∧ (∀ (s : State) (q : Nat) (req : List Byte) (slot : BitVec 4) (off len : BitVec 16) (k : Byte) (nonce : List Byte),
     (s.port q).up = false →
     ∀ i ∈ [.getVersion q req, .getCapabilities q req, .negotiateAlgorithms q req, .getDigests q req,
            .getCertificate q slot off len, .challenge q slot nonce, .getMeasurements q k nonce, .keyExchange q slot req,
            .finish q req, .endSession q], Sys2Proof.Machine.exec i s = .next s))

/-! ## Debug -/

/-- R517–R521: while power is good, a TAP instruction stands with its data register: IDCODE also after a reset of the TAP, BYPASS,
CLAMP and HIGHZ; a scan captures the pads, 0 in banks without supply, shifts that out, and leaves what is shifted in. An
instrument that the level and the mode allow is read, one that either does not allow reads as zeros, and at level 2 the network
is BYPASS. Without power nothing happens.
It rests on the model's choices of log entries 261 and 262 (notes/assumptions).

Completion: under hypotheses on the state and the operands alone, its conclusion is that exec answers a next state for
`ijtag` (IJTAG), `idcode` (IDCODE), `samplePreload` (SAMPLE_PRELOAD), `extest` (EXTEST), `clamp` (CLAMP), `highz`
(HIGHZ), `bypass` (BYPASS), `testLogicReset` (TEST_LOGIC_RESET). -/
def Obligations.TapInstructionsStand : Prop :=
  (∀ (s : State), s.rst.level ≠ .power →
    let stands (i : Instr) (ir : TapInstr) (dr : List Byte) : Prop :=
      Sys2Proof.Machine.exec i s = .next { s with dbg := { s.dbg with ir := ir, dr := dr } }
    stands .idcode .idcode [0x53, 0x54, 0x1E, 0x1B] ∧ stands .testLogicReset .idcode [0x53, 0x54, 0x1E, 0x1B]
    ∧ stands .bypass .bypass [] ∧ stands .clamp .clamp [] ∧ stands .highz .highz []
    ∧ (∀ (pads shift : BitVec 1152) (b : Bool),
      ∃ t v, Sys2Proof.Machine.exec (if b = true then .extest pads shift else .samplePreload pads shift) s = .next t
        ∧ t = { s with dbg := { s.dbg with ir := if b = true then .extest else .sample, captured := v, boundary := shift,
                                               dr := leBytes 144 v.toNat } }
        ∧ ∀ c : Nat, c < 1152 → v.getLsbD c = (pads.getLsbD c && s.cellPowered c))
    ∧ (2 ≤ s.debugLevel → ∀ i, stands (.ijtag i) .bypass [])
    ∧ (∀ i, s.debugLevel ≤ (instrumentRights i).1 → s.debugLevel < 2 → ((instrumentRights i).2 = true → s.installed = false) →
        (∀ t l, s.instrument i = (t, l) →
          Sys2Proof.Machine.exec (.ijtag i) s = .next { t with dbg := { t.dbg with ir := .ijtag, dr := l } }))
    ∧ (∀ m o, s.debugLevel = 0 → s.stackOn m = true → o < 2 ^ 36 →
        stands (.ijtag (.hbm m o)) .ijtag (s.hbmRead m (o / 64 * 64) 64))
    ∧ (∀ i, s.debugLevel < 2 → (instrumentRights i).1 < s.debugLevel ∨ ((instrumentRights i).2 = true ∧ s.installed = true) →
        stands (.ijtag i) .ijtag (zeros (instrumentSize i))))
  ∧ (∀ (s : State) (pads shift : BitVec 1152) (x : Instrument), s.rst.level = .power →
    ∀ i ∈ [.idcode, .testLogicReset, .bypass, .clamp, .highz, .samplePreload pads shift, .extest pads shift, .ijtag x],
      Sys2Proof.Machine.exec i s = .next s)
end

