-- ==== Sys2Proof/Laws/Exec.lean ====
section
/-! SUPPORT. What exec calls for each command, one equation each, so that no proof unfolds its case split. -/

namespace Sys2Proof.Machine

variable (s : State)

@[simp] theorem exec_loadChoreography (h : Issuer) (base : W64) (asid : BitVec 10) : exec (.loadChoreography h base asid) s = execLoadChoreography h base asid s := rfl
@[simp] theorem exec_start (h : Issuer) (e : BitVec 3) : exec (.start h e) s = execStart h e s := rfl
@[simp] theorem exec_routeSectionRead (e : BitVec 3) : exec (.routeSectionRead e) s = execRouteSectionRead e s := rfl
@[simp] theorem exec_cancel (h : Issuer) (e : BitVec 3) (group : Byte) (action : Bool) : exec (.cancel h e group action) s = execCancel h e group action s := rfl
@[simp] theorem exec_stop (h : Issuer) (e : BitVec 3) : exec (.stop h e) s = execStop h e s := rfl
@[simp] theorem exec_stopComplete (e : BitVec 3) : exec (.stopComplete e) s = execStopComplete e s := rfl
@[simp] theorem exec_barFetch (e : BitVec 3) : exec (.barFetch e) s = execBarFetch e s := rfl
@[simp] theorem exec_fetchResume (e : BitVec 3) : exec (.fetchResume e) s = execFetchResume e s := rfl
@[simp] theorem exec_barDeal (e : BitVec 3) : exec (.barDeal e) s = execBarDeal e s := rfl
@[simp] theorem exec_branch (e : BitVec 3) : exec (.branch e) s = execBranch e s := rfl
@[simp] theorem exec_ensembleDone (e : BitVec 3) : exec (.ensembleDone e) s = execEnsembleDone e s := rfl
@[simp] theorem exec_mark (e : BitVec 3) : exec (.mark e) s = execMark e s := rfl
@[simp] theorem exec_stepFire (ub : Nat) : exec (.stepFire ub) s = execStepFire ub s := rfl
@[simp] theorem exec_stepComplete (ub : Nat) : exec (.stepComplete ub) s = execStepComplete ub s := rfl
@[simp] theorem exec_nop (ub : Nat) : exec (.nop ub) s = execNop ub s := rfl
@[simp] theorem exec_mode (ub : Nat) : exec (.mode ub) s = execMode ub s := rfl
@[simp] theorem exec_modeAdopt (ub : Nat) : exec (.modeAdopt ub) s = execModeAdopt ub s := rfl
@[simp] theorem exec_cancelStep (ub : Nat) : exec (.cancelStep ub) s = execCancelStep ub s := rfl
@[simp] theorem exec_cancelBroadcast (ub : Nat) (e : BitVec 3) (group : Byte) (action : Bool) : exec (.cancelBroadcast ub e group action) s = execCancelBroadcast ub e group action s := rfl
@[simp] theorem exec_sync (x : SyncIssuer) : exec (.sync x) s = execSync x s := rfl
@[simp] theorem exec_route (ub : Nat) : exec (.route ub) s = execRoute ub s := rfl
@[simp] theorem exec_token (ub : Nat) (tk : BitVec 4) : exec (.token ub tk) s = execToken ub tk s := rfl
@[simp] theorem exec_credit (ub : Nat) (pool : BitVec 3) (n : BitVec 16) : exec (.credit ub pool n) s = execCredit ub pool n s := rfl
@[simp] theorem exec_absent (ub : Nat) : exec (.absent ub) s = execAbsent ub s := rfl
@[simp] theorem exec_mxp (ub : Nat) : exec (.mxp ub) s = execMxp ub s := rfl
@[simp] theorem exec_tcfg (ub : Nat) : exec (.tcfg ub) s = execTcfg ub s := rfl
@[simp] theorem exec_drain (ub : Nat) : exec (.drain ub) s = execDrain ub s := rfl
@[simp] theorem exec_verdict (ub : Nat) (disagree : BitVec 4) : exec (.verdict ub disagree) s = execVerdict ub disagree s := rfl
@[simp] theorem exec_locateReRun (ub : Nat) (found : List (Nat × List Nat)) : exec (.locateReRun ub found) s = execLocateReRun ub found s := rfl
@[simp] theorem exec_blockReplay (ub : Nat) (disagree : BitVec 4) : exec (.blockReplay ub disagree) s = execBlockReplay ub disagree s := rfl
@[simp] theorem exec_walkThrough (u : WalkUnit) (failed : Bool) (arrays : BitVec 4) : exec (.walkThrough u failed arrays) s = execWalkThrough u failed arrays s := rfl
@[simp] theorem exec_vmov (ub : Nat) (chk : VuCheck) : exec (.vmov ub chk) s = execVmov ub chk s := rfl
@[simp] theorem exec_vadd (ub : Nat) (chk : VuCheck) : exec (.vadd ub chk) s = execVadd ub chk s := rfl
@[simp] theorem exec_vsub (ub : Nat) (chk : VuCheck) : exec (.vsub ub chk) s = execVsub ub chk s := rfl
@[simp] theorem exec_vmul (ub : Nat) (chk : VuCheck) : exec (.vmul ub chk) s = execVmul ub chk s := rfl
@[simp] theorem exec_vfma (ub : Nat) (chk : VuCheck) : exec (.vfma ub chk) s = execVfma ub chk s := rfl
@[simp] theorem exec_vmax (ub : Nat) (chk : VuCheck) : exec (.vmax ub chk) s = execVmax ub chk s := rfl
@[simp] theorem exec_vmin (ub : Nat) (chk : VuCheck) : exec (.vmin ub chk) s = execVmin ub chk s := rfl
@[simp] theorem exec_vcmp (ub : Nat) (chk : VuCheck) : exec (.vcmp ub chk) s = execVcmp ub chk s := rfl
@[simp] theorem exec_vsel (ub : Nat) (chk : VuCheck) : exec (.vsel ub chk) s = execVsel ub chk s := rfl
@[simp] theorem exec_vexp2 (ub : Nat) (chk : VuCheck) : exec (.vexp2 ub chk) s = execVexp2 ub chk s := rfl
@[simp] theorem exec_vlog2 (ub : Nat) (chk : VuCheck) : exec (.vlog2 ub chk) s = execVlog2 ub chk s := rfl
@[simp] theorem exec_vrcp (ub : Nat) (chk : VuCheck) : exec (.vrcp ub chk) s = execVrcp ub chk s := rfl
@[simp] theorem exec_vrsq (ub : Nat) (chk : VuCheck) : exec (.vrsq ub chk) s = execVrsq ub chk s := rfl
@[simp] theorem exec_vred (ub : Nat) (chk : VuCheck) : exec (.vred ub chk) s = execVred ub chk s := rfl
@[simp] theorem exec_vsmx (ub : Nat) (chk : VuCheck) : exec (.vsmx ub chk) s = execVsmx ub chk s := rfl
@[simp] theorem exec_vcmb (ub : Nat) (chk : VuCheck) : exec (.vcmb ub chk) s = execVcmb ub chk s := rfl
@[simp] theorem exec_vperm (ub : Nat) (chk : VuCheck) : exec (.vperm ub chk) s = execVperm ub chk s := rfl
@[simp] theorem exec_vrand (ub : Nat) (chk : VuCheck) : exec (.vrand ub chk) s = execVrand ub chk s := rfl
@[simp] theorem exec_vseed (ub : Nat) (chk : VuCheck) : exec (.vseed ub chk) s = execVseed ub chk s := rfl
@[simp] theorem exec_vscl (ub : Nat) (chk : VuCheck) : exec (.vscl ub chk) s = execVscl ub chk s := rfl
@[simp] theorem exec_tsScrub (tile : Nat) (line : Nat) (found : Ecc) : exec (.tsScrub tile line found) s = execTsScrub tile line found s := rfl
@[simp] theorem exec_dload (ub : Nat) : exec (.dload ub) s = execDload ub s := rfl
@[simp] theorem exec_dloadComplete (ub : Nat) (slot : BitVec 6) : exec (.dloadComplete ub slot) s = execDloadComplete ub slot s := rfl
@[simp] theorem exec_dloadResume (ub : Nat) : exec (.dloadResume ub) s = execDloadResume ub s := rfl
@[simp] theorem exec_stream (ub : Nat) : exec (.stream ub) s = execStream ub s := rfl
@[simp] theorem exec_rfree (ub : Nat) : exec (.rfree ub) s = execRfree ub s := rfl
@[simp] theorem exec_transactionIssue (se : Nat) (ctx : BitVec 3) : exec (.transactionIssue se ctx) s = execTransactionIssue se ctx s := rfl
@[simp] theorem exec_tableWalk (requester : Nat) (asid : BitVec 10) (va : BitVec 48) : exec (.tableWalk requester asid va) s = execTableWalk requester asid va s := rfl
@[simp] theorem exec_rdResp (r : Resp) : exec (.rdResp r) s = execRdResp r s := rfl
@[simp] theorem exec_ack (a : Ack) : exec (.ack a) s = execAck a s := rfl
@[simp] theorem exec_hostFlush (se : Nat) (ctx : BitVec 3) (ok : Bool) : exec (.hostFlush se ctx ok) s = execHostFlush se ctx ok s := rfl
@[simp] theorem exec_resumeStream (h : Issuer) (unit : BitVec 10) (ctx : BitVec 3) : exec (.resumeStream h unit ctx) s = execResumeStream h unit ctx s := rfl
@[simp] theorem exec_streamStalled (se : Nat) (ctx : BitVec 3) : exec (.streamStalled se ctx) s = execStreamStalled se ctx s := rfl
@[simp] theorem exec_retry (init : BitVec 12) (sub : BitVec 4) (seq : W32) : exec (.retry init sub seq) s = execRetry init sub seq s := rfl
@[simp] theorem exec_arrive (a : Agent) (obj : BitVec 15) (n : W32) : exec (.arrive a obj n) s = execArrive a obj n s := rfl
@[simp] theorem exec_wait (a : Agent) (obj : BitVec 15) : exec (.wait a obj) s = execWait a obj s := rfl
@[simp] theorem exec_set (a : Agent) (obj : BitVec 15) (v : W32) : exec (.set a obj v) s = execSet a obj v s := rfl
@[simp] theorem exec_reset (a : Agent) (obj : BitVec 15) (target : W32) (auto : Bool) : exec (.reset a obj target auto) s = execReset a obj target auto s := rfl
@[simp] theorem exec_read (a : Agent) (obj : BitVec 15) : exec (.read a obj) s = execRead a obj s := rfl
@[simp] theorem exec_syncResp (a : Agent) (obj : BitVec 15) : exec (.syncResp a obj) s = execSyncResp a obj s := rfl
@[simp] theorem exec_waitRetry (a : Agent) (obj : BitVec 15) : exec (.waitRetry a obj) s = execWaitRetry a obj s := rfl
@[simp] theorem exec_syncConfig (h : Issuer) (obj : BitVec 15) (owner : BitVec 4) (tree : Bool) (wtk : BitVec 5) : exec (.syncConfig h obj owner tree wtk) s = execSyncConfig h obj owner tree wtk s := rfl
@[simp] theorem exec_remoteMap (h : Issuer) (index : BitVec 12) (entry : W64) : exec (.remoteMap h index entry) s = execRemoteMap h index entry s := rfl
@[simp] theorem exec_arriveFrame (die : Nat) (f : Frame) : exec (.arriveFrame die f) s = execArriveFrame die f s := rfl
@[simp] theorem exec_mload (ub : Nat) : exec (.mload ub) s = execMload ub s := rfl
@[simp] theorem exec_mrun (ub : Nat) : exec (.mrun ub) s = execMrun ub s := rfl
@[simp] theorem exec_gather (stack : Nat) (job : BitVec 2) : exec (.gather stack job) s = execGather stack job s := rfl
@[simp] theorem exec_scatterAdd (stack : Nat) (job : BitVec 2) : exec (.scatterAdd stack job) s = execScatterAdd stack job s := rfl
@[simp] theorem exec_reduce (stack : Nat) (job : BitVec 2) : exec (.reduce stack job) s = execReduce stack job s := rfl
@[simp] theorem exec_convert (stack : Nat) (job : BitVec 2) : exec (.convert stack job) s = execConvert stack job s := rfl
@[simp] theorem exec_workCopy (stack : Nat) (job : BitVec 2) : exec (.workCopy stack job) s = execWorkCopy stack job s := rfl
@[simp] theorem exec_fill (stack : Nat) (job : BitVec 2) : exec (.fill stack job) s = execFill stack job s := rfl
@[simp] theorem exec_topk (stack : Nat) (job : BitVec 2) : exec (.topk stack job) s = execTopk stack job s := rfl
@[simp] theorem exec_scrub (stack : Nat) (job : BitVec 2) (found : List (Nat × Ecc)) : exec (.scrub stack job found) s = execScrub stack job found s := rfl
@[simp] theorem exec_gemv (stack : Nat) (job : BitVec 2) : exec (.gemv stack job) s = execGemv stack job s := rfl
@[simp] theorem exec_adec (stack : Nat) (job : BitVec 2) : exec (.adec stack job) s = execAdec stack job s := rfl
@[simp] theorem exec_jobPiece (stack : Nat) (job : BitVec 2) (cluster : BitVec 3) (chk : Check) : exec (.jobPiece stack job cluster chk) s = execJobPiece stack job cluster chk s := rfl
@[simp] theorem exec_jobComplete (stack : Nat) (job : BitVec 2) : exec (.jobComplete stack job) s = execJobComplete stack job s := rfl
@[simp] theorem exec_memRegionWrite (v : W32) : exec (.memRegionWrite v) s = execMemRegionWrite v s := rfl
@[simp] theorem exec_astBaseWrite (v : W64) : exec (.astBaseWrite v) s = execAstBaseWrite v s := rfl
@[simp] theorem exec_rdReq (r : Req) : exec (.rdReq r) s = execRdReq r s := rfl
@[simp] theorem exec_wrReq (r : Req) : exec (.wrReq r) s = execWrReq r s := rfl
@[simp] theorem exec_addReq (r : Req) : exec (.addReq r) s = execAddReq r s := rfl
@[simp] theorem exec_requestIssue (stack : Nat) (pc : Nat) (ready : BitVec 64) (found : Ecc) (chk : Check) : exec (.requestIssue stack pc ready found chk) s = execRequestIssue stack pc ready found chk s := rfl
@[simp] theorem exec_agePromotion (stack : Nat) (pc : Nat) (init : BitVec 12) (seq : W32) : exec (.agePromotion stack pc init seq) s = execAgePromotion stack pc init seq s := rfl
@[simp] theorem exec_rowClose (stack : Nat) (pc : Nat) (bank : Nat) : exec (.rowClose stack pc bank) s = execRowClose stack pc bank s := rfl
@[simp] theorem exec_refresh (stack : Nat) (pc : Nat) (bank : Nat) (postpone : Bool) : exec (.refresh stack pc bank postpone) s = execRefresh stack pc bank postpone s := rfl
@[simp] theorem exec_refreshWindowEnd (stack : Nat) (pc : Nat) (bank : Nat) : exec (.refreshWindowEnd stack pc bank) s = execRefreshWindowEnd stack pc bank s := rfl
@[simp] theorem exec_throttleCooldown (stack : Nat) (pc : Nat) (init : BitVec 12) : exec (.throttleCooldown stack pc init) s = execThrottleCooldown stack pc init s := rfl
@[simp] theorem exec_dramTempRead (stack : Nat) (dies : List Int) : exec (.dramTempRead stack dies) s = execDramTempRead stack dies s := rfl
@[simp] theorem exec_hbmScrub (stack : Nat) (line : Nat) (found : Ecc) : exec (.hbmScrub stack line found) s = execHbmScrub stack line found s := rfl
@[simp] theorem exec_parityAlert (stack : Nat) (pc : Nat) (offset : Nat) : exec (.parityAlert stack pc offset) s = execParityAlert stack pc offset s := rfl
@[simp] theorem exec_unfreeze (h : Issuer) (stack : BitVec 4) (pc : BitVec 6) : exec (.unfreeze h stack pc) s = execUnfreeze h stack pc s := rfl
@[simp] theorem exec_retirePc (h : Issuer) (stack : BitVec 4) (pc : BitVec 6) : exec (.retirePc h stack pc) s = execRetirePc h stack pc s := rfl
@[simp] theorem exec_evacuation (stack : Nat) (unreadable : List Nat) : exec (.evacuation stack unreadable) s = execEvacuation stack unreadable s := rfl
@[simp] theorem exec_initialTraining (stack : Nat) (failed : List Nat) (temp : Int) : exec (.initialTraining stack failed temp) s = execInitialTraining stack failed temp s := rfl
@[simp] theorem exec_retrainingPiece (stack : Nat) (pc : Nat) : exec (.retrainingPiece stack pc) s = execRetrainingPiece stack pc s := rfl
@[simp] theorem exec_linkResend (link : Nat) : exec (.linkResend link) s = execLinkResend link s := rfl
@[simp] theorem exec_statWindow (flits : List (Nat × Nat)) : exec (.statWindow flits) s = execStatWindow flits s := rfl
@[simp] theorem exec_restart (v : W32) : exec (.restart v) s = execRestart v s := rfl
@[simp] theorem exec_verdictPacket (v : VerdictSource) : exec (.verdictPacket v) s = execVerdictPacket v s := rfl
@[simp] theorem exec_verdictTimeout (se : Nat) (ctx : BitVec 3) (slot : Nat) : exec (.verdictTimeout se ctx slot) s = execVerdictTimeout se ctx slot s := rfl
@[simp] theorem exec_tileMigration (tile : Nat) : exec (.tileMigration tile) s = execTileMigration tile s := rfl
@[simp] theorem exec_seMigration (se : Nat) : exec (.seMigration se) s = execSeMigration se s := rfl
@[simp] theorem exec_record (code : Nat) (cls : Nat) (sev : Nat) (unit : Nat) (detail : Nat) : exec (.record code cls sev unit detail) s = execRecord code cls sev unit detail s := rfl
@[simp] theorem exec_countPeriod (cls : Nat) (unit : Nat) (code : Nat) : exec (.countPeriod cls unit code) s = execCountPeriod cls unit code s := rfl
@[simp] theorem exec_eventDelivery (chan : Nat) : exec (.eventDelivery chan) s = execEventDelivery chan s := rfl
@[simp] theorem exec_fabClkWrite (k : BitVec 5) (v : W32) : exec (.fabClkWrite k v) s = execFabClkWrite k v s := rfl
@[simp] theorem exec_gwRead (gw : Nat) (cmd : W128) : exec (.gwRead gw cmd) s = execGwRead gw cmd s := rfl
@[simp] theorem exec_gwWrite (gw : Nat) (cmd : W128) (data : List Byte) : exec (.gwWrite gw cmd data) s = execGwWrite gw cmd data s := rfl
@[simp] theorem exec_gwAdd (gw : Nat) (cmd : W128) (data : List Byte) : exec (.gwAdd gw cmd data) s = execGwAdd gw cmd data s := rfl
@[simp] theorem exec_tsRead (gw : Nat) (cmd : W128) : exec (.tsRead gw cmd) s = execTsRead gw cmd s := rfl
@[simp] theorem exec_tsWrite (gw : Nat) (cmd : W128) (data : List Byte) : exec (.tsWrite gw cmd data) s = execTsWrite gw cmd data s := rfl
@[simp] theorem exec_gwToken (gw : Nat) (cmd : W128) : exec (.gwToken gw cmd) s = execGwToken gw cmd s := rfl
@[simp] theorem exec_gwResponse (gw : Nat) (tag : Byte) : exec (.gwResponse gw tag) s = execGwResponse gw tag s := rfl
@[simp] theorem exec_dspNop (b : Nat) (ops : BitVec 20) (x : DspIn) : exec (.dspNop b ops x) s = execDspNop b ops x s := rfl
@[simp] theorem exec_clr (b : Nat) (ops : BitVec 20) (x : DspIn) : exec (.clr b ops x) s = execClr b ops x s := rfl
@[simp] theorem exec_mul (b : Nat) (ops : BitVec 20) (x : DspIn) : exec (.mul b ops x) s = execMul b ops x s := rfl
@[simp] theorem exec_mac (b : Nat) (ops : BitVec 20) (x : DspIn) : exec (.mac b ops x) s = execMac b ops x s := rfl
@[simp] theorem exec_msu (b : Nat) (ops : BitVec 20) (x : DspIn) : exec (.msu b ops x) s = execMsu b ops x s := rfl
@[simp] theorem exec_adda (b : Nat) (ops : BitVec 20) (x : DspIn) : exec (.adda b ops x) s = execAdda b ops x s := rfl
@[simp] theorem exec_mov (b : Nat) (ops : BitVec 20) (x : DspIn) : exec (.mov b ops x) s = execMov b ops x s := rfl
@[simp] theorem exec_setp (b : Nat) (ops : BitVec 20) (x : DspIn) : exec (.setp b ops x) s = execSetp b ops x s := rfl
@[simp] theorem exec_repeatN (b : Nat) (ops : BitVec 20) (x : DspIn) : exec (.repeatN b ops x) s = execRepeatN b ops x s := rfl
@[simp] theorem exec_waitv (b : Nat) (ops : BitVec 20) (x : DspIn) : exec (.waitv b ops x) s = execWaitv b ops x s := rfl
@[simp] theorem exec_jmp (b : Nat) (ops : BitVec 20) (x : DspIn) : exec (.jmp b ops x) s = execJmp b ops x s := rfl
@[simp] theorem exec_halt (b : Nat) (ops : BitVec 20) (x : DspIn) : exec (.halt b ops x) s = execHalt b ops x s := rfl
@[simp] theorem exec_dspRestart (b : Nat) : exec (.dspRestart b) s = execDspRestart b s := rfl
@[simp] theorem exec_loadPersonality (h : Issuer) (image : W64) (length : W64) (asid : BitVec 10) (dest : BitVec 48) : exec (.loadPersonality h image length asid dest) s = execLoadPersonality h image length asid dest s := rfl
@[simp] theorem exec_partialLoad : exec (.partialLoad) s = execPartialLoad s := rfl
@[simp] theorem exec_regionRelease (region : Nat) : exec (.regionRelease region) s = execRegionRelease region s := rfl
@[simp] theorem exec_tablesLoad : exec (.tablesLoad) s = execTablesLoad s := rfl
@[simp] theorem exec_tableCommit : exec (.tableCommit) s = execTableCommit s := rfl
@[simp] theorem exec_modelLoad : exec (.modelLoad) s = execModelLoad s := rfl
@[simp] theorem exec_staticLoad : exec (.staticLoad) s = execStaticLoad s := rfl
@[simp] theorem exec_bootLoad : exec (.bootLoad) s = execBootLoad s := rfl
@[simp] theorem exec_globalRelease (doneHigh : Bool) : exec (.globalRelease doneHigh) s = execGlobalRelease doneHigh s := rfl
@[simp] theorem exec_imageStart (dest : W64) : exec (.imageStart dest) s = execImageStart dest s := rfl
@[simp] theorem exec_imageData (bytes : List Byte) : exec (.imageData bytes) s = execImageData bytes s := rfl
@[simp] theorem exec_cfgStatus : exec (.cfgStatus) s = execCfgStatus s := rfl
@[simp] theorem exec_cspStatus : exec (.cspStatus) s = execCspStatus s := rfl
@[simp] theorem exec_mgmtReq (frame : List Byte) (fuseOk : Bool) : exec (.mgmtReq frame fuseOk) s = execMgmtReq frame fuseOk s := rfl
@[simp] theorem exec_mgmtResp : exec (.mgmtResp) s = execMgmtResp s := rfl
@[simp] theorem exec_powerOnReset : exec (.powerOnReset) s = execPowerOnReset s := rfl
@[simp] theorem exec_systemReset (byPin : Bool) : exec (.systemReset byPin) s = execSystemReset byPin s := rfl
@[simp] theorem exec_coreReset (byHost : Bool) : exec (.coreReset byHost) s = execCoreReset byHost s := rfl
@[simp] theorem exec_sysWdog : exec (.sysWdog) s = execSysWdog s := rfl
@[simp] theorem exec_optionLoad (bbkIntact : Bool) (repairCopies : BitVec 2) : exec (.optionLoad bbkIntact repairCopies) s = execOptionLoad bbkIntact repairCopies s := rfl
@[simp] theorem exec_pllUnlock : exec (.pllUnlock) s = execPllUnlock s := rfl
@[simp] theorem exec_resetBlock (h : Issuer) (b : BlockId) : exec (.resetBlock h b) s = execResetBlock h b s := rfl
@[simp] theorem exec_blockReset (p : MPort) (seq : Byte) (b : BlockId) : exec (.blockReset p seq b) s = execBlockReset p seq b s := rfl
@[simp] theorem exec_blockIdle (b : BlockId) : exec (.blockIdle b) s = execBlockIdle b s := rfl
@[simp] theorem exec_blockIdleTimeout (b : BlockId) : exec (.blockIdleTimeout b) s = execBlockIdleTimeout b s := rfl
@[simp] theorem exec_perst (port : Nat) : exec (.perst port) s = execPerst port s := rfl
@[simp] theorem exec_pcieTraining (port : Nat) (half : Nat) : exec (.pcieTraining port half) s = execPcieTraining port half s := rfl
@[simp] theorem exec_flr (port : Nat) (fn : Nat) : exec (.flr port fn) s = execFlr port fn s := rfl
@[simp] theorem exec_controlInterval (watts : Nat) (tierWatts : Nat) : exec (.controlInterval watts tierWatts) s = execControlInterval watts tierWatts s := rfl
@[simp] theorem exec_sensorRead (sensor : Nat) (temp : Int) : exec (.sensorRead sensor temp) s = execSensorRead sensor temp s := rfl
@[simp] theorem exec_iFast : exec (.iFast) s = execIFast s := rfl
@[simp] theorem exec_thermTrip (sensor : Nat) (temp : Int) : exec (.thermTrip sensor temp) s = execThermTrip sensor temp s := rfl
@[simp] theorem exec_railFault (rail : Nat) (tier : Option Nat) : exec (.railFault rail tier) s = execRailFault rail tier s := rfl
@[simp] theorem exec_poll (fn : Nat) (w : PollWords) : exec (.poll fn w) s = execPoll fn w s := rfl
@[simp] theorem exec_doorbellReread (chan : Nat) : exec (.doorbellReread chan) s = execDoorbellReread chan s := rfl
@[simp] theorem exec_completionWrite (chan : Nat) : exec (.completionWrite chan) s = execCompletionWrite chan s := rfl
@[simp] theorem exec_interrupt (chan : Nat) (timeExpired : Bool) : exec (.interrupt chan timeExpired) s = execInterrupt chan timeExpired s := rfl
@[simp] theorem exec_completionTimeout (init : BitVec 12) (sub : BitVec 4) (seq : W32) : exec (.completionTimeout init sub seq) s = execCompletionTimeout init sub seq s := rfl
@[simp] theorem exec_hostNop (h : Issuer) : exec (.hostNop h) s = execHostNop h s := rfl
@[simp] theorem exec_copy (h : Issuer) (src : W64) (dst : W64) (len : W64) (srcSpace : BitVec 2) (dstSpace : BitVec 2) (asid : BitVec 10) : exec (.copy h src dst len srcSpace dstSpace asid) s = execCopy h src dst len srcSpace dstSpace asid s := rfl
@[simp] theorem exec_mapPages (h : Issuer) (asid : BitVec 10) (all : Bool) (va : W64) (len : W64) (list : W64) (n : W32) : exec (.mapPages h asid all va len list n) s = execMapPages h asid all va len list n s := rfl
@[simp] theorem exec_setLimits (h : Issuer) (pairs : List (BitVec 16 × W32)) : exec (.setLimits h pairs) s = execSetLimits h pairs s := rfl
@[simp] theorem exec_query (h : Issuer) (item : Byte) (index : BitVec 16) (clear : Bool) (buf : W64) (len : W64) : exec (.query h item index clear buf len) s = execQuery h item index clear buf len s := rfl
@[simp] theorem exec_correlateTime (h : Issuer) (ptm : Option (W64 × W32)) : exec (.correlateTime h ptm) s = execCorrelateTime h ptm s := rfl
@[simp] theorem exec_writeInstallationMap (h : Issuer) (addr : W64) : exec (.writeInstallationMap h addr) s = execWriteInstallationMap h addr s := rfl
@[simp] theorem exec_enable (h : Issuer) (chan : BitVec 12) : exec (.enable h chan) s = execEnable h chan s := rfl
@[simp] theorem exec_disable (h : Issuer) (chan : BitVec 12) : exec (.disable h chan) s = execDisable h chan s := rfl
@[simp] theorem exec_registerWrite (fn : Nat) (off : Nat) (wide : Bool) (v : W64) : exec (.registerWrite fn off wide v) s = execRegisterWrite fn off wide v s := rfl
@[simp] theorem exec_put (die : Nat) (f : Frame) : exec (.put die f) s = execPut die f s := rfl
@[simp] theorem exec_ring (die : Nat) (f : Frame) : exec (.ring die f) s = execRing die f s := rfl
@[simp] theorem exec_getReq (die : Nat) (f : Frame) : exec (.getReq die f) s = execGetReq die f s := rfl
@[simp] theorem exec_getResp (die : Nat) (f : Frame) : exec (.getResp die f) s = execGetResp die f s := rfl
@[simp] theorem exec_ackFrame (die : Nat) (f : Frame) : exec (.ackFrame die f) s = execAckFrame die f s := rfl
@[simp] theorem exec_grant (die : Nat) (f : Frame) : exec (.grant die f) s = execGrant die f s := rfl
@[simp] theorem exec_fence (die : Nat) (f : Frame) : exec (.fence die f) s = execFence die f s := rfl
@[simp] theorem exec_adopt (die : Nat) (f : Frame) : exec (.adopt die f) s = execAdopt die f s := rfl
@[simp] theorem exec_unadopt (die : Nat) (f : Frame) : exec (.unadopt die f) s = execUnadopt die f s := rfl
@[simp] theorem exec_forward (die : Nat) (f : Frame) : exec (.forward die f) s = execForward die f s := rfl
@[simp] theorem exec_nack (die : Nat) (lseq : BitVec 16) : exec (.nack die lseq) s = execNack die lseq s := rfl
@[simp] theorem exec_recovery (die : Nat) (lanes : List Nat) : exec (.recovery die lanes) s = execRecovery die lanes s := rfl
@[simp] theorem exec_ident (die : Nat) (peer : BitVec 14) (peerDie : BitVec 4) (version : Byte) (credits : List Nat) (digests : Bool) (mirrors : List MirrorRange) : exec (.ident die peer peerDie version credits digests mirrors) s = execIdent die peer peerDie version credits digests mirrors s := rfl
@[simp] theorem exec_trainingTimeout (die : Nat) : exec (.trainingTimeout die) s = execTrainingTimeout die s := rfl
@[simp] theorem exec_zlStalled (die : Nat) (vc : BitVec 2) : exec (.zlStalled die vc) s = execZlStalled die vc s := rfl
@[simp] theorem exec_laneSparing (die : Nat) (lane : Nat) (spare : Nat) : exec (.laneSparing die lane spare) s = execLaneSparing die lane spare s := rfl
@[simp] theorem exec_heartbeat (p : HbPath) : exec (.heartbeat p) s = execHeartbeat p s := rfl
@[simp] theorem exec_heartbeatSend : exec (.heartbeatSend) s = execHeartbeatSend s := rfl
@[simp] theorem exec_silence (link : Bool) (sideband : Bool) : exec (.silence link sideband) s = execSilence link sideband s := rfl
@[simp] theorem exec_quorumWait : exec (.quorumWait) s = execQuorumWait s := rfl
@[simp] theorem exec_mirror (m : MirrorItem) : exec (.mirror m) s = execMirror m s := rfl
@[simp] theorem exec_memory (m : PartnerMemory) : exec (.memory m) s = execMemory m s := rfl
@[simp] theorem exec_control (c : Control) : exec (.control c) s = execControl c s := rfl
@[simp] theorem exec_resilver (r : MirrorRange) (own : Bool) (off : Nat) (data : List Byte) (last : Bool) : exec (.resilver r own off data last) s = execResilver r own off data last s := rfl
@[simp] theorem exec_ptnMirror (h : Issuer) (entry : BitVec 6) (valid : Bool) (addr : W64) (len : W64) (partner : W64) : exec (.ptnMirror h entry valid addr len partner) s = execPtnMirror h entry valid addr len partner s := rfl
@[simp] theorem exec_ptnTakeover (h : Issuer) : exec (.ptnTakeover h) s = execPtnTakeover h s := rfl
@[simp] theorem exec_ptnStandDown (h : Issuer) : exec (.ptnStandDown h) s = execPtnStandDown h s := rfl
@[simp] theorem exec_ptnRelease (h : Issuer) : exec (.ptnRelease h) s = execPtnRelease h s := rfl
@[simp] theorem exec_ptnAdmit (h : Issuer) : exec (.ptnAdmit h) s = execPtnAdmit h s := rfl
@[simp] theorem exec_regRead (p : MPort) (seq : Byte) (off : W32) : exec (.regRead p seq off) s = execRegRead p seq off s := rfl
@[simp] theorem exec_regWrite (p : MPort) (seq : Byte) (off : W32) (wide : Bool) (v : W64) : exec (.regWrite p seq off wide v) s = execRegWrite p seq off wide v s := rfl
@[simp] theorem exec_telemetry (p : MPort) (seq : Byte) (item : Byte) (index : BitVec 16) (clear : Bool) : exec (.telemetry p seq item index clear) s = execTelemetry p seq item index clear s := rfl
@[simp] theorem exec_logRead (p : MPort) (seq : Byte) (device : Bool) (first : W64) : exec (.logRead p seq device first) s = execLogRead p seq device first s := rfl
@[simp] theorem exec_mgmtSetLimits (p : MPort) (seq : Byte) (pairs : List (BitVec 16 × W32)) : exec (.mgmtSetLimits p seq pairs) s = execMgmtSetLimits p seq pairs s := rfl
@[simp] theorem exec_slotWrite (p : MPort) (seq : Byte) (slotB : Bool) (last : Bool) (off : BitVec 26) (bytes : List Byte) : exec (.slotWrite p seq slotB last off bytes) s = execSlotWrite p seq slotB last off bytes s := rfl
@[simp] theorem exec_slotOwnershipTimeout (slot : Nat) : exec (.slotOwnershipTimeout slot) s = execSlotOwnershipTimeout slot s := rfl
@[simp] theorem exec_configSet (p : MPort) (seq : Byte) (port : BitVec 2) (split : Byte) : exec (.configSet p seq port split) s = execConfigSet p seq port split s := rfl
@[simp] theorem exec_ownerProvision (p : MPort) (seq : Byte) (slot : Byte) (hash : BitVec 256) (fuseOk : Bool) : exec (.ownerProvision p seq slot hash fuseOk) s = execOwnerProvision p seq slot hash fuseOk s := rfl
@[simp] theorem exec_ownerRevoke (p : MPort) (seq : Byte) (slot : Byte) (fuseOk : Bool) : exec (.ownerRevoke p seq slot fuseOk) s = execOwnerRevoke p seq slot fuseOk s := rfl
@[simp] theorem exec_policySet (p : MPort) (seq : Byte) (fusedOff : Bool) (bbkOff : Bool) (fuseOk : Bool) : exec (.policySet p seq fusedOff bbkOff fuseOk) s = execPolicySet p seq fusedOff bbkOff fuseOk s := rfl
@[simp] theorem exec_keyWrite (p : MPort) (seq : Byte) (cipher : List Byte) : exec (.keyWrite p seq cipher) s = execKeyWrite p seq cipher s := rfl
@[simp] theorem exec_keyErase (p : MPort) (seq : Byte) : exec (.keyErase p seq) s = execKeyErase p seq s := rfl
@[simp] theorem exec_rollbackAdvance (p : MPort) (seq : Byte) (cls : Byte) (value : Byte) (fuseOk : Bool) : exec (.rollbackAdvance p seq cls value fuseOk) s = execRollbackAdvance p seq cls value fuseOk s := rfl
@[simp] theorem exec_fwStage (p : MPort) (seq : Byte) (steward : Bool) (last : Bool) (off : BitVec 26) (bytes : List Byte) : exec (.fwStage p seq steward last off bytes) s = execFwStage p seq steward last off bytes s := rfl
@[simp] theorem exec_fwActivate (p : MPort) (seq : Byte) (steward : Bool) : exec (.fwActivate p seq steward) s = execFwActivate p seq steward s := rfl
@[simp] theorem exec_fwCommit (steward : Bool) : exec (.fwCommit steward) s = execFwCommit steward s := rfl
@[simp] theorem exec_fwReverted (steward : Bool) : exec (.fwReverted steward) s = execFwReverted steward s := rfl
@[simp] theorem exec_attest (p : MPort) (seq : Byte) (nonce : List Byte) (mask : Byte) : exec (.attest p seq nonce mask) s = execAttest p seq nonce mask s := rfl
@[simp] theorem exec_keeperRestart : exec (.keeperRestart) s = execKeeperRestart s := rfl
@[simp] theorem exec_tamper (vbatLoss : Bool) (asserted : Bool) : exec (.tamper vbatLoss asserted) s = execTamper vbatLoss asserted s := rfl
@[simp] theorem exec_getVersion (port : Nat) (req : List Byte) : exec (.getVersion port req) s = execGetVersion port req s := rfl
@[simp] theorem exec_getCapabilities (port : Nat) (req : List Byte) : exec (.getCapabilities port req) s = execGetCapabilities port req s := rfl
@[simp] theorem exec_negotiateAlgorithms (port : Nat) (req : List Byte) : exec (.negotiateAlgorithms port req) s = execNegotiateAlgorithms port req s := rfl
@[simp] theorem exec_getDigests (port : Nat) (req : List Byte) : exec (.getDigests port req) s = execGetDigests port req s := rfl
@[simp] theorem exec_getCertificate (port : Nat) (slot : BitVec 4) (off : BitVec 16) (len : BitVec 16) : exec (.getCertificate port slot off len) s = execGetCertificate port slot off len s := rfl
@[simp] theorem exec_challenge (port : Nat) (slot : BitVec 4) (nonce : List Byte) : exec (.challenge port slot nonce) s = execChallenge port slot nonce s := rfl
@[simp] theorem exec_getMeasurements (port : Nat) (index : Byte) (nonce : List Byte) : exec (.getMeasurements port index nonce) s = execGetMeasurements port index nonce s := rfl
@[simp] theorem exec_keyExchange (port : Nat) (slot : BitVec 4) (req : List Byte) : exec (.keyExchange port slot req) s = execKeyExchange port slot req s := rfl
@[simp] theorem exec_finish (port : Nat) (req : List Byte) : exec (.finish port req) s = execFinish port req s := rfl
@[simp] theorem exec_endSession (port : Nat) : exec (.endSession port) s = execEndSession port s := rfl
@[simp] theorem exec_entdaa (addr : BitVec 7) : exec (.entdaa addr) s = execEntdaa addr s := rfl
@[simp] theorem exec_rstdaa : exec (.rstdaa) s = execRstdaa s := rfl
@[simp] theorem exec_enec (events : Byte) : exec (.enec events) s = execEnec events s := rfl
@[simp] theorem exec_disec (events : Byte) : exec (.disec events) s = execDisec events s := rfl
@[simp] theorem exec_getpid : exec (.getpid) s = execGetpid s := rfl
@[simp] theorem exec_getbcr : exec (.getbcr) s = execGetbcr s := rfl
@[simp] theorem exec_getdcr : exec (.getdcr) s = execGetdcr s := rfl
@[simp] theorem exec_getstatus : exec (.getstatus) s = execGetstatus s := rfl
@[simp] theorem exec_getmwl : exec (.getmwl) s = execGetmwl s := rfl
@[simp] theorem exec_getmrl : exec (.getmrl) s = execGetmrl s := rfl
@[simp] theorem exec_setmwl (n : BitVec 16) : exec (.setmwl n) s = execSetmwl n s := rfl
@[simp] theorem exec_setmrl (n : BitVec 16) : exec (.setmrl n) s = execSetmrl n s := rfl
@[simp] theorem exec_idcode : exec (.idcode) s = execIdcode s := rfl
@[simp] theorem exec_samplePreload (pads : BitVec 1152) (shift : BitVec 1152) : exec (.samplePreload pads shift) s = execSamplePreload pads shift s := rfl
@[simp] theorem exec_extest (pads : BitVec 1152) (shift : BitVec 1152) : exec (.extest pads shift) s = execExtest pads shift s := rfl
@[simp] theorem exec_clamp : exec (.clamp) s = execClamp s := rfl
@[simp] theorem exec_highz : exec (.highz) s = execHighz s := rfl
@[simp] theorem exec_ijtag (x : Instrument) : exec (.ijtag x) s = execIjtag x s := rfl
@[simp] theorem exec_bypass : exec (.bypass) s = execBypass s := rfl
@[simp] theorem exec_testLogicReset : exec (.testLogicReset) s = execTestLogicReset s := rfl
@[simp] theorem exec_phyTrained (die : Nat) (ok : Bool) : exec (.phyTrained die ok) s = execPhyTrained die ok s := rfl
@[simp] theorem exec_uncorrectableCodeword (die : Nat) (lanes : List Nat) : exec (.uncorrectableCodeword die lanes) s = execUncorrectableCodeword die lanes s := rfl
@[simp] theorem exec_lackCred (die : Nat) (lack : BitVec 16) (cred : BitVec 32) : exec (.lackCred die lack cred) s = execLackCred die lack cred s := rfl
@[simp] theorem exec_voltageSettled (domain : Nat) : exec (.voltageSettled domain) s = execVoltageSettled domain s := rfl
@[simp] theorem exec_vioSupplyReturned (bank : Nat) : exec (.vioSupplyReturned bank) s = execVioSupplyReturned bank s := rfl
@[simp] theorem exec_retrainingPieceEnds (stack : Nat) (pc : Nat) (done : Bool) (marginOk : Bool) : exec (.retrainingPieceEnds stack pc done marginOk) s = execRetrainingPieceEnds stack pc done marginOk s := rfl

end Sys2Proof.Machine
end

