-- ==== Sys2Proof/Laws/Maps.lean ====
section
/-! SUPPORT. The laws of indexed groups: what a read gives after a write, and that every operation keeps the canonical
form. Every statement about a group of the state, and about its memories, rests on these. -/

namespace Sys2Proof.Machine

variable {α : Type}

@[simp] theorem Map.get_nil (d : α) (k : Nat) : Map.get ([] : Map α) d k = d := rfl

theorem Map.get_filter (m : Map α) (d : α) (p : Nat → Bool) (k : Nat) :
    Map.get (m.filter (fun e => p e.1)) d k = if p k then Map.get m d k else d := by
  induction m with
  | nil => simp [Map.get]
  | cons e r ih =>
    obtain ⟨j, v⟩ := e
    by_cases hj : p j <;> by_cases hk : j = k
    · subst hk; simp [hj, Map.get]
    · simp [hj, Map.get, hk, ih]
    · subst hk; simp [hj, ih]
    · simp [hj, Map.get, hk, ih]

theorem Map.get_erase (m : Map α) (d : α) (k j : Nat) :
    Map.get (Map.erase m k) d j = if j = k then d else Map.get m d j := by
  have h := Map.get_filter m d (fun i => i != k) j
  unfold Map.erase
  rw [h]
  by_cases hj : j = k <;> simp [hj]

theorem Map.get_drop (m : Map α) (d : α) (p : Nat → Bool) (k : Nat) :
    Map.get (Map.drop m p) d k = if p k then d else Map.get m d k := by
  have h := Map.get_filter m d (fun i => !p i) k
  unfold Map.drop
  rw [h]
  by_cases hk : p k <;> simp [hk]

theorem Map.get_ins (m : Map α) (d : α) (k j : Nat) (v : α) (hk : ∀ e ∈ m, e.1 ≠ k) :
    Map.get (Map.ins m k v) d j = if j = k then v else Map.get m d j := by
  induction m with
  | nil => by_cases h : k = j <;> simp [Map.ins, Map.get, h, eq_comm]
  | cons e r ih =>
    obtain ⟨i, w⟩ := e
    have hi : i ≠ k := hk (i, w) (by simp)
    have hr : ∀ e ∈ r, e.1 ≠ k := fun e he => hk e (by simp [he])
    by_cases hlt : k < i
    · by_cases hj : k = j
      · subst hj; simp [Map.ins, hlt, Map.get]
      · simp [Map.ins, hlt, Map.get, hj, eq_comm]
    · by_cases hj : i = j
      · subst hj; simp [Map.ins, hlt, Map.get, hi]
      · simp [Map.ins, hlt, Map.get, hj, ih hr]

/-- A read after a write: the value written at its index, the old one everywhere else. -/
theorem Map.get_set [DecidableEq α] (m : Map α) (d : α) (k j : Nat) (v : α) :
    Map.get (Map.set m d k v) d j = if j = k then v else Map.get m d j := by
  unfold Map.set
  split
  · next h => subst h; exact Map.get_erase m v k j
  · rw [Map.get_ins _ _ _ _ _ (by simp [Map.erase])]
    by_cases hj : j = k
    · simp [hj]
    · simp [hj, Map.get_erase]

@[simp] theorem Map.get_set_self [DecidableEq α] (m : Map α) (d : α) (k : Nat) (v : α) :
    Map.get (Map.set m d k v) d k = v := by simp [Map.get_set]

@[simp] theorem Map.get_set_ne [DecidableEq α] (m : Map α) (d : α) {k j : Nat} (v : α) (h : j ≠ k) :
    Map.get (Map.set m d k v) d j = Map.get m d j := by simp [Map.get_set, h]

theorem Map.get_append_left (l r : Map α) (d : α) (k : Nat) (h : ∀ e ∈ l, e.1 ≠ k) :
    Map.get (l ++ r) d k = Map.get r d k := by
  induction l with
  | nil => rfl
  | cons e t ih =>
    have he : e.1 ≠ k := h e (by simp)
    simp [Map.get, he, ih (fun e he => h e (by simp [he]))]

theorem Map.get_append_right (l r : Map α) (d : α) (k : Nat) (h : ∀ e ∈ r, e.1 ≠ k) :
    Map.get (l ++ r) d k = Map.get l d k := by
  induction l with
  | nil =>
    induction r with
    | nil => rfl
    | cons e t ih =>
      have he : e.1 ≠ k := h e (by simp)
      have := ih (fun e he => h e (by simp [he]))
      simp only [List.nil_append] at this ⊢
      simpa [Map.get, he] using this
  | cons e t ih => simp only [List.cons_append, Map.get]; split <;> simp_all

/-- The list of a range's values with their indices, default values left out, read at one index. -/
theorem Map.get_zipIdx [DecidableEq α] (d : α) (k : Nat) (vs : List α) (j : Nat) :
    Map.get (((vs.zipIdx k).filter (fun p => p.1 != d)).map (fun p => (p.2, p.1))) d j
      = if k ≤ j ∧ j < k + vs.length then vs.getD (j - k) d else d := by
  induction vs generalizing k with
  | nil => simp
  | cons v r ih =>
    rw [List.zipIdx_cons]
    by_cases hv : v = d
    · rw [List.filter_cons_of_neg (by simpa using hv), ih (k + 1)]
      by_cases hj : j = k
      · subst hj; simp [hv]
      · by_cases h1 : k + 1 ≤ j ∧ j < k + 1 + r.length
        · have e : j - k = (j - (k + 1)) + 1 := by omega
          rw [if_pos h1, if_pos (by simp; omega), e, List.getD_cons_succ]
        · rw [if_neg h1, if_neg (by simp; omega)]
    · rw [List.filter_cons_of_pos (by simpa using hv), List.map_cons]
      simp only [Map.get]
      by_cases hj : k = j
      · subst hj; simp
      · rw [if_neg hj, ih (k + 1)]
        by_cases h1 : k + 1 ≤ j ∧ j < k + 1 + r.length
        · have e : j - k = (j - (k + 1)) + 1 := by omega
          rw [if_pos h1, if_pos (by simp; omega), e, List.getD_cons_succ]
        · rw [if_neg h1, if_neg (by simp; omega)]

/-- A read after a write of a range: the values written inside it, the old ones everywhere else. -/
theorem Map.get_setAll [DecidableEq α] (m : Map α) (d : α) (k : Nat) (vs : List α) (j : Nat) :
    Map.get (Map.setAll m d k vs) d j
      = if k ≤ j ∧ j < k + vs.length then vs.getD (j - k) d else Map.get m d j := by
  unfold Map.setAll
  by_cases h1 : j < k
  · rw [Map.get_append_right _ _ _ _ (by intro e he; simp at he; omega),
      Map.get_append_right _ _ _ _ (by
        intro e he; simp only [List.mem_map, List.mem_filter] at he
        obtain ⟨p, ⟨hp, -⟩, rfl⟩ := he
        have := List.le_snd_of_mem_zipIdx hp
        simp; omega)]
    have h := Map.get_filter m d (fun i => decide (i < k)) j
    rw [h]; simp [h1]
  · by_cases h2 : j < k + vs.length
    · rw [if_pos ⟨by omega, h2⟩, Map.get_append_right _ _ _ _ (by intro e he; simp at he; omega),
        Map.get_append_left _ _ _ _ (by intro e he; simp at he; omega), Map.get_zipIdx,
        if_pos ⟨by omega, h2⟩]
    · rw [if_neg (by omega), Map.get_append_left _ _ _ _ (by
        intro e he; simp only [List.mem_append, List.mem_map, List.mem_filter] at he
        rcases he with ⟨-, he⟩ | ⟨p, ⟨hp, -⟩, rfl⟩
        · simp at he; omega
        · have := List.snd_lt_of_mem_zipIdx hp
          simp; omega)]
      have h := Map.get_filter m d (fun i => decide (k + vs.length ≤ i)) j
      rw [h]; simp; omega

/-! ## The canonical form -/

/-- The canonical form as a statement about lists: indices strictly rising, the reset value never listed. -/
theorem Map.wf_iff [DecidableEq α] (m : Map α) (d : α) :
    Map.wf m d = true ↔ m.Pairwise (fun a b => a.1 < b.1) ∧ ∀ e ∈ m, e.2 ≠ d := by
  induction m with
  | nil => simp [Map.wf]
  | cons e r ih =>
    obtain ⟨j, v⟩ := e
    simp only [Map.wf, Bool.and_eq_true, ih, List.pairwise_cons, List.all_eq_true, decide_eq_true_eq, bne_iff_ne,
      List.forall_mem_cons]
    tauto

@[simp] theorem Map.wf_nil [DecidableEq α] (d : α) : Map.wf ([] : Map α) d = true := rfl

theorem Map.wf_filter [DecidableEq α] {m : Map α} {d : α} (p : Nat × α → Bool) (h : Map.wf m d) :
    Map.wf (m.filter p) d := by
  rw [Map.wf_iff] at h ⊢
  exact ⟨h.1.filter _, fun e he => h.2 e (List.mem_filter.1 he).1⟩

theorem Map.wf_erase [DecidableEq α] {m : Map α} {d : α} (k : Nat) (h : Map.wf m d) : Map.wf (Map.erase m k) d :=
  Map.wf_filter _ h

theorem Map.wf_drop [DecidableEq α] {m : Map α} {d : α} (p : Nat → Bool) (h : Map.wf m d) : Map.wf (Map.drop m p) d :=
  Map.wf_filter _ h

theorem Map.mem_ins (m : Map α) (k : Nat) (v : α) (e : Nat × α) : e ∈ Map.ins m k v ↔ e = (k, v) ∨ e ∈ m := by
  induction m with
  | nil => simp [Map.ins]
  | cons a r ih => obtain ⟨j, w⟩ := a; simp only [Map.ins]; split <;> simp [ih]; tauto

theorem Map.wf_ins [DecidableEq α] {m : Map α} {d : α} (k : Nat) (v : α) (h : Map.wf m d) (hv : v ≠ d)
    (hk : ∀ e ∈ m, e.1 ≠ k) : Map.wf (Map.ins m k v) d := by
  induction m with
  | nil => simp [Map.ins, Map.wf, hv]
  | cons a r ih =>
    obtain ⟨j, w⟩ := a
    rw [Map.wf_iff] at h
    obtain ⟨h1, h2⟩ := h
    rw [List.pairwise_cons] at h1
    have hj : j ≠ k := hk (j, w) (by simp)
    simp only [Map.ins]
    split
    · next hlt =>
      rw [Map.wf_iff]
      refine ⟨?_, ?_⟩
      · rw [List.pairwise_cons, List.pairwise_cons]
        refine ⟨?_, h1⟩
        intro e he
        rcases List.mem_cons.1 he with rfl | he
        · exact hlt
        · exact lt_trans hlt (h1.1 e he)
      · intro e he
        rcases List.mem_cons.1 he with rfl | he
        · exact hv
        · exact h2 e he
    · next hge =>
      have hr : Map.wf r d := (Map.wf_iff r d).2 ⟨h1.2, fun e he => h2 e (by simp [he])⟩
      have ih := (Map.wf_iff _ d).1 (ih hr (fun e he => hk e (by simp [he])))
      rw [Map.wf_iff]
      refine ⟨?_, ?_⟩
      · rw [List.pairwise_cons]
        refine ⟨?_, ih.1⟩
        intro e he
        rcases (Map.mem_ins r k v e).1 he with rfl | he
        · show j < k; omega
        · exact h1.1 e he
      · intro e he
        rcases List.mem_cons.1 he with rfl | he
        · exact h2 _ (by simp)
        · exact ih.2 e he

theorem Map.wf_set [DecidableEq α] {m : Map α} {d : α} (k : Nat) (v : α) (h : Map.wf m d) :
    Map.wf (Map.set m d k v) d := by
  unfold Map.set
  split
  · exact Map.wf_erase k h
  · next hv => exact Map.wf_ins k v (Map.wf_erase k h) hv (by simp [Map.erase])

theorem Map.wf_setAll [DecidableEq α] {m : Map α} {d : α} (k : Nat) (vs : List α) (h : Map.wf m d) :
    Map.wf (Map.setAll m d k vs) d := by
  rw [Map.wf_iff] at h ⊢
  unfold Map.setAll
  refine ⟨?_, ?_⟩
  · rw [List.pairwise_append, List.pairwise_append]
    refine ⟨⟨h.1.filter _, ?_, ?_⟩, h.1.filter _, ?_⟩
    · rw [List.pairwise_map]
      refine List.Pairwise.filter _ ?_
      clear h
      induction vs generalizing k with
      | nil => simp
      | cons v r ih =>
        rw [List.zipIdx_cons, List.pairwise_cons]
        refine ⟨?_, ih (k + 1)⟩
        intro e he
        have := List.le_snd_of_mem_zipIdx he
        simp; omega
    · intro a ha b hb
      simp only [List.mem_filter, List.mem_map, decide_eq_true_eq] at ha hb
      obtain ⟨p, ⟨hp, -⟩, rfl⟩ := hb
      have := List.le_snd_of_mem_zipIdx hp
      simp; omega
    · intro a ha b hb
      simp only [List.mem_append, List.mem_filter, List.mem_map, decide_eq_true_eq] at ha hb
      rcases ha with ha | ⟨p, ⟨hp, -⟩, rfl⟩
      · omega
      · have := List.snd_lt_of_mem_zipIdx hp
        simp; omega
  · intro e he
    simp only [List.mem_append, List.mem_filter, List.mem_map] at he
    rcases he with (⟨he, -⟩ | ⟨p, ⟨-, hp⟩, rfl⟩) | ⟨he, -⟩
    · exact h.2 e he
    · simpa using hp
    · exact h.2 e he

/-! ## Sets of indices -/

theorem mem_addIdx (l : List Nat) (k j : Nat) : j ∈ addIdx l k ↔ j = k ∨ j ∈ l := by
  induction l with
  | nil => simp [addIdx]
  | cons a r ih =>
    simp only [addIdx]
    split
    · simp
    · split
      · next h => subst h; simp
      · simp [ih]; tauto

theorem mem_remIdx (l : List Nat) (k j : Nat) : j ∈ remIdx l k ↔ j ∈ l ∧ j ≠ k := by simp [remIdx]

theorem mem_putIdx (l : List Nat) (k j : Nat) (b : Bool) : j ∈ putIdx l k b ↔ if j = k then b = true else j ∈ l := by
  unfold putIdx
  split
  · next h => subst h; rw [mem_addIdx]; split <;> simp_all
  · next h => rw [mem_remIdx]; split <;> simp_all

end Sys2Proof.Machine
end

