-- ==== Sys2Proof/Laws/State.lean ====
section
/-! SUPPORT. What each update of the state leaves: one lemma per field per update, all true by rfl, and what a group reads
after its own update. -/

namespace Sys2Proof.Machine

namespace State

variable (s : State)

/-! ## setEn -/

@[simp] theorem setEn_pending (e : Nat) (v : Ens) : (s.setEn e v).pending = s.pending := rfl
@[simp] theorem setEn_variant (e : Nat) (v : Ens) : (s.setEn e v).variant = s.variant := rfl
@[simp] theorem setEn_free (e : Nat) (v : Ens) : (s.setEn e v).free = s.free := rfl
@[simp] theorem setEn_ltc (e : Nat) (v : Ens) : (s.setEn e v).ltc = s.ltc := rfl
@[simp] theorem setEn_fresh (e : Nat) (v : Ens) : (s.setEn e v).fresh = s.fresh := rfl
@[simp] theorem setEn_beats (e : Nat) (v : Ens) : (s.setEn e v).beats = s.beats := rfl
@[simp] theorem setEn_ens (e : Nat) (v : Ens) : (s.setEn e v).ens = s.ens.set {} e v := rfl
@[simp] theorem setEn_banks (e : Nat) (v : Ens) : (s.setEn e v).banks = s.banks := rfl
@[simp] theorem setEn_lastBank (e : Nat) (v : Ens) : (s.setEn e v).lastBank = s.lastBank := rfl
@[simp] theorem setEn_tiles (e : Nat) (v : Ens) : (s.setEn e v).tiles = s.tiles := rfl
@[simp] theorem setEn_tstore (e : Nat) (v : Ens) : (s.setEn e v).tstore = s.tstore := rfl
@[simp] theorem setEn_tpoison (e : Nat) (v : Ens) : (s.setEn e v).tpoison = s.tpoison := rfl
@[simp] theorem setEn_tfixed (e : Nat) (v : Ens) : (s.setEn e v).tfixed = s.tfixed := rfl
@[simp] theorem setEn_tserv (e : Nat) (v : Ens) : (s.setEn e v).tserv = s.tserv := rfl
@[simp] theorem setEn_sserv (e : Nat) (v : Ens) : (s.setEn e v).sserv = s.sserv := rfl
@[simp] theorem setEn_tspares (e : Nat) (v : Ens) : (s.setEn e v).tspares = s.tspares := rfl
@[simp] theorem setEn_sspares (e : Nat) (v : Ens) : (s.setEn e v).sspares = s.sspares := rfl
@[simp] theorem setEn_ses (e : Nat) (v : Ens) : (s.setEn e v).ses = s.ses := rfl
@[simp] theorem setEn_sync (e : Nat) (v : Ens) : (s.setEn e v).sync = s.sync := rfl
@[simp] theorem setEn_remote (e : Nat) (v : Ens) : (s.setEn e v).remote = s.remote := rfl
@[simp] theorem setEn_mses (e : Nat) (v : Ens) : (s.setEn e v).mses = s.mses := rfl
@[simp] theorem setEn_clusters (e : Nat) (v : Ens) : (s.setEn e v).clusters = s.clusters := rfl
@[simp] theorem setEn_hbm (e : Nat) (v : Ens) : (s.setEn e v).hbm = s.hbm := rfl
@[simp] theorem setEn_hpoison (e : Nat) (v : Ens) : (s.setEn e v).hpoison = s.hpoison := rfl
@[simp] theorem setEn_hfixed (e : Nat) (v : Ens) : (s.setEn e v).hfixed = s.hfixed := rfl
@[simp] theorem setEn_herr (e : Nat) (v : Ens) : (s.setEn e v).herr = s.herr := rfl
@[simp] theorem setEn_terr (e : Nat) (v : Ens) : (s.setEn e v).terr = s.terr := rfl
@[simp] theorem setEn_pcs (e : Nat) (v : Ens) : (s.setEn e v).pcs = s.pcs := rfl
@[simp] theorem setEn_hstack (e : Nat) (v : Ens) : (s.setEn e v).hstack = s.hstack := rfl
@[simp] theorem setEn_tlbs (e : Nat) (v : Ens) : (s.setEn e v).tlbs = s.tlbs := rfl
@[simp] theorem setEn_walkers (e : Nat) (v : Ens) : (s.setEn e v).walkers = s.walkers := rfl
@[simp] theorem setEn_net (e : Nat) (v : Ens) : (s.setEn e v).net = s.net := rfl
@[simp] theorem setEn_era (e : Nat) (v : Ens) : (s.setEn e v).era = s.era := rfl
@[simp] theorem setEn_memRegion (e : Nat) (v : Ens) : (s.setEn e v).memRegion = s.memRegion := rfl
@[simp] theorem setEn_memRej (e : Nat) (v : Ens) : (s.setEn e v).memRej = s.memRej := rfl
@[simp] theorem setEn_astBase (e : Nat) (v : Ens) : (s.setEn e v).astBase = s.astBase := rfl
@[simp] theorem setEn_astRej (e : Nat) (v : Ens) : (s.setEn e v).astRej = s.astRej := rfl
@[simp] theorem setEn_sample (e : Nat) (v : Ens) : (s.setEn e v).sample = s.sample := rfl
@[simp] theorem setEn_windows (e : Nat) (v : Ens) : (s.setEn e v).windows = s.windows := rfl
@[simp] theorem setEn_counts (e : Nat) (v : Ens) : (s.setEn e v).counts = s.counts := rfl
@[simp] theorem setEn_snapshot (e : Nat) (v : Ens) : (s.setEn e v).snapshot = s.snapshot := rfl
@[simp] theorem setEn_snapWin (e : Nat) (v : Ens) : (s.setEn e v).snapWin = s.snapWin := rfl
@[simp] theorem setEn_waits (e : Nat) (v : Ens) : (s.setEn e v).waits = s.waits := rfl
@[simp] theorem setEn_slotWaits (e : Nat) (v : Ens) : (s.setEn e v).slotWaits = s.slotWaits := rfl
@[simp] theorem setEn_resends (e : Nat) (v : Ens) : (s.setEn e v).resends = s.resends := rfl
@[simp] theorem setEn_winResends (e : Nat) (v : Ens) : (s.setEn e v).winResends = s.winResends := rfl
@[simp] theorem setEn_gws (e : Nat) (v : Ens) : (s.setEn e v).gws = s.gws := rfl
@[simp] theorem setEn_dsps (e : Nat) (v : Ens) : (s.setEn e v).dsps = s.dsps := rfl
@[simp] theorem setEn_fclkRej (e : Nat) (v : Ens) : (s.setEn e v).fclkRej = s.fclkRej := rfl
@[simp] theorem setEn_regions (e : Nat) (v : Ens) : (s.setEn e v).regions = s.regions := rfl
@[simp] theorem setEn_bram (e : Nat) (v : Ens) : (s.setEn e v).bram = s.bram := rfl
@[simp] theorem setEn_flops (e : Nat) (v : Ens) : (s.setEn e v).flops = s.flops := rfl
@[simp] theorem setEn_logic (e : Nat) (v : Ens) : (s.setEn e v).logic = s.logic := rfl
@[simp] theorem setEn_loader (e : Nat) (v : Ens) : (s.setEn e v).loader = s.loader := rfl
@[simp] theorem setEn_health (e : Nat) (v : Ens) : (s.setEn e v).health = s.health := rfl
@[simp] theorem setEn_rst (e : Nat) (v : Ens) : (s.setEn e v).rst = s.rst := rfl
@[simp] theorem setEn_gov (e : Nat) (v : Ens) : (s.setEn e v).gov = s.gov := rfl
@[simp] theorem setEn_pins (e : Nat) (v : Ens) : (s.setEn e v).pins = s.pins := rfl
@[simp] theorem setEn_keeper (e : Nat) (v : Ens) : (s.setEn e v).keeper = s.keeper := rfl
@[simp] theorem setEn_sec (e : Nat) (v : Ens) : (s.setEn e v).sec = s.sec := rfl
@[simp] theorem setEn_dbg (e : Nat) (v : Ens) : (s.setEn e v).dbg = s.dbg := rfl
@[simp] theorem setEn_fns (e : Nat) (v : Ens) : (s.setEn e v).fns = s.fns := rfl
@[simp] theorem setEn_ports (e : Nat) (v : Ens) : (s.setEn e v).ports = s.ports := rfl
@[simp] theorem setEn_chans (e : Nat) (v : Ens) : (s.setEn e v).chans = s.chans := rfl
@[simp] theorem setEn_cacheLru (e : Nat) (v : Ens) : (s.setEn e v).cacheLru = s.cacheLru := rfl
@[simp] theorem setEn_mapWaits (e : Nat) (v : Ens) : (s.setEn e v).mapWaits = s.mapWaits := rfl
@[simp] theorem setEn_hostMem (e : Nat) (v : Ens) : (s.setEn e v).hostMem = s.hostMem := rfl
@[simp] theorem setEn_hostLost (e : Nat) (v : Ens) : (s.setEn e v).hostLost = s.hostLost := rfl
@[simp] theorem setEn_msix (e : Nat) (v : Ens) : (s.setEn e v).msix = s.msix := rfl
@[simp] theorem setEn_devId (e : Nat) (v : Ens) : (s.setEn e v).devId = s.devId := rfl
@[simp] theorem setEn_zegus (e : Nat) (v : Ens) : (s.setEn e v).zegus = s.zegus := rfl
@[simp] theorem setEn_partner (e : Nat) (v : Ens) : (s.setEn e v).partner = s.partner := rfl

/-! ## setBk -/

@[simp] theorem setBk_pending (ub : Nat) (v : Bank) : (s.setBk ub v).pending = s.pending := rfl
@[simp] theorem setBk_variant (ub : Nat) (v : Bank) : (s.setBk ub v).variant = s.variant := rfl
@[simp] theorem setBk_free (ub : Nat) (v : Bank) : (s.setBk ub v).free = s.free := rfl
@[simp] theorem setBk_ltc (ub : Nat) (v : Bank) : (s.setBk ub v).ltc = s.ltc := rfl
@[simp] theorem setBk_fresh (ub : Nat) (v : Bank) : (s.setBk ub v).fresh = s.fresh := rfl
@[simp] theorem setBk_beats (ub : Nat) (v : Bank) : (s.setBk ub v).beats = s.beats := rfl
@[simp] theorem setBk_ens (ub : Nat) (v : Bank) : (s.setBk ub v).ens = s.ens := rfl
@[simp] theorem setBk_banks (ub : Nat) (v : Bank) : (s.setBk ub v).banks = s.banks.set {} ub v := rfl
@[simp] theorem setBk_lastBank (ub : Nat) (v : Bank) : (s.setBk ub v).lastBank = s.lastBank := rfl
@[simp] theorem setBk_tiles (ub : Nat) (v : Bank) : (s.setBk ub v).tiles = s.tiles := rfl
@[simp] theorem setBk_tstore (ub : Nat) (v : Bank) : (s.setBk ub v).tstore = s.tstore := rfl
@[simp] theorem setBk_tpoison (ub : Nat) (v : Bank) : (s.setBk ub v).tpoison = s.tpoison := rfl
@[simp] theorem setBk_tfixed (ub : Nat) (v : Bank) : (s.setBk ub v).tfixed = s.tfixed := rfl
@[simp] theorem setBk_tserv (ub : Nat) (v : Bank) : (s.setBk ub v).tserv = s.tserv := rfl
@[simp] theorem setBk_sserv (ub : Nat) (v : Bank) : (s.setBk ub v).sserv = s.sserv := rfl
@[simp] theorem setBk_tspares (ub : Nat) (v : Bank) : (s.setBk ub v).tspares = s.tspares := rfl
@[simp] theorem setBk_sspares (ub : Nat) (v : Bank) : (s.setBk ub v).sspares = s.sspares := rfl
@[simp] theorem setBk_ses (ub : Nat) (v : Bank) : (s.setBk ub v).ses = s.ses := rfl
@[simp] theorem setBk_sync (ub : Nat) (v : Bank) : (s.setBk ub v).sync = s.sync := rfl
@[simp] theorem setBk_remote (ub : Nat) (v : Bank) : (s.setBk ub v).remote = s.remote := rfl
@[simp] theorem setBk_mses (ub : Nat) (v : Bank) : (s.setBk ub v).mses = s.mses := rfl
@[simp] theorem setBk_clusters (ub : Nat) (v : Bank) : (s.setBk ub v).clusters = s.clusters := rfl
@[simp] theorem setBk_hbm (ub : Nat) (v : Bank) : (s.setBk ub v).hbm = s.hbm := rfl
@[simp] theorem setBk_hpoison (ub : Nat) (v : Bank) : (s.setBk ub v).hpoison = s.hpoison := rfl
@[simp] theorem setBk_hfixed (ub : Nat) (v : Bank) : (s.setBk ub v).hfixed = s.hfixed := rfl
@[simp] theorem setBk_herr (ub : Nat) (v : Bank) : (s.setBk ub v).herr = s.herr := rfl
@[simp] theorem setBk_terr (ub : Nat) (v : Bank) : (s.setBk ub v).terr = s.terr := rfl
@[simp] theorem setBk_pcs (ub : Nat) (v : Bank) : (s.setBk ub v).pcs = s.pcs := rfl
@[simp] theorem setBk_hstack (ub : Nat) (v : Bank) : (s.setBk ub v).hstack = s.hstack := rfl
@[simp] theorem setBk_tlbs (ub : Nat) (v : Bank) : (s.setBk ub v).tlbs = s.tlbs := rfl
@[simp] theorem setBk_walkers (ub : Nat) (v : Bank) : (s.setBk ub v).walkers = s.walkers := rfl
@[simp] theorem setBk_net (ub : Nat) (v : Bank) : (s.setBk ub v).net = s.net := rfl
@[simp] theorem setBk_era (ub : Nat) (v : Bank) : (s.setBk ub v).era = s.era := rfl
@[simp] theorem setBk_memRegion (ub : Nat) (v : Bank) : (s.setBk ub v).memRegion = s.memRegion := rfl
@[simp] theorem setBk_memRej (ub : Nat) (v : Bank) : (s.setBk ub v).memRej = s.memRej := rfl
@[simp] theorem setBk_astBase (ub : Nat) (v : Bank) : (s.setBk ub v).astBase = s.astBase := rfl
@[simp] theorem setBk_astRej (ub : Nat) (v : Bank) : (s.setBk ub v).astRej = s.astRej := rfl
@[simp] theorem setBk_sample (ub : Nat) (v : Bank) : (s.setBk ub v).sample = s.sample := rfl
@[simp] theorem setBk_windows (ub : Nat) (v : Bank) : (s.setBk ub v).windows = s.windows := rfl
@[simp] theorem setBk_counts (ub : Nat) (v : Bank) : (s.setBk ub v).counts = s.counts := rfl
@[simp] theorem setBk_snapshot (ub : Nat) (v : Bank) : (s.setBk ub v).snapshot = s.snapshot := rfl
@[simp] theorem setBk_snapWin (ub : Nat) (v : Bank) : (s.setBk ub v).snapWin = s.snapWin := rfl
@[simp] theorem setBk_waits (ub : Nat) (v : Bank) : (s.setBk ub v).waits = s.waits := rfl
@[simp] theorem setBk_slotWaits (ub : Nat) (v : Bank) : (s.setBk ub v).slotWaits = s.slotWaits := rfl
@[simp] theorem setBk_resends (ub : Nat) (v : Bank) : (s.setBk ub v).resends = s.resends := rfl
@[simp] theorem setBk_winResends (ub : Nat) (v : Bank) : (s.setBk ub v).winResends = s.winResends := rfl
@[simp] theorem setBk_gws (ub : Nat) (v : Bank) : (s.setBk ub v).gws = s.gws := rfl
@[simp] theorem setBk_dsps (ub : Nat) (v : Bank) : (s.setBk ub v).dsps = s.dsps := rfl
@[simp] theorem setBk_fclkRej (ub : Nat) (v : Bank) : (s.setBk ub v).fclkRej = s.fclkRej := rfl
@[simp] theorem setBk_regions (ub : Nat) (v : Bank) : (s.setBk ub v).regions = s.regions := rfl
@[simp] theorem setBk_bram (ub : Nat) (v : Bank) : (s.setBk ub v).bram = s.bram := rfl
@[simp] theorem setBk_flops (ub : Nat) (v : Bank) : (s.setBk ub v).flops = s.flops := rfl
@[simp] theorem setBk_logic (ub : Nat) (v : Bank) : (s.setBk ub v).logic = s.logic := rfl
@[simp] theorem setBk_loader (ub : Nat) (v : Bank) : (s.setBk ub v).loader = s.loader := rfl
@[simp] theorem setBk_health (ub : Nat) (v : Bank) : (s.setBk ub v).health = s.health := rfl
@[simp] theorem setBk_rst (ub : Nat) (v : Bank) : (s.setBk ub v).rst = s.rst := rfl
@[simp] theorem setBk_gov (ub : Nat) (v : Bank) : (s.setBk ub v).gov = s.gov := rfl
@[simp] theorem setBk_pins (ub : Nat) (v : Bank) : (s.setBk ub v).pins = s.pins := rfl
@[simp] theorem setBk_keeper (ub : Nat) (v : Bank) : (s.setBk ub v).keeper = s.keeper := rfl
@[simp] theorem setBk_sec (ub : Nat) (v : Bank) : (s.setBk ub v).sec = s.sec := rfl
@[simp] theorem setBk_dbg (ub : Nat) (v : Bank) : (s.setBk ub v).dbg = s.dbg := rfl
@[simp] theorem setBk_fns (ub : Nat) (v : Bank) : (s.setBk ub v).fns = s.fns := rfl
@[simp] theorem setBk_ports (ub : Nat) (v : Bank) : (s.setBk ub v).ports = s.ports := rfl
@[simp] theorem setBk_chans (ub : Nat) (v : Bank) : (s.setBk ub v).chans = s.chans := rfl
@[simp] theorem setBk_cacheLru (ub : Nat) (v : Bank) : (s.setBk ub v).cacheLru = s.cacheLru := rfl
@[simp] theorem setBk_mapWaits (ub : Nat) (v : Bank) : (s.setBk ub v).mapWaits = s.mapWaits := rfl
@[simp] theorem setBk_hostMem (ub : Nat) (v : Bank) : (s.setBk ub v).hostMem = s.hostMem := rfl
@[simp] theorem setBk_hostLost (ub : Nat) (v : Bank) : (s.setBk ub v).hostLost = s.hostLost := rfl
@[simp] theorem setBk_msix (ub : Nat) (v : Bank) : (s.setBk ub v).msix = s.msix := rfl
@[simp] theorem setBk_devId (ub : Nat) (v : Bank) : (s.setBk ub v).devId = s.devId := rfl
@[simp] theorem setBk_zegus (ub : Nat) (v : Bank) : (s.setBk ub v).zegus = s.zegus := rfl
@[simp] theorem setBk_partner (ub : Nat) (v : Bank) : (s.setBk ub v).partner = s.partner := rfl

/-! ## setTile -/

@[simp] theorem setTile_pending (n : Nat) (v : Tile) : (s.setTile n v).pending = s.pending := rfl
@[simp] theorem setTile_variant (n : Nat) (v : Tile) : (s.setTile n v).variant = s.variant := rfl
@[simp] theorem setTile_free (n : Nat) (v : Tile) : (s.setTile n v).free = s.free := rfl
@[simp] theorem setTile_ltc (n : Nat) (v : Tile) : (s.setTile n v).ltc = s.ltc := rfl
@[simp] theorem setTile_fresh (n : Nat) (v : Tile) : (s.setTile n v).fresh = s.fresh := rfl
@[simp] theorem setTile_beats (n : Nat) (v : Tile) : (s.setTile n v).beats = s.beats := rfl
@[simp] theorem setTile_ens (n : Nat) (v : Tile) : (s.setTile n v).ens = s.ens := rfl
@[simp] theorem setTile_banks (n : Nat) (v : Tile) : (s.setTile n v).banks = s.banks := rfl
@[simp] theorem setTile_lastBank (n : Nat) (v : Tile) : (s.setTile n v).lastBank = s.lastBank := rfl
@[simp] theorem setTile_tiles (n : Nat) (v : Tile) : (s.setTile n v).tiles = s.tiles.set {} n v := rfl
@[simp] theorem setTile_tstore (n : Nat) (v : Tile) : (s.setTile n v).tstore = s.tstore := rfl
@[simp] theorem setTile_tpoison (n : Nat) (v : Tile) : (s.setTile n v).tpoison = s.tpoison := rfl
@[simp] theorem setTile_tfixed (n : Nat) (v : Tile) : (s.setTile n v).tfixed = s.tfixed := rfl
@[simp] theorem setTile_tserv (n : Nat) (v : Tile) : (s.setTile n v).tserv = s.tserv := rfl
@[simp] theorem setTile_sserv (n : Nat) (v : Tile) : (s.setTile n v).sserv = s.sserv := rfl
@[simp] theorem setTile_tspares (n : Nat) (v : Tile) : (s.setTile n v).tspares = s.tspares := rfl
@[simp] theorem setTile_sspares (n : Nat) (v : Tile) : (s.setTile n v).sspares = s.sspares := rfl
@[simp] theorem setTile_ses (n : Nat) (v : Tile) : (s.setTile n v).ses = s.ses := rfl
@[simp] theorem setTile_sync (n : Nat) (v : Tile) : (s.setTile n v).sync = s.sync := rfl
@[simp] theorem setTile_remote (n : Nat) (v : Tile) : (s.setTile n v).remote = s.remote := rfl
@[simp] theorem setTile_mses (n : Nat) (v : Tile) : (s.setTile n v).mses = s.mses := rfl
@[simp] theorem setTile_clusters (n : Nat) (v : Tile) : (s.setTile n v).clusters = s.clusters := rfl
@[simp] theorem setTile_hbm (n : Nat) (v : Tile) : (s.setTile n v).hbm = s.hbm := rfl
@[simp] theorem setTile_hpoison (n : Nat) (v : Tile) : (s.setTile n v).hpoison = s.hpoison := rfl
@[simp] theorem setTile_hfixed (n : Nat) (v : Tile) : (s.setTile n v).hfixed = s.hfixed := rfl
@[simp] theorem setTile_herr (n : Nat) (v : Tile) : (s.setTile n v).herr = s.herr := rfl
@[simp] theorem setTile_terr (n : Nat) (v : Tile) : (s.setTile n v).terr = s.terr := rfl
@[simp] theorem setTile_pcs (n : Nat) (v : Tile) : (s.setTile n v).pcs = s.pcs := rfl
@[simp] theorem setTile_hstack (n : Nat) (v : Tile) : (s.setTile n v).hstack = s.hstack := rfl
@[simp] theorem setTile_tlbs (n : Nat) (v : Tile) : (s.setTile n v).tlbs = s.tlbs := rfl
@[simp] theorem setTile_walkers (n : Nat) (v : Tile) : (s.setTile n v).walkers = s.walkers := rfl
@[simp] theorem setTile_net (n : Nat) (v : Tile) : (s.setTile n v).net = s.net := rfl
@[simp] theorem setTile_era (n : Nat) (v : Tile) : (s.setTile n v).era = s.era := rfl
@[simp] theorem setTile_memRegion (n : Nat) (v : Tile) : (s.setTile n v).memRegion = s.memRegion := rfl
@[simp] theorem setTile_memRej (n : Nat) (v : Tile) : (s.setTile n v).memRej = s.memRej := rfl
@[simp] theorem setTile_astBase (n : Nat) (v : Tile) : (s.setTile n v).astBase = s.astBase := rfl
@[simp] theorem setTile_astRej (n : Nat) (v : Tile) : (s.setTile n v).astRej = s.astRej := rfl
@[simp] theorem setTile_sample (n : Nat) (v : Tile) : (s.setTile n v).sample = s.sample := rfl
@[simp] theorem setTile_windows (n : Nat) (v : Tile) : (s.setTile n v).windows = s.windows := rfl
@[simp] theorem setTile_counts (n : Nat) (v : Tile) : (s.setTile n v).counts = s.counts := rfl
@[simp] theorem setTile_snapshot (n : Nat) (v : Tile) : (s.setTile n v).snapshot = s.snapshot := rfl
@[simp] theorem setTile_snapWin (n : Nat) (v : Tile) : (s.setTile n v).snapWin = s.snapWin := rfl
@[simp] theorem setTile_waits (n : Nat) (v : Tile) : (s.setTile n v).waits = s.waits := rfl
@[simp] theorem setTile_slotWaits (n : Nat) (v : Tile) : (s.setTile n v).slotWaits = s.slotWaits := rfl
@[simp] theorem setTile_resends (n : Nat) (v : Tile) : (s.setTile n v).resends = s.resends := rfl
@[simp] theorem setTile_winResends (n : Nat) (v : Tile) : (s.setTile n v).winResends = s.winResends := rfl
@[simp] theorem setTile_gws (n : Nat) (v : Tile) : (s.setTile n v).gws = s.gws := rfl
@[simp] theorem setTile_dsps (n : Nat) (v : Tile) : (s.setTile n v).dsps = s.dsps := rfl
@[simp] theorem setTile_fclkRej (n : Nat) (v : Tile) : (s.setTile n v).fclkRej = s.fclkRej := rfl
@[simp] theorem setTile_regions (n : Nat) (v : Tile) : (s.setTile n v).regions = s.regions := rfl
@[simp] theorem setTile_bram (n : Nat) (v : Tile) : (s.setTile n v).bram = s.bram := rfl
@[simp] theorem setTile_flops (n : Nat) (v : Tile) : (s.setTile n v).flops = s.flops := rfl
@[simp] theorem setTile_logic (n : Nat) (v : Tile) : (s.setTile n v).logic = s.logic := rfl
@[simp] theorem setTile_loader (n : Nat) (v : Tile) : (s.setTile n v).loader = s.loader := rfl
@[simp] theorem setTile_health (n : Nat) (v : Tile) : (s.setTile n v).health = s.health := rfl
@[simp] theorem setTile_rst (n : Nat) (v : Tile) : (s.setTile n v).rst = s.rst := rfl
@[simp] theorem setTile_gov (n : Nat) (v : Tile) : (s.setTile n v).gov = s.gov := rfl
@[simp] theorem setTile_pins (n : Nat) (v : Tile) : (s.setTile n v).pins = s.pins := rfl
@[simp] theorem setTile_keeper (n : Nat) (v : Tile) : (s.setTile n v).keeper = s.keeper := rfl
@[simp] theorem setTile_sec (n : Nat) (v : Tile) : (s.setTile n v).sec = s.sec := rfl
@[simp] theorem setTile_dbg (n : Nat) (v : Tile) : (s.setTile n v).dbg = s.dbg := rfl
@[simp] theorem setTile_fns (n : Nat) (v : Tile) : (s.setTile n v).fns = s.fns := rfl
@[simp] theorem setTile_ports (n : Nat) (v : Tile) : (s.setTile n v).ports = s.ports := rfl
@[simp] theorem setTile_chans (n : Nat) (v : Tile) : (s.setTile n v).chans = s.chans := rfl
@[simp] theorem setTile_cacheLru (n : Nat) (v : Tile) : (s.setTile n v).cacheLru = s.cacheLru := rfl
@[simp] theorem setTile_mapWaits (n : Nat) (v : Tile) : (s.setTile n v).mapWaits = s.mapWaits := rfl
@[simp] theorem setTile_hostMem (n : Nat) (v : Tile) : (s.setTile n v).hostMem = s.hostMem := rfl
@[simp] theorem setTile_hostLost (n : Nat) (v : Tile) : (s.setTile n v).hostLost = s.hostLost := rfl
@[simp] theorem setTile_msix (n : Nat) (v : Tile) : (s.setTile n v).msix = s.msix := rfl
@[simp] theorem setTile_devId (n : Nat) (v : Tile) : (s.setTile n v).devId = s.devId := rfl
@[simp] theorem setTile_zegus (n : Nat) (v : Tile) : (s.setTile n v).zegus = s.zegus := rfl
@[simp] theorem setTile_partner (n : Nat) (v : Tile) : (s.setTile n v).partner = s.partner := rfl

/-! ## setSe -/

@[simp] theorem setSe_pending (n : Nat) (v : Se) : (s.setSe n v).pending = s.pending := rfl
@[simp] theorem setSe_variant (n : Nat) (v : Se) : (s.setSe n v).variant = s.variant := rfl
@[simp] theorem setSe_free (n : Nat) (v : Se) : (s.setSe n v).free = s.free := rfl
@[simp] theorem setSe_ltc (n : Nat) (v : Se) : (s.setSe n v).ltc = s.ltc := rfl
@[simp] theorem setSe_fresh (n : Nat) (v : Se) : (s.setSe n v).fresh = s.fresh := rfl
@[simp] theorem setSe_beats (n : Nat) (v : Se) : (s.setSe n v).beats = s.beats := rfl
@[simp] theorem setSe_ens (n : Nat) (v : Se) : (s.setSe n v).ens = s.ens := rfl
@[simp] theorem setSe_banks (n : Nat) (v : Se) : (s.setSe n v).banks = s.banks := rfl
@[simp] theorem setSe_lastBank (n : Nat) (v : Se) : (s.setSe n v).lastBank = s.lastBank := rfl
@[simp] theorem setSe_tiles (n : Nat) (v : Se) : (s.setSe n v).tiles = s.tiles := rfl
@[simp] theorem setSe_tstore (n : Nat) (v : Se) : (s.setSe n v).tstore = s.tstore := rfl
@[simp] theorem setSe_tpoison (n : Nat) (v : Se) : (s.setSe n v).tpoison = s.tpoison := rfl
@[simp] theorem setSe_tfixed (n : Nat) (v : Se) : (s.setSe n v).tfixed = s.tfixed := rfl
@[simp] theorem setSe_tserv (n : Nat) (v : Se) : (s.setSe n v).tserv = s.tserv := rfl
@[simp] theorem setSe_sserv (n : Nat) (v : Se) : (s.setSe n v).sserv = s.sserv := rfl
@[simp] theorem setSe_tspares (n : Nat) (v : Se) : (s.setSe n v).tspares = s.tspares := rfl
@[simp] theorem setSe_sspares (n : Nat) (v : Se) : (s.setSe n v).sspares = s.sspares := rfl
@[simp] theorem setSe_ses (n : Nat) (v : Se) : (s.setSe n v).ses = s.ses.set {} n v := rfl
@[simp] theorem setSe_sync (n : Nat) (v : Se) : (s.setSe n v).sync = s.sync := rfl
@[simp] theorem setSe_remote (n : Nat) (v : Se) : (s.setSe n v).remote = s.remote := rfl
@[simp] theorem setSe_mses (n : Nat) (v : Se) : (s.setSe n v).mses = s.mses := rfl
@[simp] theorem setSe_clusters (n : Nat) (v : Se) : (s.setSe n v).clusters = s.clusters := rfl
@[simp] theorem setSe_hbm (n : Nat) (v : Se) : (s.setSe n v).hbm = s.hbm := rfl
@[simp] theorem setSe_hpoison (n : Nat) (v : Se) : (s.setSe n v).hpoison = s.hpoison := rfl
@[simp] theorem setSe_hfixed (n : Nat) (v : Se) : (s.setSe n v).hfixed = s.hfixed := rfl
@[simp] theorem setSe_herr (n : Nat) (v : Se) : (s.setSe n v).herr = s.herr := rfl
@[simp] theorem setSe_terr (n : Nat) (v : Se) : (s.setSe n v).terr = s.terr := rfl
@[simp] theorem setSe_pcs (n : Nat) (v : Se) : (s.setSe n v).pcs = s.pcs := rfl
@[simp] theorem setSe_hstack (n : Nat) (v : Se) : (s.setSe n v).hstack = s.hstack := rfl
@[simp] theorem setSe_tlbs (n : Nat) (v : Se) : (s.setSe n v).tlbs = s.tlbs := rfl
@[simp] theorem setSe_walkers (n : Nat) (v : Se) : (s.setSe n v).walkers = s.walkers := rfl
@[simp] theorem setSe_net (n : Nat) (v : Se) : (s.setSe n v).net = s.net := rfl
@[simp] theorem setSe_era (n : Nat) (v : Se) : (s.setSe n v).era = s.era := rfl
@[simp] theorem setSe_memRegion (n : Nat) (v : Se) : (s.setSe n v).memRegion = s.memRegion := rfl
@[simp] theorem setSe_memRej (n : Nat) (v : Se) : (s.setSe n v).memRej = s.memRej := rfl
@[simp] theorem setSe_astBase (n : Nat) (v : Se) : (s.setSe n v).astBase = s.astBase := rfl
@[simp] theorem setSe_astRej (n : Nat) (v : Se) : (s.setSe n v).astRej = s.astRej := rfl
@[simp] theorem setSe_sample (n : Nat) (v : Se) : (s.setSe n v).sample = s.sample := rfl
@[simp] theorem setSe_windows (n : Nat) (v : Se) : (s.setSe n v).windows = s.windows := rfl
@[simp] theorem setSe_counts (n : Nat) (v : Se) : (s.setSe n v).counts = s.counts := rfl
@[simp] theorem setSe_snapshot (n : Nat) (v : Se) : (s.setSe n v).snapshot = s.snapshot := rfl
@[simp] theorem setSe_snapWin (n : Nat) (v : Se) : (s.setSe n v).snapWin = s.snapWin := rfl
@[simp] theorem setSe_waits (n : Nat) (v : Se) : (s.setSe n v).waits = s.waits := rfl
@[simp] theorem setSe_slotWaits (n : Nat) (v : Se) : (s.setSe n v).slotWaits = s.slotWaits := rfl
@[simp] theorem setSe_resends (n : Nat) (v : Se) : (s.setSe n v).resends = s.resends := rfl
@[simp] theorem setSe_winResends (n : Nat) (v : Se) : (s.setSe n v).winResends = s.winResends := rfl
@[simp] theorem setSe_gws (n : Nat) (v : Se) : (s.setSe n v).gws = s.gws := rfl
@[simp] theorem setSe_dsps (n : Nat) (v : Se) : (s.setSe n v).dsps = s.dsps := rfl
@[simp] theorem setSe_fclkRej (n : Nat) (v : Se) : (s.setSe n v).fclkRej = s.fclkRej := rfl
@[simp] theorem setSe_regions (n : Nat) (v : Se) : (s.setSe n v).regions = s.regions := rfl
@[simp] theorem setSe_bram (n : Nat) (v : Se) : (s.setSe n v).bram = s.bram := rfl
@[simp] theorem setSe_flops (n : Nat) (v : Se) : (s.setSe n v).flops = s.flops := rfl
@[simp] theorem setSe_logic (n : Nat) (v : Se) : (s.setSe n v).logic = s.logic := rfl
@[simp] theorem setSe_loader (n : Nat) (v : Se) : (s.setSe n v).loader = s.loader := rfl
@[simp] theorem setSe_health (n : Nat) (v : Se) : (s.setSe n v).health = s.health := rfl
@[simp] theorem setSe_rst (n : Nat) (v : Se) : (s.setSe n v).rst = s.rst := rfl
@[simp] theorem setSe_gov (n : Nat) (v : Se) : (s.setSe n v).gov = s.gov := rfl
@[simp] theorem setSe_pins (n : Nat) (v : Se) : (s.setSe n v).pins = s.pins := rfl
@[simp] theorem setSe_keeper (n : Nat) (v : Se) : (s.setSe n v).keeper = s.keeper := rfl
@[simp] theorem setSe_sec (n : Nat) (v : Se) : (s.setSe n v).sec = s.sec := rfl
@[simp] theorem setSe_dbg (n : Nat) (v : Se) : (s.setSe n v).dbg = s.dbg := rfl
@[simp] theorem setSe_fns (n : Nat) (v : Se) : (s.setSe n v).fns = s.fns := rfl
@[simp] theorem setSe_ports (n : Nat) (v : Se) : (s.setSe n v).ports = s.ports := rfl
@[simp] theorem setSe_chans (n : Nat) (v : Se) : (s.setSe n v).chans = s.chans := rfl
@[simp] theorem setSe_cacheLru (n : Nat) (v : Se) : (s.setSe n v).cacheLru = s.cacheLru := rfl
@[simp] theorem setSe_mapWaits (n : Nat) (v : Se) : (s.setSe n v).mapWaits = s.mapWaits := rfl
@[simp] theorem setSe_hostMem (n : Nat) (v : Se) : (s.setSe n v).hostMem = s.hostMem := rfl
@[simp] theorem setSe_hostLost (n : Nat) (v : Se) : (s.setSe n v).hostLost = s.hostLost := rfl
@[simp] theorem setSe_msix (n : Nat) (v : Se) : (s.setSe n v).msix = s.msix := rfl
@[simp] theorem setSe_devId (n : Nat) (v : Se) : (s.setSe n v).devId = s.devId := rfl
@[simp] theorem setSe_zegus (n : Nat) (v : Se) : (s.setSe n v).zegus = s.zegus := rfl
@[simp] theorem setSe_partner (n : Nat) (v : Se) : (s.setSe n v).partner = s.partner := rfl

/-! ## setCtx -/

@[simp] theorem setCtx_pending (n c : Nat) (v : Ctx) : (s.setCtx n c v).pending = s.pending := rfl
@[simp] theorem setCtx_variant (n c : Nat) (v : Ctx) : (s.setCtx n c v).variant = s.variant := rfl
@[simp] theorem setCtx_free (n c : Nat) (v : Ctx) : (s.setCtx n c v).free = s.free := rfl
@[simp] theorem setCtx_ltc (n c : Nat) (v : Ctx) : (s.setCtx n c v).ltc = s.ltc := rfl
@[simp] theorem setCtx_fresh (n c : Nat) (v : Ctx) : (s.setCtx n c v).fresh = s.fresh := rfl
@[simp] theorem setCtx_beats (n c : Nat) (v : Ctx) : (s.setCtx n c v).beats = s.beats := rfl
@[simp] theorem setCtx_ens (n c : Nat) (v : Ctx) : (s.setCtx n c v).ens = s.ens := rfl
@[simp] theorem setCtx_banks (n c : Nat) (v : Ctx) : (s.setCtx n c v).banks = s.banks := rfl
@[simp] theorem setCtx_lastBank (n c : Nat) (v : Ctx) : (s.setCtx n c v).lastBank = s.lastBank := rfl
@[simp] theorem setCtx_tiles (n c : Nat) (v : Ctx) : (s.setCtx n c v).tiles = s.tiles := rfl
@[simp] theorem setCtx_tstore (n c : Nat) (v : Ctx) : (s.setCtx n c v).tstore = s.tstore := rfl
@[simp] theorem setCtx_tpoison (n c : Nat) (v : Ctx) : (s.setCtx n c v).tpoison = s.tpoison := rfl
@[simp] theorem setCtx_tfixed (n c : Nat) (v : Ctx) : (s.setCtx n c v).tfixed = s.tfixed := rfl
@[simp] theorem setCtx_tserv (n c : Nat) (v : Ctx) : (s.setCtx n c v).tserv = s.tserv := rfl
@[simp] theorem setCtx_sserv (n c : Nat) (v : Ctx) : (s.setCtx n c v).sserv = s.sserv := rfl
@[simp] theorem setCtx_tspares (n c : Nat) (v : Ctx) : (s.setCtx n c v).tspares = s.tspares := rfl
@[simp] theorem setCtx_sspares (n c : Nat) (v : Ctx) : (s.setCtx n c v).sspares = s.sspares := rfl
@[simp] theorem setCtx_ses (n c : Nat) (v : Ctx) : (s.setCtx n c v).ses = s.ses.set {} n { s.se n with ctxs := (s.se n).ctxs.set {} c v } := rfl
@[simp] theorem setCtx_sync (n c : Nat) (v : Ctx) : (s.setCtx n c v).sync = s.sync := rfl
@[simp] theorem setCtx_remote (n c : Nat) (v : Ctx) : (s.setCtx n c v).remote = s.remote := rfl
@[simp] theorem setCtx_mses (n c : Nat) (v : Ctx) : (s.setCtx n c v).mses = s.mses := rfl
@[simp] theorem setCtx_clusters (n c : Nat) (v : Ctx) : (s.setCtx n c v).clusters = s.clusters := rfl
@[simp] theorem setCtx_hbm (n c : Nat) (v : Ctx) : (s.setCtx n c v).hbm = s.hbm := rfl
@[simp] theorem setCtx_hpoison (n c : Nat) (v : Ctx) : (s.setCtx n c v).hpoison = s.hpoison := rfl
@[simp] theorem setCtx_hfixed (n c : Nat) (v : Ctx) : (s.setCtx n c v).hfixed = s.hfixed := rfl
@[simp] theorem setCtx_herr (n c : Nat) (v : Ctx) : (s.setCtx n c v).herr = s.herr := rfl
@[simp] theorem setCtx_terr (n c : Nat) (v : Ctx) : (s.setCtx n c v).terr = s.terr := rfl
@[simp] theorem setCtx_pcs (n c : Nat) (v : Ctx) : (s.setCtx n c v).pcs = s.pcs := rfl
@[simp] theorem setCtx_hstack (n c : Nat) (v : Ctx) : (s.setCtx n c v).hstack = s.hstack := rfl
@[simp] theorem setCtx_tlbs (n c : Nat) (v : Ctx) : (s.setCtx n c v).tlbs = s.tlbs := rfl
@[simp] theorem setCtx_walkers (n c : Nat) (v : Ctx) : (s.setCtx n c v).walkers = s.walkers := rfl
@[simp] theorem setCtx_net (n c : Nat) (v : Ctx) : (s.setCtx n c v).net = s.net := rfl
@[simp] theorem setCtx_era (n c : Nat) (v : Ctx) : (s.setCtx n c v).era = s.era := rfl
@[simp] theorem setCtx_memRegion (n c : Nat) (v : Ctx) : (s.setCtx n c v).memRegion = s.memRegion := rfl
@[simp] theorem setCtx_memRej (n c : Nat) (v : Ctx) : (s.setCtx n c v).memRej = s.memRej := rfl
@[simp] theorem setCtx_astBase (n c : Nat) (v : Ctx) : (s.setCtx n c v).astBase = s.astBase := rfl
@[simp] theorem setCtx_astRej (n c : Nat) (v : Ctx) : (s.setCtx n c v).astRej = s.astRej := rfl
@[simp] theorem setCtx_sample (n c : Nat) (v : Ctx) : (s.setCtx n c v).sample = s.sample := rfl
@[simp] theorem setCtx_windows (n c : Nat) (v : Ctx) : (s.setCtx n c v).windows = s.windows := rfl
@[simp] theorem setCtx_counts (n c : Nat) (v : Ctx) : (s.setCtx n c v).counts = s.counts := rfl
@[simp] theorem setCtx_snapshot (n c : Nat) (v : Ctx) : (s.setCtx n c v).snapshot = s.snapshot := rfl
@[simp] theorem setCtx_snapWin (n c : Nat) (v : Ctx) : (s.setCtx n c v).snapWin = s.snapWin := rfl
@[simp] theorem setCtx_waits (n c : Nat) (v : Ctx) : (s.setCtx n c v).waits = s.waits := rfl
@[simp] theorem setCtx_slotWaits (n c : Nat) (v : Ctx) : (s.setCtx n c v).slotWaits = s.slotWaits := rfl
@[simp] theorem setCtx_resends (n c : Nat) (v : Ctx) : (s.setCtx n c v).resends = s.resends := rfl
@[simp] theorem setCtx_winResends (n c : Nat) (v : Ctx) : (s.setCtx n c v).winResends = s.winResends := rfl
@[simp] theorem setCtx_gws (n c : Nat) (v : Ctx) : (s.setCtx n c v).gws = s.gws := rfl
@[simp] theorem setCtx_dsps (n c : Nat) (v : Ctx) : (s.setCtx n c v).dsps = s.dsps := rfl
@[simp] theorem setCtx_fclkRej (n c : Nat) (v : Ctx) : (s.setCtx n c v).fclkRej = s.fclkRej := rfl
@[simp] theorem setCtx_regions (n c : Nat) (v : Ctx) : (s.setCtx n c v).regions = s.regions := rfl
@[simp] theorem setCtx_bram (n c : Nat) (v : Ctx) : (s.setCtx n c v).bram = s.bram := rfl
@[simp] theorem setCtx_flops (n c : Nat) (v : Ctx) : (s.setCtx n c v).flops = s.flops := rfl
@[simp] theorem setCtx_logic (n c : Nat) (v : Ctx) : (s.setCtx n c v).logic = s.logic := rfl
@[simp] theorem setCtx_loader (n c : Nat) (v : Ctx) : (s.setCtx n c v).loader = s.loader := rfl
@[simp] theorem setCtx_health (n c : Nat) (v : Ctx) : (s.setCtx n c v).health = s.health := rfl
@[simp] theorem setCtx_rst (n c : Nat) (v : Ctx) : (s.setCtx n c v).rst = s.rst := rfl
@[simp] theorem setCtx_gov (n c : Nat) (v : Ctx) : (s.setCtx n c v).gov = s.gov := rfl
@[simp] theorem setCtx_pins (n c : Nat) (v : Ctx) : (s.setCtx n c v).pins = s.pins := rfl
@[simp] theorem setCtx_keeper (n c : Nat) (v : Ctx) : (s.setCtx n c v).keeper = s.keeper := rfl
@[simp] theorem setCtx_sec (n c : Nat) (v : Ctx) : (s.setCtx n c v).sec = s.sec := rfl
@[simp] theorem setCtx_dbg (n c : Nat) (v : Ctx) : (s.setCtx n c v).dbg = s.dbg := rfl
@[simp] theorem setCtx_fns (n c : Nat) (v : Ctx) : (s.setCtx n c v).fns = s.fns := rfl
@[simp] theorem setCtx_ports (n c : Nat) (v : Ctx) : (s.setCtx n c v).ports = s.ports := rfl
@[simp] theorem setCtx_chans (n c : Nat) (v : Ctx) : (s.setCtx n c v).chans = s.chans := rfl
@[simp] theorem setCtx_cacheLru (n c : Nat) (v : Ctx) : (s.setCtx n c v).cacheLru = s.cacheLru := rfl
@[simp] theorem setCtx_mapWaits (n c : Nat) (v : Ctx) : (s.setCtx n c v).mapWaits = s.mapWaits := rfl
@[simp] theorem setCtx_hostMem (n c : Nat) (v : Ctx) : (s.setCtx n c v).hostMem = s.hostMem := rfl
@[simp] theorem setCtx_hostLost (n c : Nat) (v : Ctx) : (s.setCtx n c v).hostLost = s.hostLost := rfl
@[simp] theorem setCtx_msix (n c : Nat) (v : Ctx) : (s.setCtx n c v).msix = s.msix := rfl
@[simp] theorem setCtx_devId (n c : Nat) (v : Ctx) : (s.setCtx n c v).devId = s.devId := rfl
@[simp] theorem setCtx_zegus (n c : Nat) (v : Ctx) : (s.setCtx n c v).zegus = s.zegus := rfl
@[simp] theorem setCtx_partner (n c : Nat) (v : Ctx) : (s.setCtx n c v).partner = s.partner := rfl

/-! ## setObj -/

@[simp] theorem setObj_pending (n : Nat) (v : SyncObj) : (s.setObj n v).pending = s.pending := rfl
@[simp] theorem setObj_variant (n : Nat) (v : SyncObj) : (s.setObj n v).variant = s.variant := rfl
@[simp] theorem setObj_free (n : Nat) (v : SyncObj) : (s.setObj n v).free = s.free := rfl
@[simp] theorem setObj_ltc (n : Nat) (v : SyncObj) : (s.setObj n v).ltc = s.ltc := rfl
@[simp] theorem setObj_fresh (n : Nat) (v : SyncObj) : (s.setObj n v).fresh = s.fresh := rfl
@[simp] theorem setObj_beats (n : Nat) (v : SyncObj) : (s.setObj n v).beats = s.beats := rfl
@[simp] theorem setObj_ens (n : Nat) (v : SyncObj) : (s.setObj n v).ens = s.ens := rfl
@[simp] theorem setObj_banks (n : Nat) (v : SyncObj) : (s.setObj n v).banks = s.banks := rfl
@[simp] theorem setObj_lastBank (n : Nat) (v : SyncObj) : (s.setObj n v).lastBank = s.lastBank := rfl
@[simp] theorem setObj_tiles (n : Nat) (v : SyncObj) : (s.setObj n v).tiles = s.tiles := rfl
@[simp] theorem setObj_tstore (n : Nat) (v : SyncObj) : (s.setObj n v).tstore = s.tstore := rfl
@[simp] theorem setObj_tpoison (n : Nat) (v : SyncObj) : (s.setObj n v).tpoison = s.tpoison := rfl
@[simp] theorem setObj_tfixed (n : Nat) (v : SyncObj) : (s.setObj n v).tfixed = s.tfixed := rfl
@[simp] theorem setObj_tserv (n : Nat) (v : SyncObj) : (s.setObj n v).tserv = s.tserv := rfl
@[simp] theorem setObj_sserv (n : Nat) (v : SyncObj) : (s.setObj n v).sserv = s.sserv := rfl
@[simp] theorem setObj_tspares (n : Nat) (v : SyncObj) : (s.setObj n v).tspares = s.tspares := rfl
@[simp] theorem setObj_sspares (n : Nat) (v : SyncObj) : (s.setObj n v).sspares = s.sspares := rfl
@[simp] theorem setObj_ses (n : Nat) (v : SyncObj) : (s.setObj n v).ses = s.ses := rfl
@[simp] theorem setObj_sync (n : Nat) (v : SyncObj) : (s.setObj n v).sync = s.sync.set {} n v := rfl
@[simp] theorem setObj_remote (n : Nat) (v : SyncObj) : (s.setObj n v).remote = s.remote := rfl
@[simp] theorem setObj_mses (n : Nat) (v : SyncObj) : (s.setObj n v).mses = s.mses := rfl
@[simp] theorem setObj_clusters (n : Nat) (v : SyncObj) : (s.setObj n v).clusters = s.clusters := rfl
@[simp] theorem setObj_hbm (n : Nat) (v : SyncObj) : (s.setObj n v).hbm = s.hbm := rfl
@[simp] theorem setObj_hpoison (n : Nat) (v : SyncObj) : (s.setObj n v).hpoison = s.hpoison := rfl
@[simp] theorem setObj_hfixed (n : Nat) (v : SyncObj) : (s.setObj n v).hfixed = s.hfixed := rfl
@[simp] theorem setObj_herr (n : Nat) (v : SyncObj) : (s.setObj n v).herr = s.herr := rfl
@[simp] theorem setObj_terr (n : Nat) (v : SyncObj) : (s.setObj n v).terr = s.terr := rfl
@[simp] theorem setObj_pcs (n : Nat) (v : SyncObj) : (s.setObj n v).pcs = s.pcs := rfl
@[simp] theorem setObj_hstack (n : Nat) (v : SyncObj) : (s.setObj n v).hstack = s.hstack := rfl
@[simp] theorem setObj_tlbs (n : Nat) (v : SyncObj) : (s.setObj n v).tlbs = s.tlbs := rfl
@[simp] theorem setObj_walkers (n : Nat) (v : SyncObj) : (s.setObj n v).walkers = s.walkers := rfl
@[simp] theorem setObj_net (n : Nat) (v : SyncObj) : (s.setObj n v).net = s.net := rfl
@[simp] theorem setObj_era (n : Nat) (v : SyncObj) : (s.setObj n v).era = s.era := rfl
@[simp] theorem setObj_memRegion (n : Nat) (v : SyncObj) : (s.setObj n v).memRegion = s.memRegion := rfl
@[simp] theorem setObj_memRej (n : Nat) (v : SyncObj) : (s.setObj n v).memRej = s.memRej := rfl
@[simp] theorem setObj_astBase (n : Nat) (v : SyncObj) : (s.setObj n v).astBase = s.astBase := rfl
@[simp] theorem setObj_astRej (n : Nat) (v : SyncObj) : (s.setObj n v).astRej = s.astRej := rfl
@[simp] theorem setObj_sample (n : Nat) (v : SyncObj) : (s.setObj n v).sample = s.sample := rfl
@[simp] theorem setObj_windows (n : Nat) (v : SyncObj) : (s.setObj n v).windows = s.windows := rfl
@[simp] theorem setObj_counts (n : Nat) (v : SyncObj) : (s.setObj n v).counts = s.counts := rfl
@[simp] theorem setObj_snapshot (n : Nat) (v : SyncObj) : (s.setObj n v).snapshot = s.snapshot := rfl
@[simp] theorem setObj_snapWin (n : Nat) (v : SyncObj) : (s.setObj n v).snapWin = s.snapWin := rfl
@[simp] theorem setObj_waits (n : Nat) (v : SyncObj) : (s.setObj n v).waits = s.waits := rfl
@[simp] theorem setObj_slotWaits (n : Nat) (v : SyncObj) : (s.setObj n v).slotWaits = s.slotWaits := rfl
@[simp] theorem setObj_resends (n : Nat) (v : SyncObj) : (s.setObj n v).resends = s.resends := rfl
@[simp] theorem setObj_winResends (n : Nat) (v : SyncObj) : (s.setObj n v).winResends = s.winResends := rfl
@[simp] theorem setObj_gws (n : Nat) (v : SyncObj) : (s.setObj n v).gws = s.gws := rfl
@[simp] theorem setObj_dsps (n : Nat) (v : SyncObj) : (s.setObj n v).dsps = s.dsps := rfl
@[simp] theorem setObj_fclkRej (n : Nat) (v : SyncObj) : (s.setObj n v).fclkRej = s.fclkRej := rfl
@[simp] theorem setObj_regions (n : Nat) (v : SyncObj) : (s.setObj n v).regions = s.regions := rfl
@[simp] theorem setObj_bram (n : Nat) (v : SyncObj) : (s.setObj n v).bram = s.bram := rfl
@[simp] theorem setObj_flops (n : Nat) (v : SyncObj) : (s.setObj n v).flops = s.flops := rfl
@[simp] theorem setObj_logic (n : Nat) (v : SyncObj) : (s.setObj n v).logic = s.logic := rfl
@[simp] theorem setObj_loader (n : Nat) (v : SyncObj) : (s.setObj n v).loader = s.loader := rfl
@[simp] theorem setObj_health (n : Nat) (v : SyncObj) : (s.setObj n v).health = s.health := rfl
@[simp] theorem setObj_rst (n : Nat) (v : SyncObj) : (s.setObj n v).rst = s.rst := rfl
@[simp] theorem setObj_gov (n : Nat) (v : SyncObj) : (s.setObj n v).gov = s.gov := rfl
@[simp] theorem setObj_pins (n : Nat) (v : SyncObj) : (s.setObj n v).pins = s.pins := rfl
@[simp] theorem setObj_keeper (n : Nat) (v : SyncObj) : (s.setObj n v).keeper = s.keeper := rfl
@[simp] theorem setObj_sec (n : Nat) (v : SyncObj) : (s.setObj n v).sec = s.sec := rfl
@[simp] theorem setObj_dbg (n : Nat) (v : SyncObj) : (s.setObj n v).dbg = s.dbg := rfl
@[simp] theorem setObj_fns (n : Nat) (v : SyncObj) : (s.setObj n v).fns = s.fns := rfl
@[simp] theorem setObj_ports (n : Nat) (v : SyncObj) : (s.setObj n v).ports = s.ports := rfl
@[simp] theorem setObj_chans (n : Nat) (v : SyncObj) : (s.setObj n v).chans = s.chans := rfl
@[simp] theorem setObj_cacheLru (n : Nat) (v : SyncObj) : (s.setObj n v).cacheLru = s.cacheLru := rfl
@[simp] theorem setObj_mapWaits (n : Nat) (v : SyncObj) : (s.setObj n v).mapWaits = s.mapWaits := rfl
@[simp] theorem setObj_hostMem (n : Nat) (v : SyncObj) : (s.setObj n v).hostMem = s.hostMem := rfl
@[simp] theorem setObj_hostLost (n : Nat) (v : SyncObj) : (s.setObj n v).hostLost = s.hostLost := rfl
@[simp] theorem setObj_msix (n : Nat) (v : SyncObj) : (s.setObj n v).msix = s.msix := rfl
@[simp] theorem setObj_devId (n : Nat) (v : SyncObj) : (s.setObj n v).devId = s.devId := rfl
@[simp] theorem setObj_zegus (n : Nat) (v : SyncObj) : (s.setObj n v).zegus = s.zegus := rfl
@[simp] theorem setObj_partner (n : Nat) (v : SyncObj) : (s.setObj n v).partner = s.partner := rfl

/-! ## setMse -/

@[simp] theorem setMse_pending (n : Nat) (v : Mse) : (s.setMse n v).pending = s.pending := rfl
@[simp] theorem setMse_variant (n : Nat) (v : Mse) : (s.setMse n v).variant = s.variant := rfl
@[simp] theorem setMse_free (n : Nat) (v : Mse) : (s.setMse n v).free = s.free := rfl
@[simp] theorem setMse_ltc (n : Nat) (v : Mse) : (s.setMse n v).ltc = s.ltc := rfl
@[simp] theorem setMse_fresh (n : Nat) (v : Mse) : (s.setMse n v).fresh = s.fresh := rfl
@[simp] theorem setMse_beats (n : Nat) (v : Mse) : (s.setMse n v).beats = s.beats := rfl
@[simp] theorem setMse_ens (n : Nat) (v : Mse) : (s.setMse n v).ens = s.ens := rfl
@[simp] theorem setMse_banks (n : Nat) (v : Mse) : (s.setMse n v).banks = s.banks := rfl
@[simp] theorem setMse_lastBank (n : Nat) (v : Mse) : (s.setMse n v).lastBank = s.lastBank := rfl
@[simp] theorem setMse_tiles (n : Nat) (v : Mse) : (s.setMse n v).tiles = s.tiles := rfl
@[simp] theorem setMse_tstore (n : Nat) (v : Mse) : (s.setMse n v).tstore = s.tstore := rfl
@[simp] theorem setMse_tpoison (n : Nat) (v : Mse) : (s.setMse n v).tpoison = s.tpoison := rfl
@[simp] theorem setMse_tfixed (n : Nat) (v : Mse) : (s.setMse n v).tfixed = s.tfixed := rfl
@[simp] theorem setMse_tserv (n : Nat) (v : Mse) : (s.setMse n v).tserv = s.tserv := rfl
@[simp] theorem setMse_sserv (n : Nat) (v : Mse) : (s.setMse n v).sserv = s.sserv := rfl
@[simp] theorem setMse_tspares (n : Nat) (v : Mse) : (s.setMse n v).tspares = s.tspares := rfl
@[simp] theorem setMse_sspares (n : Nat) (v : Mse) : (s.setMse n v).sspares = s.sspares := rfl
@[simp] theorem setMse_ses (n : Nat) (v : Mse) : (s.setMse n v).ses = s.ses := rfl
@[simp] theorem setMse_sync (n : Nat) (v : Mse) : (s.setMse n v).sync = s.sync := rfl
@[simp] theorem setMse_remote (n : Nat) (v : Mse) : (s.setMse n v).remote = s.remote := rfl
@[simp] theorem setMse_mses (n : Nat) (v : Mse) : (s.setMse n v).mses = s.mses.set {} n v := rfl
@[simp] theorem setMse_clusters (n : Nat) (v : Mse) : (s.setMse n v).clusters = s.clusters := rfl
@[simp] theorem setMse_hbm (n : Nat) (v : Mse) : (s.setMse n v).hbm = s.hbm := rfl
@[simp] theorem setMse_hpoison (n : Nat) (v : Mse) : (s.setMse n v).hpoison = s.hpoison := rfl
@[simp] theorem setMse_hfixed (n : Nat) (v : Mse) : (s.setMse n v).hfixed = s.hfixed := rfl
@[simp] theorem setMse_herr (n : Nat) (v : Mse) : (s.setMse n v).herr = s.herr := rfl
@[simp] theorem setMse_terr (n : Nat) (v : Mse) : (s.setMse n v).terr = s.terr := rfl
@[simp] theorem setMse_pcs (n : Nat) (v : Mse) : (s.setMse n v).pcs = s.pcs := rfl
@[simp] theorem setMse_hstack (n : Nat) (v : Mse) : (s.setMse n v).hstack = s.hstack := rfl
@[simp] theorem setMse_tlbs (n : Nat) (v : Mse) : (s.setMse n v).tlbs = s.tlbs := rfl
@[simp] theorem setMse_walkers (n : Nat) (v : Mse) : (s.setMse n v).walkers = s.walkers := rfl
@[simp] theorem setMse_net (n : Nat) (v : Mse) : (s.setMse n v).net = s.net := rfl
@[simp] theorem setMse_era (n : Nat) (v : Mse) : (s.setMse n v).era = s.era := rfl
@[simp] theorem setMse_memRegion (n : Nat) (v : Mse) : (s.setMse n v).memRegion = s.memRegion := rfl
@[simp] theorem setMse_memRej (n : Nat) (v : Mse) : (s.setMse n v).memRej = s.memRej := rfl
@[simp] theorem setMse_astBase (n : Nat) (v : Mse) : (s.setMse n v).astBase = s.astBase := rfl
@[simp] theorem setMse_astRej (n : Nat) (v : Mse) : (s.setMse n v).astRej = s.astRej := rfl
@[simp] theorem setMse_sample (n : Nat) (v : Mse) : (s.setMse n v).sample = s.sample := rfl
@[simp] theorem setMse_windows (n : Nat) (v : Mse) : (s.setMse n v).windows = s.windows := rfl
@[simp] theorem setMse_counts (n : Nat) (v : Mse) : (s.setMse n v).counts = s.counts := rfl
@[simp] theorem setMse_snapshot (n : Nat) (v : Mse) : (s.setMse n v).snapshot = s.snapshot := rfl
@[simp] theorem setMse_snapWin (n : Nat) (v : Mse) : (s.setMse n v).snapWin = s.snapWin := rfl
@[simp] theorem setMse_waits (n : Nat) (v : Mse) : (s.setMse n v).waits = s.waits := rfl
@[simp] theorem setMse_slotWaits (n : Nat) (v : Mse) : (s.setMse n v).slotWaits = s.slotWaits := rfl
@[simp] theorem setMse_resends (n : Nat) (v : Mse) : (s.setMse n v).resends = s.resends := rfl
@[simp] theorem setMse_winResends (n : Nat) (v : Mse) : (s.setMse n v).winResends = s.winResends := rfl
@[simp] theorem setMse_gws (n : Nat) (v : Mse) : (s.setMse n v).gws = s.gws := rfl
@[simp] theorem setMse_dsps (n : Nat) (v : Mse) : (s.setMse n v).dsps = s.dsps := rfl
@[simp] theorem setMse_fclkRej (n : Nat) (v : Mse) : (s.setMse n v).fclkRej = s.fclkRej := rfl
@[simp] theorem setMse_regions (n : Nat) (v : Mse) : (s.setMse n v).regions = s.regions := rfl
@[simp] theorem setMse_bram (n : Nat) (v : Mse) : (s.setMse n v).bram = s.bram := rfl
@[simp] theorem setMse_flops (n : Nat) (v : Mse) : (s.setMse n v).flops = s.flops := rfl
@[simp] theorem setMse_logic (n : Nat) (v : Mse) : (s.setMse n v).logic = s.logic := rfl
@[simp] theorem setMse_loader (n : Nat) (v : Mse) : (s.setMse n v).loader = s.loader := rfl
@[simp] theorem setMse_health (n : Nat) (v : Mse) : (s.setMse n v).health = s.health := rfl
@[simp] theorem setMse_rst (n : Nat) (v : Mse) : (s.setMse n v).rst = s.rst := rfl
@[simp] theorem setMse_gov (n : Nat) (v : Mse) : (s.setMse n v).gov = s.gov := rfl
@[simp] theorem setMse_pins (n : Nat) (v : Mse) : (s.setMse n v).pins = s.pins := rfl
@[simp] theorem setMse_keeper (n : Nat) (v : Mse) : (s.setMse n v).keeper = s.keeper := rfl
@[simp] theorem setMse_sec (n : Nat) (v : Mse) : (s.setMse n v).sec = s.sec := rfl
@[simp] theorem setMse_dbg (n : Nat) (v : Mse) : (s.setMse n v).dbg = s.dbg := rfl
@[simp] theorem setMse_fns (n : Nat) (v : Mse) : (s.setMse n v).fns = s.fns := rfl
@[simp] theorem setMse_ports (n : Nat) (v : Mse) : (s.setMse n v).ports = s.ports := rfl
@[simp] theorem setMse_chans (n : Nat) (v : Mse) : (s.setMse n v).chans = s.chans := rfl
@[simp] theorem setMse_cacheLru (n : Nat) (v : Mse) : (s.setMse n v).cacheLru = s.cacheLru := rfl
@[simp] theorem setMse_mapWaits (n : Nat) (v : Mse) : (s.setMse n v).mapWaits = s.mapWaits := rfl
@[simp] theorem setMse_hostMem (n : Nat) (v : Mse) : (s.setMse n v).hostMem = s.hostMem := rfl
@[simp] theorem setMse_hostLost (n : Nat) (v : Mse) : (s.setMse n v).hostLost = s.hostLost := rfl
@[simp] theorem setMse_msix (n : Nat) (v : Mse) : (s.setMse n v).msix = s.msix := rfl
@[simp] theorem setMse_devId (n : Nat) (v : Mse) : (s.setMse n v).devId = s.devId := rfl
@[simp] theorem setMse_zegus (n : Nat) (v : Mse) : (s.setMse n v).zegus = s.zegus := rfl
@[simp] theorem setMse_partner (n : Nat) (v : Mse) : (s.setMse n v).partner = s.partner := rfl

/-! ## setJob -/

@[simp] theorem setJob_pending (n j : Nat) (v : Job) : (s.setJob n j v).pending = s.pending := rfl
@[simp] theorem setJob_variant (n j : Nat) (v : Job) : (s.setJob n j v).variant = s.variant := rfl
@[simp] theorem setJob_free (n j : Nat) (v : Job) : (s.setJob n j v).free = s.free := rfl
@[simp] theorem setJob_ltc (n j : Nat) (v : Job) : (s.setJob n j v).ltc = s.ltc := rfl
@[simp] theorem setJob_fresh (n j : Nat) (v : Job) : (s.setJob n j v).fresh = s.fresh := rfl
@[simp] theorem setJob_beats (n j : Nat) (v : Job) : (s.setJob n j v).beats = s.beats := rfl
@[simp] theorem setJob_ens (n j : Nat) (v : Job) : (s.setJob n j v).ens = s.ens := rfl
@[simp] theorem setJob_banks (n j : Nat) (v : Job) : (s.setJob n j v).banks = s.banks := rfl
@[simp] theorem setJob_lastBank (n j : Nat) (v : Job) : (s.setJob n j v).lastBank = s.lastBank := rfl
@[simp] theorem setJob_tiles (n j : Nat) (v : Job) : (s.setJob n j v).tiles = s.tiles := rfl
@[simp] theorem setJob_tstore (n j : Nat) (v : Job) : (s.setJob n j v).tstore = s.tstore := rfl
@[simp] theorem setJob_tpoison (n j : Nat) (v : Job) : (s.setJob n j v).tpoison = s.tpoison := rfl
@[simp] theorem setJob_tfixed (n j : Nat) (v : Job) : (s.setJob n j v).tfixed = s.tfixed := rfl
@[simp] theorem setJob_tserv (n j : Nat) (v : Job) : (s.setJob n j v).tserv = s.tserv := rfl
@[simp] theorem setJob_sserv (n j : Nat) (v : Job) : (s.setJob n j v).sserv = s.sserv := rfl
@[simp] theorem setJob_tspares (n j : Nat) (v : Job) : (s.setJob n j v).tspares = s.tspares := rfl
@[simp] theorem setJob_sspares (n j : Nat) (v : Job) : (s.setJob n j v).sspares = s.sspares := rfl
@[simp] theorem setJob_ses (n j : Nat) (v : Job) : (s.setJob n j v).ses = s.ses := rfl
@[simp] theorem setJob_sync (n j : Nat) (v : Job) : (s.setJob n j v).sync = s.sync := rfl
@[simp] theorem setJob_remote (n j : Nat) (v : Job) : (s.setJob n j v).remote = s.remote := rfl
@[simp] theorem setJob_mses (n j : Nat) (v : Job) : (s.setJob n j v).mses = s.mses.set {} n { s.mse n with jobs := (s.mse n).jobs.set {} j v } := rfl
@[simp] theorem setJob_clusters (n j : Nat) (v : Job) : (s.setJob n j v).clusters = s.clusters := rfl
@[simp] theorem setJob_hbm (n j : Nat) (v : Job) : (s.setJob n j v).hbm = s.hbm := rfl
@[simp] theorem setJob_hpoison (n j : Nat) (v : Job) : (s.setJob n j v).hpoison = s.hpoison := rfl
@[simp] theorem setJob_hfixed (n j : Nat) (v : Job) : (s.setJob n j v).hfixed = s.hfixed := rfl
@[simp] theorem setJob_herr (n j : Nat) (v : Job) : (s.setJob n j v).herr = s.herr := rfl
@[simp] theorem setJob_terr (n j : Nat) (v : Job) : (s.setJob n j v).terr = s.terr := rfl
@[simp] theorem setJob_pcs (n j : Nat) (v : Job) : (s.setJob n j v).pcs = s.pcs := rfl
@[simp] theorem setJob_hstack (n j : Nat) (v : Job) : (s.setJob n j v).hstack = s.hstack := rfl
@[simp] theorem setJob_tlbs (n j : Nat) (v : Job) : (s.setJob n j v).tlbs = s.tlbs := rfl
@[simp] theorem setJob_walkers (n j : Nat) (v : Job) : (s.setJob n j v).walkers = s.walkers := rfl
@[simp] theorem setJob_net (n j : Nat) (v : Job) : (s.setJob n j v).net = s.net := rfl
@[simp] theorem setJob_era (n j : Nat) (v : Job) : (s.setJob n j v).era = s.era := rfl
@[simp] theorem setJob_memRegion (n j : Nat) (v : Job) : (s.setJob n j v).memRegion = s.memRegion := rfl
@[simp] theorem setJob_memRej (n j : Nat) (v : Job) : (s.setJob n j v).memRej = s.memRej := rfl
@[simp] theorem setJob_astBase (n j : Nat) (v : Job) : (s.setJob n j v).astBase = s.astBase := rfl
@[simp] theorem setJob_astRej (n j : Nat) (v : Job) : (s.setJob n j v).astRej = s.astRej := rfl
@[simp] theorem setJob_sample (n j : Nat) (v : Job) : (s.setJob n j v).sample = s.sample := rfl
@[simp] theorem setJob_windows (n j : Nat) (v : Job) : (s.setJob n j v).windows = s.windows := rfl
@[simp] theorem setJob_counts (n j : Nat) (v : Job) : (s.setJob n j v).counts = s.counts := rfl
@[simp] theorem setJob_snapshot (n j : Nat) (v : Job) : (s.setJob n j v).snapshot = s.snapshot := rfl
@[simp] theorem setJob_snapWin (n j : Nat) (v : Job) : (s.setJob n j v).snapWin = s.snapWin := rfl
@[simp] theorem setJob_waits (n j : Nat) (v : Job) : (s.setJob n j v).waits = s.waits := rfl
@[simp] theorem setJob_slotWaits (n j : Nat) (v : Job) : (s.setJob n j v).slotWaits = s.slotWaits := rfl
@[simp] theorem setJob_resends (n j : Nat) (v : Job) : (s.setJob n j v).resends = s.resends := rfl
@[simp] theorem setJob_winResends (n j : Nat) (v : Job) : (s.setJob n j v).winResends = s.winResends := rfl
@[simp] theorem setJob_gws (n j : Nat) (v : Job) : (s.setJob n j v).gws = s.gws := rfl
@[simp] theorem setJob_dsps (n j : Nat) (v : Job) : (s.setJob n j v).dsps = s.dsps := rfl
@[simp] theorem setJob_fclkRej (n j : Nat) (v : Job) : (s.setJob n j v).fclkRej = s.fclkRej := rfl
@[simp] theorem setJob_regions (n j : Nat) (v : Job) : (s.setJob n j v).regions = s.regions := rfl
@[simp] theorem setJob_bram (n j : Nat) (v : Job) : (s.setJob n j v).bram = s.bram := rfl
@[simp] theorem setJob_flops (n j : Nat) (v : Job) : (s.setJob n j v).flops = s.flops := rfl
@[simp] theorem setJob_logic (n j : Nat) (v : Job) : (s.setJob n j v).logic = s.logic := rfl
@[simp] theorem setJob_loader (n j : Nat) (v : Job) : (s.setJob n j v).loader = s.loader := rfl
@[simp] theorem setJob_health (n j : Nat) (v : Job) : (s.setJob n j v).health = s.health := rfl
@[simp] theorem setJob_rst (n j : Nat) (v : Job) : (s.setJob n j v).rst = s.rst := rfl
@[simp] theorem setJob_gov (n j : Nat) (v : Job) : (s.setJob n j v).gov = s.gov := rfl
@[simp] theorem setJob_pins (n j : Nat) (v : Job) : (s.setJob n j v).pins = s.pins := rfl
@[simp] theorem setJob_keeper (n j : Nat) (v : Job) : (s.setJob n j v).keeper = s.keeper := rfl
@[simp] theorem setJob_sec (n j : Nat) (v : Job) : (s.setJob n j v).sec = s.sec := rfl
@[simp] theorem setJob_dbg (n j : Nat) (v : Job) : (s.setJob n j v).dbg = s.dbg := rfl
@[simp] theorem setJob_fns (n j : Nat) (v : Job) : (s.setJob n j v).fns = s.fns := rfl
@[simp] theorem setJob_ports (n j : Nat) (v : Job) : (s.setJob n j v).ports = s.ports := rfl
@[simp] theorem setJob_chans (n j : Nat) (v : Job) : (s.setJob n j v).chans = s.chans := rfl
@[simp] theorem setJob_cacheLru (n j : Nat) (v : Job) : (s.setJob n j v).cacheLru = s.cacheLru := rfl
@[simp] theorem setJob_mapWaits (n j : Nat) (v : Job) : (s.setJob n j v).mapWaits = s.mapWaits := rfl
@[simp] theorem setJob_hostMem (n j : Nat) (v : Job) : (s.setJob n j v).hostMem = s.hostMem := rfl
@[simp] theorem setJob_hostLost (n j : Nat) (v : Job) : (s.setJob n j v).hostLost = s.hostLost := rfl
@[simp] theorem setJob_msix (n j : Nat) (v : Job) : (s.setJob n j v).msix = s.msix := rfl
@[simp] theorem setJob_devId (n j : Nat) (v : Job) : (s.setJob n j v).devId = s.devId := rfl
@[simp] theorem setJob_zegus (n j : Nat) (v : Job) : (s.setJob n j v).zegus = s.zegus := rfl
@[simp] theorem setJob_partner (n j : Nat) (v : Job) : (s.setJob n j v).partner = s.partner := rfl

/-! ## setCluster -/

@[simp] theorem setCluster_pending (n : Nat) (v : Cluster) : (s.setCluster n v).pending = s.pending := rfl
@[simp] theorem setCluster_variant (n : Nat) (v : Cluster) : (s.setCluster n v).variant = s.variant := rfl
@[simp] theorem setCluster_free (n : Nat) (v : Cluster) : (s.setCluster n v).free = s.free := rfl
@[simp] theorem setCluster_ltc (n : Nat) (v : Cluster) : (s.setCluster n v).ltc = s.ltc := rfl
@[simp] theorem setCluster_fresh (n : Nat) (v : Cluster) : (s.setCluster n v).fresh = s.fresh := rfl
@[simp] theorem setCluster_beats (n : Nat) (v : Cluster) : (s.setCluster n v).beats = s.beats := rfl
@[simp] theorem setCluster_ens (n : Nat) (v : Cluster) : (s.setCluster n v).ens = s.ens := rfl
@[simp] theorem setCluster_banks (n : Nat) (v : Cluster) : (s.setCluster n v).banks = s.banks := rfl
@[simp] theorem setCluster_lastBank (n : Nat) (v : Cluster) : (s.setCluster n v).lastBank = s.lastBank := rfl
@[simp] theorem setCluster_tiles (n : Nat) (v : Cluster) : (s.setCluster n v).tiles = s.tiles := rfl
@[simp] theorem setCluster_tstore (n : Nat) (v : Cluster) : (s.setCluster n v).tstore = s.tstore := rfl
@[simp] theorem setCluster_tpoison (n : Nat) (v : Cluster) : (s.setCluster n v).tpoison = s.tpoison := rfl
@[simp] theorem setCluster_tfixed (n : Nat) (v : Cluster) : (s.setCluster n v).tfixed = s.tfixed := rfl
@[simp] theorem setCluster_tserv (n : Nat) (v : Cluster) : (s.setCluster n v).tserv = s.tserv := rfl
@[simp] theorem setCluster_sserv (n : Nat) (v : Cluster) : (s.setCluster n v).sserv = s.sserv := rfl
@[simp] theorem setCluster_tspares (n : Nat) (v : Cluster) : (s.setCluster n v).tspares = s.tspares := rfl
@[simp] theorem setCluster_sspares (n : Nat) (v : Cluster) : (s.setCluster n v).sspares = s.sspares := rfl
@[simp] theorem setCluster_ses (n : Nat) (v : Cluster) : (s.setCluster n v).ses = s.ses := rfl
@[simp] theorem setCluster_sync (n : Nat) (v : Cluster) : (s.setCluster n v).sync = s.sync := rfl
@[simp] theorem setCluster_remote (n : Nat) (v : Cluster) : (s.setCluster n v).remote = s.remote := rfl
@[simp] theorem setCluster_mses (n : Nat) (v : Cluster) : (s.setCluster n v).mses = s.mses := rfl
@[simp] theorem setCluster_clusters (n : Nat) (v : Cluster) : (s.setCluster n v).clusters = s.clusters.set {} n v := rfl
@[simp] theorem setCluster_hbm (n : Nat) (v : Cluster) : (s.setCluster n v).hbm = s.hbm := rfl
@[simp] theorem setCluster_hpoison (n : Nat) (v : Cluster) : (s.setCluster n v).hpoison = s.hpoison := rfl
@[simp] theorem setCluster_hfixed (n : Nat) (v : Cluster) : (s.setCluster n v).hfixed = s.hfixed := rfl
@[simp] theorem setCluster_herr (n : Nat) (v : Cluster) : (s.setCluster n v).herr = s.herr := rfl
@[simp] theorem setCluster_terr (n : Nat) (v : Cluster) : (s.setCluster n v).terr = s.terr := rfl
@[simp] theorem setCluster_pcs (n : Nat) (v : Cluster) : (s.setCluster n v).pcs = s.pcs := rfl
@[simp] theorem setCluster_hstack (n : Nat) (v : Cluster) : (s.setCluster n v).hstack = s.hstack := rfl
@[simp] theorem setCluster_tlbs (n : Nat) (v : Cluster) : (s.setCluster n v).tlbs = s.tlbs := rfl
@[simp] theorem setCluster_walkers (n : Nat) (v : Cluster) : (s.setCluster n v).walkers = s.walkers := rfl
@[simp] theorem setCluster_net (n : Nat) (v : Cluster) : (s.setCluster n v).net = s.net := rfl
@[simp] theorem setCluster_era (n : Nat) (v : Cluster) : (s.setCluster n v).era = s.era := rfl
@[simp] theorem setCluster_memRegion (n : Nat) (v : Cluster) : (s.setCluster n v).memRegion = s.memRegion := rfl
@[simp] theorem setCluster_memRej (n : Nat) (v : Cluster) : (s.setCluster n v).memRej = s.memRej := rfl
@[simp] theorem setCluster_astBase (n : Nat) (v : Cluster) : (s.setCluster n v).astBase = s.astBase := rfl
@[simp] theorem setCluster_astRej (n : Nat) (v : Cluster) : (s.setCluster n v).astRej = s.astRej := rfl
@[simp] theorem setCluster_sample (n : Nat) (v : Cluster) : (s.setCluster n v).sample = s.sample := rfl
@[simp] theorem setCluster_windows (n : Nat) (v : Cluster) : (s.setCluster n v).windows = s.windows := rfl
@[simp] theorem setCluster_counts (n : Nat) (v : Cluster) : (s.setCluster n v).counts = s.counts := rfl
@[simp] theorem setCluster_snapshot (n : Nat) (v : Cluster) : (s.setCluster n v).snapshot = s.snapshot := rfl
@[simp] theorem setCluster_snapWin (n : Nat) (v : Cluster) : (s.setCluster n v).snapWin = s.snapWin := rfl
@[simp] theorem setCluster_waits (n : Nat) (v : Cluster) : (s.setCluster n v).waits = s.waits := rfl
@[simp] theorem setCluster_slotWaits (n : Nat) (v : Cluster) : (s.setCluster n v).slotWaits = s.slotWaits := rfl
@[simp] theorem setCluster_resends (n : Nat) (v : Cluster) : (s.setCluster n v).resends = s.resends := rfl
@[simp] theorem setCluster_winResends (n : Nat) (v : Cluster) : (s.setCluster n v).winResends = s.winResends := rfl
@[simp] theorem setCluster_gws (n : Nat) (v : Cluster) : (s.setCluster n v).gws = s.gws := rfl
@[simp] theorem setCluster_dsps (n : Nat) (v : Cluster) : (s.setCluster n v).dsps = s.dsps := rfl
@[simp] theorem setCluster_fclkRej (n : Nat) (v : Cluster) : (s.setCluster n v).fclkRej = s.fclkRej := rfl
@[simp] theorem setCluster_regions (n : Nat) (v : Cluster) : (s.setCluster n v).regions = s.regions := rfl
@[simp] theorem setCluster_bram (n : Nat) (v : Cluster) : (s.setCluster n v).bram = s.bram := rfl
@[simp] theorem setCluster_flops (n : Nat) (v : Cluster) : (s.setCluster n v).flops = s.flops := rfl
@[simp] theorem setCluster_logic (n : Nat) (v : Cluster) : (s.setCluster n v).logic = s.logic := rfl
@[simp] theorem setCluster_loader (n : Nat) (v : Cluster) : (s.setCluster n v).loader = s.loader := rfl
@[simp] theorem setCluster_health (n : Nat) (v : Cluster) : (s.setCluster n v).health = s.health := rfl
@[simp] theorem setCluster_rst (n : Nat) (v : Cluster) : (s.setCluster n v).rst = s.rst := rfl
@[simp] theorem setCluster_gov (n : Nat) (v : Cluster) : (s.setCluster n v).gov = s.gov := rfl
@[simp] theorem setCluster_pins (n : Nat) (v : Cluster) : (s.setCluster n v).pins = s.pins := rfl
@[simp] theorem setCluster_keeper (n : Nat) (v : Cluster) : (s.setCluster n v).keeper = s.keeper := rfl
@[simp] theorem setCluster_sec (n : Nat) (v : Cluster) : (s.setCluster n v).sec = s.sec := rfl
@[simp] theorem setCluster_dbg (n : Nat) (v : Cluster) : (s.setCluster n v).dbg = s.dbg := rfl
@[simp] theorem setCluster_fns (n : Nat) (v : Cluster) : (s.setCluster n v).fns = s.fns := rfl
@[simp] theorem setCluster_ports (n : Nat) (v : Cluster) : (s.setCluster n v).ports = s.ports := rfl
@[simp] theorem setCluster_chans (n : Nat) (v : Cluster) : (s.setCluster n v).chans = s.chans := rfl
@[simp] theorem setCluster_cacheLru (n : Nat) (v : Cluster) : (s.setCluster n v).cacheLru = s.cacheLru := rfl
@[simp] theorem setCluster_mapWaits (n : Nat) (v : Cluster) : (s.setCluster n v).mapWaits = s.mapWaits := rfl
@[simp] theorem setCluster_hostMem (n : Nat) (v : Cluster) : (s.setCluster n v).hostMem = s.hostMem := rfl
@[simp] theorem setCluster_hostLost (n : Nat) (v : Cluster) : (s.setCluster n v).hostLost = s.hostLost := rfl
@[simp] theorem setCluster_msix (n : Nat) (v : Cluster) : (s.setCluster n v).msix = s.msix := rfl
@[simp] theorem setCluster_devId (n : Nat) (v : Cluster) : (s.setCluster n v).devId = s.devId := rfl
@[simp] theorem setCluster_zegus (n : Nat) (v : Cluster) : (s.setCluster n v).zegus = s.zegus := rfl
@[simp] theorem setCluster_partner (n : Nat) (v : Cluster) : (s.setCluster n v).partner = s.partner := rfl

/-! ## setPc -/

@[simp] theorem setPc_pending (n p : Nat) (v : Pc) : (s.setPc n p v).pending = s.pending := rfl
@[simp] theorem setPc_variant (n p : Nat) (v : Pc) : (s.setPc n p v).variant = s.variant := rfl
@[simp] theorem setPc_free (n p : Nat) (v : Pc) : (s.setPc n p v).free = s.free := rfl
@[simp] theorem setPc_ltc (n p : Nat) (v : Pc) : (s.setPc n p v).ltc = s.ltc := rfl
@[simp] theorem setPc_fresh (n p : Nat) (v : Pc) : (s.setPc n p v).fresh = s.fresh := rfl
@[simp] theorem setPc_beats (n p : Nat) (v : Pc) : (s.setPc n p v).beats = s.beats := rfl
@[simp] theorem setPc_ens (n p : Nat) (v : Pc) : (s.setPc n p v).ens = s.ens := rfl
@[simp] theorem setPc_banks (n p : Nat) (v : Pc) : (s.setPc n p v).banks = s.banks := rfl
@[simp] theorem setPc_lastBank (n p : Nat) (v : Pc) : (s.setPc n p v).lastBank = s.lastBank := rfl
@[simp] theorem setPc_tiles (n p : Nat) (v : Pc) : (s.setPc n p v).tiles = s.tiles := rfl
@[simp] theorem setPc_tstore (n p : Nat) (v : Pc) : (s.setPc n p v).tstore = s.tstore := rfl
@[simp] theorem setPc_tpoison (n p : Nat) (v : Pc) : (s.setPc n p v).tpoison = s.tpoison := rfl
@[simp] theorem setPc_tfixed (n p : Nat) (v : Pc) : (s.setPc n p v).tfixed = s.tfixed := rfl
@[simp] theorem setPc_tserv (n p : Nat) (v : Pc) : (s.setPc n p v).tserv = s.tserv := rfl
@[simp] theorem setPc_sserv (n p : Nat) (v : Pc) : (s.setPc n p v).sserv = s.sserv := rfl
@[simp] theorem setPc_tspares (n p : Nat) (v : Pc) : (s.setPc n p v).tspares = s.tspares := rfl
@[simp] theorem setPc_sspares (n p : Nat) (v : Pc) : (s.setPc n p v).sspares = s.sspares := rfl
@[simp] theorem setPc_ses (n p : Nat) (v : Pc) : (s.setPc n p v).ses = s.ses := rfl
@[simp] theorem setPc_sync (n p : Nat) (v : Pc) : (s.setPc n p v).sync = s.sync := rfl
@[simp] theorem setPc_remote (n p : Nat) (v : Pc) : (s.setPc n p v).remote = s.remote := rfl
@[simp] theorem setPc_mses (n p : Nat) (v : Pc) : (s.setPc n p v).mses = s.mses := rfl
@[simp] theorem setPc_clusters (n p : Nat) (v : Pc) : (s.setPc n p v).clusters = s.clusters := rfl
@[simp] theorem setPc_hbm (n p : Nat) (v : Pc) : (s.setPc n p v).hbm = s.hbm := rfl
@[simp] theorem setPc_hpoison (n p : Nat) (v : Pc) : (s.setPc n p v).hpoison = s.hpoison := rfl
@[simp] theorem setPc_hfixed (n p : Nat) (v : Pc) : (s.setPc n p v).hfixed = s.hfixed := rfl
@[simp] theorem setPc_herr (n p : Nat) (v : Pc) : (s.setPc n p v).herr = s.herr := rfl
@[simp] theorem setPc_terr (n p : Nat) (v : Pc) : (s.setPc n p v).terr = s.terr := rfl
@[simp] theorem setPc_pcs (n p : Nat) (v : Pc) : (s.setPc n p v).pcs = s.pcs.set {} (64 * n + p) v := rfl
@[simp] theorem setPc_hstack (n p : Nat) (v : Pc) : (s.setPc n p v).hstack = s.hstack := rfl
@[simp] theorem setPc_tlbs (n p : Nat) (v : Pc) : (s.setPc n p v).tlbs = s.tlbs := rfl
@[simp] theorem setPc_walkers (n p : Nat) (v : Pc) : (s.setPc n p v).walkers = s.walkers := rfl
@[simp] theorem setPc_net (n p : Nat) (v : Pc) : (s.setPc n p v).net = s.net := rfl
@[simp] theorem setPc_era (n p : Nat) (v : Pc) : (s.setPc n p v).era = s.era := rfl
@[simp] theorem setPc_memRegion (n p : Nat) (v : Pc) : (s.setPc n p v).memRegion = s.memRegion := rfl
@[simp] theorem setPc_memRej (n p : Nat) (v : Pc) : (s.setPc n p v).memRej = s.memRej := rfl
@[simp] theorem setPc_astBase (n p : Nat) (v : Pc) : (s.setPc n p v).astBase = s.astBase := rfl
@[simp] theorem setPc_astRej (n p : Nat) (v : Pc) : (s.setPc n p v).astRej = s.astRej := rfl
@[simp] theorem setPc_sample (n p : Nat) (v : Pc) : (s.setPc n p v).sample = s.sample := rfl
@[simp] theorem setPc_windows (n p : Nat) (v : Pc) : (s.setPc n p v).windows = s.windows := rfl
@[simp] theorem setPc_counts (n p : Nat) (v : Pc) : (s.setPc n p v).counts = s.counts := rfl
@[simp] theorem setPc_snapshot (n p : Nat) (v : Pc) : (s.setPc n p v).snapshot = s.snapshot := rfl
@[simp] theorem setPc_snapWin (n p : Nat) (v : Pc) : (s.setPc n p v).snapWin = s.snapWin := rfl
@[simp] theorem setPc_waits (n p : Nat) (v : Pc) : (s.setPc n p v).waits = s.waits := rfl
@[simp] theorem setPc_slotWaits (n p : Nat) (v : Pc) : (s.setPc n p v).slotWaits = s.slotWaits := rfl
@[simp] theorem setPc_resends (n p : Nat) (v : Pc) : (s.setPc n p v).resends = s.resends := rfl
@[simp] theorem setPc_winResends (n p : Nat) (v : Pc) : (s.setPc n p v).winResends = s.winResends := rfl
@[simp] theorem setPc_gws (n p : Nat) (v : Pc) : (s.setPc n p v).gws = s.gws := rfl
@[simp] theorem setPc_dsps (n p : Nat) (v : Pc) : (s.setPc n p v).dsps = s.dsps := rfl
@[simp] theorem setPc_fclkRej (n p : Nat) (v : Pc) : (s.setPc n p v).fclkRej = s.fclkRej := rfl
@[simp] theorem setPc_regions (n p : Nat) (v : Pc) : (s.setPc n p v).regions = s.regions := rfl
@[simp] theorem setPc_bram (n p : Nat) (v : Pc) : (s.setPc n p v).bram = s.bram := rfl
@[simp] theorem setPc_flops (n p : Nat) (v : Pc) : (s.setPc n p v).flops = s.flops := rfl
@[simp] theorem setPc_logic (n p : Nat) (v : Pc) : (s.setPc n p v).logic = s.logic := rfl
@[simp] theorem setPc_loader (n p : Nat) (v : Pc) : (s.setPc n p v).loader = s.loader := rfl
@[simp] theorem setPc_health (n p : Nat) (v : Pc) : (s.setPc n p v).health = s.health := rfl
@[simp] theorem setPc_rst (n p : Nat) (v : Pc) : (s.setPc n p v).rst = s.rst := rfl
@[simp] theorem setPc_gov (n p : Nat) (v : Pc) : (s.setPc n p v).gov = s.gov := rfl
@[simp] theorem setPc_pins (n p : Nat) (v : Pc) : (s.setPc n p v).pins = s.pins := rfl
@[simp] theorem setPc_keeper (n p : Nat) (v : Pc) : (s.setPc n p v).keeper = s.keeper := rfl
@[simp] theorem setPc_sec (n p : Nat) (v : Pc) : (s.setPc n p v).sec = s.sec := rfl
@[simp] theorem setPc_dbg (n p : Nat) (v : Pc) : (s.setPc n p v).dbg = s.dbg := rfl
@[simp] theorem setPc_fns (n p : Nat) (v : Pc) : (s.setPc n p v).fns = s.fns := rfl
@[simp] theorem setPc_ports (n p : Nat) (v : Pc) : (s.setPc n p v).ports = s.ports := rfl
@[simp] theorem setPc_chans (n p : Nat) (v : Pc) : (s.setPc n p v).chans = s.chans := rfl
@[simp] theorem setPc_cacheLru (n p : Nat) (v : Pc) : (s.setPc n p v).cacheLru = s.cacheLru := rfl
@[simp] theorem setPc_mapWaits (n p : Nat) (v : Pc) : (s.setPc n p v).mapWaits = s.mapWaits := rfl
@[simp] theorem setPc_hostMem (n p : Nat) (v : Pc) : (s.setPc n p v).hostMem = s.hostMem := rfl
@[simp] theorem setPc_hostLost (n p : Nat) (v : Pc) : (s.setPc n p v).hostLost = s.hostLost := rfl
@[simp] theorem setPc_msix (n p : Nat) (v : Pc) : (s.setPc n p v).msix = s.msix := rfl
@[simp] theorem setPc_devId (n p : Nat) (v : Pc) : (s.setPc n p v).devId = s.devId := rfl
@[simp] theorem setPc_zegus (n p : Nat) (v : Pc) : (s.setPc n p v).zegus = s.zegus := rfl
@[simp] theorem setPc_partner (n p : Nat) (v : Pc) : (s.setPc n p v).partner = s.partner := rfl

/-! ## setStk -/

@[simp] theorem setStk_pending (n : Nat) (v : Stack) : (s.setStk n v).pending = s.pending := rfl
@[simp] theorem setStk_variant (n : Nat) (v : Stack) : (s.setStk n v).variant = s.variant := rfl
@[simp] theorem setStk_free (n : Nat) (v : Stack) : (s.setStk n v).free = s.free := rfl
@[simp] theorem setStk_ltc (n : Nat) (v : Stack) : (s.setStk n v).ltc = s.ltc := rfl
@[simp] theorem setStk_fresh (n : Nat) (v : Stack) : (s.setStk n v).fresh = s.fresh := rfl
@[simp] theorem setStk_beats (n : Nat) (v : Stack) : (s.setStk n v).beats = s.beats := rfl
@[simp] theorem setStk_ens (n : Nat) (v : Stack) : (s.setStk n v).ens = s.ens := rfl
@[simp] theorem setStk_banks (n : Nat) (v : Stack) : (s.setStk n v).banks = s.banks := rfl
@[simp] theorem setStk_lastBank (n : Nat) (v : Stack) : (s.setStk n v).lastBank = s.lastBank := rfl
@[simp] theorem setStk_tiles (n : Nat) (v : Stack) : (s.setStk n v).tiles = s.tiles := rfl
@[simp] theorem setStk_tstore (n : Nat) (v : Stack) : (s.setStk n v).tstore = s.tstore := rfl
@[simp] theorem setStk_tpoison (n : Nat) (v : Stack) : (s.setStk n v).tpoison = s.tpoison := rfl
@[simp] theorem setStk_tfixed (n : Nat) (v : Stack) : (s.setStk n v).tfixed = s.tfixed := rfl
@[simp] theorem setStk_tserv (n : Nat) (v : Stack) : (s.setStk n v).tserv = s.tserv := rfl
@[simp] theorem setStk_sserv (n : Nat) (v : Stack) : (s.setStk n v).sserv = s.sserv := rfl
@[simp] theorem setStk_tspares (n : Nat) (v : Stack) : (s.setStk n v).tspares = s.tspares := rfl
@[simp] theorem setStk_sspares (n : Nat) (v : Stack) : (s.setStk n v).sspares = s.sspares := rfl
@[simp] theorem setStk_ses (n : Nat) (v : Stack) : (s.setStk n v).ses = s.ses := rfl
@[simp] theorem setStk_sync (n : Nat) (v : Stack) : (s.setStk n v).sync = s.sync := rfl
@[simp] theorem setStk_remote (n : Nat) (v : Stack) : (s.setStk n v).remote = s.remote := rfl
@[simp] theorem setStk_mses (n : Nat) (v : Stack) : (s.setStk n v).mses = s.mses := rfl
@[simp] theorem setStk_clusters (n : Nat) (v : Stack) : (s.setStk n v).clusters = s.clusters := rfl
@[simp] theorem setStk_hbm (n : Nat) (v : Stack) : (s.setStk n v).hbm = s.hbm := rfl
@[simp] theorem setStk_hpoison (n : Nat) (v : Stack) : (s.setStk n v).hpoison = s.hpoison := rfl
@[simp] theorem setStk_hfixed (n : Nat) (v : Stack) : (s.setStk n v).hfixed = s.hfixed := rfl
@[simp] theorem setStk_herr (n : Nat) (v : Stack) : (s.setStk n v).herr = s.herr := rfl
@[simp] theorem setStk_terr (n : Nat) (v : Stack) : (s.setStk n v).terr = s.terr := rfl
@[simp] theorem setStk_pcs (n : Nat) (v : Stack) : (s.setStk n v).pcs = s.pcs := rfl
@[simp] theorem setStk_hstack (n : Nat) (v : Stack) : (s.setStk n v).hstack = s.hstack.set {} n v := rfl
@[simp] theorem setStk_tlbs (n : Nat) (v : Stack) : (s.setStk n v).tlbs = s.tlbs := rfl
@[simp] theorem setStk_walkers (n : Nat) (v : Stack) : (s.setStk n v).walkers = s.walkers := rfl
@[simp] theorem setStk_net (n : Nat) (v : Stack) : (s.setStk n v).net = s.net := rfl
@[simp] theorem setStk_era (n : Nat) (v : Stack) : (s.setStk n v).era = s.era := rfl
@[simp] theorem setStk_memRegion (n : Nat) (v : Stack) : (s.setStk n v).memRegion = s.memRegion := rfl
@[simp] theorem setStk_memRej (n : Nat) (v : Stack) : (s.setStk n v).memRej = s.memRej := rfl
@[simp] theorem setStk_astBase (n : Nat) (v : Stack) : (s.setStk n v).astBase = s.astBase := rfl
@[simp] theorem setStk_astRej (n : Nat) (v : Stack) : (s.setStk n v).astRej = s.astRej := rfl
@[simp] theorem setStk_sample (n : Nat) (v : Stack) : (s.setStk n v).sample = s.sample := rfl
@[simp] theorem setStk_windows (n : Nat) (v : Stack) : (s.setStk n v).windows = s.windows := rfl
@[simp] theorem setStk_counts (n : Nat) (v : Stack) : (s.setStk n v).counts = s.counts := rfl
@[simp] theorem setStk_snapshot (n : Nat) (v : Stack) : (s.setStk n v).snapshot = s.snapshot := rfl
@[simp] theorem setStk_snapWin (n : Nat) (v : Stack) : (s.setStk n v).snapWin = s.snapWin := rfl
@[simp] theorem setStk_waits (n : Nat) (v : Stack) : (s.setStk n v).waits = s.waits := rfl
@[simp] theorem setStk_slotWaits (n : Nat) (v : Stack) : (s.setStk n v).slotWaits = s.slotWaits := rfl
@[simp] theorem setStk_resends (n : Nat) (v : Stack) : (s.setStk n v).resends = s.resends := rfl
@[simp] theorem setStk_winResends (n : Nat) (v : Stack) : (s.setStk n v).winResends = s.winResends := rfl
@[simp] theorem setStk_gws (n : Nat) (v : Stack) : (s.setStk n v).gws = s.gws := rfl
@[simp] theorem setStk_dsps (n : Nat) (v : Stack) : (s.setStk n v).dsps = s.dsps := rfl
@[simp] theorem setStk_fclkRej (n : Nat) (v : Stack) : (s.setStk n v).fclkRej = s.fclkRej := rfl
@[simp] theorem setStk_regions (n : Nat) (v : Stack) : (s.setStk n v).regions = s.regions := rfl
@[simp] theorem setStk_bram (n : Nat) (v : Stack) : (s.setStk n v).bram = s.bram := rfl
@[simp] theorem setStk_flops (n : Nat) (v : Stack) : (s.setStk n v).flops = s.flops := rfl
@[simp] theorem setStk_logic (n : Nat) (v : Stack) : (s.setStk n v).logic = s.logic := rfl
@[simp] theorem setStk_loader (n : Nat) (v : Stack) : (s.setStk n v).loader = s.loader := rfl
@[simp] theorem setStk_health (n : Nat) (v : Stack) : (s.setStk n v).health = s.health := rfl
@[simp] theorem setStk_rst (n : Nat) (v : Stack) : (s.setStk n v).rst = s.rst := rfl
@[simp] theorem setStk_gov (n : Nat) (v : Stack) : (s.setStk n v).gov = s.gov := rfl
@[simp] theorem setStk_pins (n : Nat) (v : Stack) : (s.setStk n v).pins = s.pins := rfl
@[simp] theorem setStk_keeper (n : Nat) (v : Stack) : (s.setStk n v).keeper = s.keeper := rfl
@[simp] theorem setStk_sec (n : Nat) (v : Stack) : (s.setStk n v).sec = s.sec := rfl
@[simp] theorem setStk_dbg (n : Nat) (v : Stack) : (s.setStk n v).dbg = s.dbg := rfl
@[simp] theorem setStk_fns (n : Nat) (v : Stack) : (s.setStk n v).fns = s.fns := rfl
@[simp] theorem setStk_ports (n : Nat) (v : Stack) : (s.setStk n v).ports = s.ports := rfl
@[simp] theorem setStk_chans (n : Nat) (v : Stack) : (s.setStk n v).chans = s.chans := rfl
@[simp] theorem setStk_cacheLru (n : Nat) (v : Stack) : (s.setStk n v).cacheLru = s.cacheLru := rfl
@[simp] theorem setStk_mapWaits (n : Nat) (v : Stack) : (s.setStk n v).mapWaits = s.mapWaits := rfl
@[simp] theorem setStk_hostMem (n : Nat) (v : Stack) : (s.setStk n v).hostMem = s.hostMem := rfl
@[simp] theorem setStk_hostLost (n : Nat) (v : Stack) : (s.setStk n v).hostLost = s.hostLost := rfl
@[simp] theorem setStk_msix (n : Nat) (v : Stack) : (s.setStk n v).msix = s.msix := rfl
@[simp] theorem setStk_devId (n : Nat) (v : Stack) : (s.setStk n v).devId = s.devId := rfl
@[simp] theorem setStk_zegus (n : Nat) (v : Stack) : (s.setStk n v).zegus = s.zegus := rfl
@[simp] theorem setStk_partner (n : Nat) (v : Stack) : (s.setStk n v).partner = s.partner := rfl

/-! ## setTlb -/

@[simp] theorem setTlb_pending (r : Nat) (v : List TlbEntry) : (s.setTlb r v).pending = s.pending := rfl
@[simp] theorem setTlb_variant (r : Nat) (v : List TlbEntry) : (s.setTlb r v).variant = s.variant := rfl
@[simp] theorem setTlb_free (r : Nat) (v : List TlbEntry) : (s.setTlb r v).free = s.free := rfl
@[simp] theorem setTlb_ltc (r : Nat) (v : List TlbEntry) : (s.setTlb r v).ltc = s.ltc := rfl
@[simp] theorem setTlb_fresh (r : Nat) (v : List TlbEntry) : (s.setTlb r v).fresh = s.fresh := rfl
@[simp] theorem setTlb_beats (r : Nat) (v : List TlbEntry) : (s.setTlb r v).beats = s.beats := rfl
@[simp] theorem setTlb_ens (r : Nat) (v : List TlbEntry) : (s.setTlb r v).ens = s.ens := rfl
@[simp] theorem setTlb_banks (r : Nat) (v : List TlbEntry) : (s.setTlb r v).banks = s.banks := rfl
@[simp] theorem setTlb_lastBank (r : Nat) (v : List TlbEntry) : (s.setTlb r v).lastBank = s.lastBank := rfl
@[simp] theorem setTlb_tiles (r : Nat) (v : List TlbEntry) : (s.setTlb r v).tiles = s.tiles := rfl
@[simp] theorem setTlb_tstore (r : Nat) (v : List TlbEntry) : (s.setTlb r v).tstore = s.tstore := rfl
@[simp] theorem setTlb_tpoison (r : Nat) (v : List TlbEntry) : (s.setTlb r v).tpoison = s.tpoison := rfl
@[simp] theorem setTlb_tfixed (r : Nat) (v : List TlbEntry) : (s.setTlb r v).tfixed = s.tfixed := rfl
@[simp] theorem setTlb_tserv (r : Nat) (v : List TlbEntry) : (s.setTlb r v).tserv = s.tserv := rfl
@[simp] theorem setTlb_sserv (r : Nat) (v : List TlbEntry) : (s.setTlb r v).sserv = s.sserv := rfl
@[simp] theorem setTlb_tspares (r : Nat) (v : List TlbEntry) : (s.setTlb r v).tspares = s.tspares := rfl
@[simp] theorem setTlb_sspares (r : Nat) (v : List TlbEntry) : (s.setTlb r v).sspares = s.sspares := rfl
@[simp] theorem setTlb_ses (r : Nat) (v : List TlbEntry) : (s.setTlb r v).ses = s.ses := rfl
@[simp] theorem setTlb_sync (r : Nat) (v : List TlbEntry) : (s.setTlb r v).sync = s.sync := rfl
@[simp] theorem setTlb_remote (r : Nat) (v : List TlbEntry) : (s.setTlb r v).remote = s.remote := rfl
@[simp] theorem setTlb_mses (r : Nat) (v : List TlbEntry) : (s.setTlb r v).mses = s.mses := rfl
@[simp] theorem setTlb_clusters (r : Nat) (v : List TlbEntry) : (s.setTlb r v).clusters = s.clusters := rfl
@[simp] theorem setTlb_hbm (r : Nat) (v : List TlbEntry) : (s.setTlb r v).hbm = s.hbm := rfl
@[simp] theorem setTlb_hpoison (r : Nat) (v : List TlbEntry) : (s.setTlb r v).hpoison = s.hpoison := rfl
@[simp] theorem setTlb_hfixed (r : Nat) (v : List TlbEntry) : (s.setTlb r v).hfixed = s.hfixed := rfl
@[simp] theorem setTlb_herr (r : Nat) (v : List TlbEntry) : (s.setTlb r v).herr = s.herr := rfl
@[simp] theorem setTlb_terr (r : Nat) (v : List TlbEntry) : (s.setTlb r v).terr = s.terr := rfl
@[simp] theorem setTlb_pcs (r : Nat) (v : List TlbEntry) : (s.setTlb r v).pcs = s.pcs := rfl
@[simp] theorem setTlb_hstack (r : Nat) (v : List TlbEntry) : (s.setTlb r v).hstack = s.hstack := rfl
@[simp] theorem setTlb_tlbs (r : Nat) (v : List TlbEntry) : (s.setTlb r v).tlbs = s.tlbs.set [] r v := rfl
@[simp] theorem setTlb_walkers (r : Nat) (v : List TlbEntry) : (s.setTlb r v).walkers = s.walkers := rfl
@[simp] theorem setTlb_net (r : Nat) (v : List TlbEntry) : (s.setTlb r v).net = s.net := rfl
@[simp] theorem setTlb_era (r : Nat) (v : List TlbEntry) : (s.setTlb r v).era = s.era := rfl
@[simp] theorem setTlb_memRegion (r : Nat) (v : List TlbEntry) : (s.setTlb r v).memRegion = s.memRegion := rfl
@[simp] theorem setTlb_memRej (r : Nat) (v : List TlbEntry) : (s.setTlb r v).memRej = s.memRej := rfl
@[simp] theorem setTlb_astBase (r : Nat) (v : List TlbEntry) : (s.setTlb r v).astBase = s.astBase := rfl
@[simp] theorem setTlb_astRej (r : Nat) (v : List TlbEntry) : (s.setTlb r v).astRej = s.astRej := rfl
@[simp] theorem setTlb_sample (r : Nat) (v : List TlbEntry) : (s.setTlb r v).sample = s.sample := rfl
@[simp] theorem setTlb_windows (r : Nat) (v : List TlbEntry) : (s.setTlb r v).windows = s.windows := rfl
@[simp] theorem setTlb_counts (r : Nat) (v : List TlbEntry) : (s.setTlb r v).counts = s.counts := rfl
@[simp] theorem setTlb_snapshot (r : Nat) (v : List TlbEntry) : (s.setTlb r v).snapshot = s.snapshot := rfl
@[simp] theorem setTlb_snapWin (r : Nat) (v : List TlbEntry) : (s.setTlb r v).snapWin = s.snapWin := rfl
@[simp] theorem setTlb_waits (r : Nat) (v : List TlbEntry) : (s.setTlb r v).waits = s.waits := rfl
@[simp] theorem setTlb_slotWaits (r : Nat) (v : List TlbEntry) : (s.setTlb r v).slotWaits = s.slotWaits := rfl
@[simp] theorem setTlb_resends (r : Nat) (v : List TlbEntry) : (s.setTlb r v).resends = s.resends := rfl
@[simp] theorem setTlb_winResends (r : Nat) (v : List TlbEntry) : (s.setTlb r v).winResends = s.winResends := rfl
@[simp] theorem setTlb_gws (r : Nat) (v : List TlbEntry) : (s.setTlb r v).gws = s.gws := rfl
@[simp] theorem setTlb_dsps (r : Nat) (v : List TlbEntry) : (s.setTlb r v).dsps = s.dsps := rfl
@[simp] theorem setTlb_fclkRej (r : Nat) (v : List TlbEntry) : (s.setTlb r v).fclkRej = s.fclkRej := rfl
@[simp] theorem setTlb_regions (r : Nat) (v : List TlbEntry) : (s.setTlb r v).regions = s.regions := rfl
@[simp] theorem setTlb_bram (r : Nat) (v : List TlbEntry) : (s.setTlb r v).bram = s.bram := rfl
@[simp] theorem setTlb_flops (r : Nat) (v : List TlbEntry) : (s.setTlb r v).flops = s.flops := rfl
@[simp] theorem setTlb_logic (r : Nat) (v : List TlbEntry) : (s.setTlb r v).logic = s.logic := rfl
@[simp] theorem setTlb_loader (r : Nat) (v : List TlbEntry) : (s.setTlb r v).loader = s.loader := rfl
@[simp] theorem setTlb_health (r : Nat) (v : List TlbEntry) : (s.setTlb r v).health = s.health := rfl
@[simp] theorem setTlb_rst (r : Nat) (v : List TlbEntry) : (s.setTlb r v).rst = s.rst := rfl
@[simp] theorem setTlb_gov (r : Nat) (v : List TlbEntry) : (s.setTlb r v).gov = s.gov := rfl
@[simp] theorem setTlb_pins (r : Nat) (v : List TlbEntry) : (s.setTlb r v).pins = s.pins := rfl
@[simp] theorem setTlb_keeper (r : Nat) (v : List TlbEntry) : (s.setTlb r v).keeper = s.keeper := rfl
@[simp] theorem setTlb_sec (r : Nat) (v : List TlbEntry) : (s.setTlb r v).sec = s.sec := rfl
@[simp] theorem setTlb_dbg (r : Nat) (v : List TlbEntry) : (s.setTlb r v).dbg = s.dbg := rfl
@[simp] theorem setTlb_fns (r : Nat) (v : List TlbEntry) : (s.setTlb r v).fns = s.fns := rfl
@[simp] theorem setTlb_ports (r : Nat) (v : List TlbEntry) : (s.setTlb r v).ports = s.ports := rfl
@[simp] theorem setTlb_chans (r : Nat) (v : List TlbEntry) : (s.setTlb r v).chans = s.chans := rfl
@[simp] theorem setTlb_cacheLru (r : Nat) (v : List TlbEntry) : (s.setTlb r v).cacheLru = s.cacheLru := rfl
@[simp] theorem setTlb_mapWaits (r : Nat) (v : List TlbEntry) : (s.setTlb r v).mapWaits = s.mapWaits := rfl
@[simp] theorem setTlb_hostMem (r : Nat) (v : List TlbEntry) : (s.setTlb r v).hostMem = s.hostMem := rfl
@[simp] theorem setTlb_hostLost (r : Nat) (v : List TlbEntry) : (s.setTlb r v).hostLost = s.hostLost := rfl
@[simp] theorem setTlb_msix (r : Nat) (v : List TlbEntry) : (s.setTlb r v).msix = s.msix := rfl
@[simp] theorem setTlb_devId (r : Nat) (v : List TlbEntry) : (s.setTlb r v).devId = s.devId := rfl
@[simp] theorem setTlb_zegus (r : Nat) (v : List TlbEntry) : (s.setTlb r v).zegus = s.zegus := rfl
@[simp] theorem setTlb_partner (r : Nat) (v : List TlbEntry) : (s.setTlb r v).partner = s.partner := rfl

/-! ## setCount -/

@[simp] theorem setCount_pending (i : Nat) (v : NetCount) : (s.setCount i v).pending = s.pending := rfl
@[simp] theorem setCount_variant (i : Nat) (v : NetCount) : (s.setCount i v).variant = s.variant := rfl
@[simp] theorem setCount_free (i : Nat) (v : NetCount) : (s.setCount i v).free = s.free := rfl
@[simp] theorem setCount_ltc (i : Nat) (v : NetCount) : (s.setCount i v).ltc = s.ltc := rfl
@[simp] theorem setCount_fresh (i : Nat) (v : NetCount) : (s.setCount i v).fresh = s.fresh := rfl
@[simp] theorem setCount_beats (i : Nat) (v : NetCount) : (s.setCount i v).beats = s.beats := rfl
@[simp] theorem setCount_ens (i : Nat) (v : NetCount) : (s.setCount i v).ens = s.ens := rfl
@[simp] theorem setCount_banks (i : Nat) (v : NetCount) : (s.setCount i v).banks = s.banks := rfl
@[simp] theorem setCount_lastBank (i : Nat) (v : NetCount) : (s.setCount i v).lastBank = s.lastBank := rfl
@[simp] theorem setCount_tiles (i : Nat) (v : NetCount) : (s.setCount i v).tiles = s.tiles := rfl
@[simp] theorem setCount_tstore (i : Nat) (v : NetCount) : (s.setCount i v).tstore = s.tstore := rfl
@[simp] theorem setCount_tpoison (i : Nat) (v : NetCount) : (s.setCount i v).tpoison = s.tpoison := rfl
@[simp] theorem setCount_tfixed (i : Nat) (v : NetCount) : (s.setCount i v).tfixed = s.tfixed := rfl
@[simp] theorem setCount_tserv (i : Nat) (v : NetCount) : (s.setCount i v).tserv = s.tserv := rfl
@[simp] theorem setCount_sserv (i : Nat) (v : NetCount) : (s.setCount i v).sserv = s.sserv := rfl
@[simp] theorem setCount_tspares (i : Nat) (v : NetCount) : (s.setCount i v).tspares = s.tspares := rfl
@[simp] theorem setCount_sspares (i : Nat) (v : NetCount) : (s.setCount i v).sspares = s.sspares := rfl
@[simp] theorem setCount_ses (i : Nat) (v : NetCount) : (s.setCount i v).ses = s.ses := rfl
@[simp] theorem setCount_sync (i : Nat) (v : NetCount) : (s.setCount i v).sync = s.sync := rfl
@[simp] theorem setCount_remote (i : Nat) (v : NetCount) : (s.setCount i v).remote = s.remote := rfl
@[simp] theorem setCount_mses (i : Nat) (v : NetCount) : (s.setCount i v).mses = s.mses := rfl
@[simp] theorem setCount_clusters (i : Nat) (v : NetCount) : (s.setCount i v).clusters = s.clusters := rfl
@[simp] theorem setCount_hbm (i : Nat) (v : NetCount) : (s.setCount i v).hbm = s.hbm := rfl
@[simp] theorem setCount_hpoison (i : Nat) (v : NetCount) : (s.setCount i v).hpoison = s.hpoison := rfl
@[simp] theorem setCount_hfixed (i : Nat) (v : NetCount) : (s.setCount i v).hfixed = s.hfixed := rfl
@[simp] theorem setCount_herr (i : Nat) (v : NetCount) : (s.setCount i v).herr = s.herr := rfl
@[simp] theorem setCount_terr (i : Nat) (v : NetCount) : (s.setCount i v).terr = s.terr := rfl
@[simp] theorem setCount_pcs (i : Nat) (v : NetCount) : (s.setCount i v).pcs = s.pcs := rfl
@[simp] theorem setCount_hstack (i : Nat) (v : NetCount) : (s.setCount i v).hstack = s.hstack := rfl
@[simp] theorem setCount_tlbs (i : Nat) (v : NetCount) : (s.setCount i v).tlbs = s.tlbs := rfl
@[simp] theorem setCount_walkers (i : Nat) (v : NetCount) : (s.setCount i v).walkers = s.walkers := rfl
@[simp] theorem setCount_net (i : Nat) (v : NetCount) : (s.setCount i v).net = s.net := rfl
@[simp] theorem setCount_era (i : Nat) (v : NetCount) : (s.setCount i v).era = s.era := rfl
@[simp] theorem setCount_memRegion (i : Nat) (v : NetCount) : (s.setCount i v).memRegion = s.memRegion := rfl
@[simp] theorem setCount_memRej (i : Nat) (v : NetCount) : (s.setCount i v).memRej = s.memRej := rfl
@[simp] theorem setCount_astBase (i : Nat) (v : NetCount) : (s.setCount i v).astBase = s.astBase := rfl
@[simp] theorem setCount_astRej (i : Nat) (v : NetCount) : (s.setCount i v).astRej = s.astRej := rfl
@[simp] theorem setCount_sample (i : Nat) (v : NetCount) : (s.setCount i v).sample = s.sample := rfl
@[simp] theorem setCount_windows (i : Nat) (v : NetCount) : (s.setCount i v).windows = s.windows := rfl
@[simp] theorem setCount_counts (i : Nat) (v : NetCount) : (s.setCount i v).counts = s.counts.set {} i v := rfl
@[simp] theorem setCount_snapshot (i : Nat) (v : NetCount) : (s.setCount i v).snapshot = s.snapshot := rfl
@[simp] theorem setCount_snapWin (i : Nat) (v : NetCount) : (s.setCount i v).snapWin = s.snapWin := rfl
@[simp] theorem setCount_waits (i : Nat) (v : NetCount) : (s.setCount i v).waits = s.waits := rfl
@[simp] theorem setCount_slotWaits (i : Nat) (v : NetCount) : (s.setCount i v).slotWaits = s.slotWaits := rfl
@[simp] theorem setCount_resends (i : Nat) (v : NetCount) : (s.setCount i v).resends = s.resends := rfl
@[simp] theorem setCount_winResends (i : Nat) (v : NetCount) : (s.setCount i v).winResends = s.winResends := rfl
@[simp] theorem setCount_gws (i : Nat) (v : NetCount) : (s.setCount i v).gws = s.gws := rfl
@[simp] theorem setCount_dsps (i : Nat) (v : NetCount) : (s.setCount i v).dsps = s.dsps := rfl
@[simp] theorem setCount_fclkRej (i : Nat) (v : NetCount) : (s.setCount i v).fclkRej = s.fclkRej := rfl
@[simp] theorem setCount_regions (i : Nat) (v : NetCount) : (s.setCount i v).regions = s.regions := rfl
@[simp] theorem setCount_bram (i : Nat) (v : NetCount) : (s.setCount i v).bram = s.bram := rfl
@[simp] theorem setCount_flops (i : Nat) (v : NetCount) : (s.setCount i v).flops = s.flops := rfl
@[simp] theorem setCount_logic (i : Nat) (v : NetCount) : (s.setCount i v).logic = s.logic := rfl
@[simp] theorem setCount_loader (i : Nat) (v : NetCount) : (s.setCount i v).loader = s.loader := rfl
@[simp] theorem setCount_health (i : Nat) (v : NetCount) : (s.setCount i v).health = s.health := rfl
@[simp] theorem setCount_rst (i : Nat) (v : NetCount) : (s.setCount i v).rst = s.rst := rfl
@[simp] theorem setCount_gov (i : Nat) (v : NetCount) : (s.setCount i v).gov = s.gov := rfl
@[simp] theorem setCount_pins (i : Nat) (v : NetCount) : (s.setCount i v).pins = s.pins := rfl
@[simp] theorem setCount_keeper (i : Nat) (v : NetCount) : (s.setCount i v).keeper = s.keeper := rfl
@[simp] theorem setCount_sec (i : Nat) (v : NetCount) : (s.setCount i v).sec = s.sec := rfl
@[simp] theorem setCount_dbg (i : Nat) (v : NetCount) : (s.setCount i v).dbg = s.dbg := rfl
@[simp] theorem setCount_fns (i : Nat) (v : NetCount) : (s.setCount i v).fns = s.fns := rfl
@[simp] theorem setCount_ports (i : Nat) (v : NetCount) : (s.setCount i v).ports = s.ports := rfl
@[simp] theorem setCount_chans (i : Nat) (v : NetCount) : (s.setCount i v).chans = s.chans := rfl
@[simp] theorem setCount_cacheLru (i : Nat) (v : NetCount) : (s.setCount i v).cacheLru = s.cacheLru := rfl
@[simp] theorem setCount_mapWaits (i : Nat) (v : NetCount) : (s.setCount i v).mapWaits = s.mapWaits := rfl
@[simp] theorem setCount_hostMem (i : Nat) (v : NetCount) : (s.setCount i v).hostMem = s.hostMem := rfl
@[simp] theorem setCount_hostLost (i : Nat) (v : NetCount) : (s.setCount i v).hostLost = s.hostLost := rfl
@[simp] theorem setCount_msix (i : Nat) (v : NetCount) : (s.setCount i v).msix = s.msix := rfl
@[simp] theorem setCount_devId (i : Nat) (v : NetCount) : (s.setCount i v).devId = s.devId := rfl
@[simp] theorem setCount_zegus (i : Nat) (v : NetCount) : (s.setCount i v).zegus = s.zegus := rfl
@[simp] theorem setCount_partner (i : Nat) (v : NetCount) : (s.setCount i v).partner = s.partner := rfl

/-! ## setGw -/

@[simp] theorem setGw_pending (n : Nat) (v : Gateway) : (s.setGw n v).pending = s.pending := rfl
@[simp] theorem setGw_variant (n : Nat) (v : Gateway) : (s.setGw n v).variant = s.variant := rfl
@[simp] theorem setGw_free (n : Nat) (v : Gateway) : (s.setGw n v).free = s.free := rfl
@[simp] theorem setGw_ltc (n : Nat) (v : Gateway) : (s.setGw n v).ltc = s.ltc := rfl
@[simp] theorem setGw_fresh (n : Nat) (v : Gateway) : (s.setGw n v).fresh = s.fresh := rfl
@[simp] theorem setGw_beats (n : Nat) (v : Gateway) : (s.setGw n v).beats = s.beats := rfl
@[simp] theorem setGw_ens (n : Nat) (v : Gateway) : (s.setGw n v).ens = s.ens := rfl
@[simp] theorem setGw_banks (n : Nat) (v : Gateway) : (s.setGw n v).banks = s.banks := rfl
@[simp] theorem setGw_lastBank (n : Nat) (v : Gateway) : (s.setGw n v).lastBank = s.lastBank := rfl
@[simp] theorem setGw_tiles (n : Nat) (v : Gateway) : (s.setGw n v).tiles = s.tiles := rfl
@[simp] theorem setGw_tstore (n : Nat) (v : Gateway) : (s.setGw n v).tstore = s.tstore := rfl
@[simp] theorem setGw_tpoison (n : Nat) (v : Gateway) : (s.setGw n v).tpoison = s.tpoison := rfl
@[simp] theorem setGw_tfixed (n : Nat) (v : Gateway) : (s.setGw n v).tfixed = s.tfixed := rfl
@[simp] theorem setGw_tserv (n : Nat) (v : Gateway) : (s.setGw n v).tserv = s.tserv := rfl
@[simp] theorem setGw_sserv (n : Nat) (v : Gateway) : (s.setGw n v).sserv = s.sserv := rfl
@[simp] theorem setGw_tspares (n : Nat) (v : Gateway) : (s.setGw n v).tspares = s.tspares := rfl
@[simp] theorem setGw_sspares (n : Nat) (v : Gateway) : (s.setGw n v).sspares = s.sspares := rfl
@[simp] theorem setGw_ses (n : Nat) (v : Gateway) : (s.setGw n v).ses = s.ses := rfl
@[simp] theorem setGw_sync (n : Nat) (v : Gateway) : (s.setGw n v).sync = s.sync := rfl
@[simp] theorem setGw_remote (n : Nat) (v : Gateway) : (s.setGw n v).remote = s.remote := rfl
@[simp] theorem setGw_mses (n : Nat) (v : Gateway) : (s.setGw n v).mses = s.mses := rfl
@[simp] theorem setGw_clusters (n : Nat) (v : Gateway) : (s.setGw n v).clusters = s.clusters := rfl
@[simp] theorem setGw_hbm (n : Nat) (v : Gateway) : (s.setGw n v).hbm = s.hbm := rfl
@[simp] theorem setGw_hpoison (n : Nat) (v : Gateway) : (s.setGw n v).hpoison = s.hpoison := rfl
@[simp] theorem setGw_hfixed (n : Nat) (v : Gateway) : (s.setGw n v).hfixed = s.hfixed := rfl
@[simp] theorem setGw_herr (n : Nat) (v : Gateway) : (s.setGw n v).herr = s.herr := rfl
@[simp] theorem setGw_terr (n : Nat) (v : Gateway) : (s.setGw n v).terr = s.terr := rfl
@[simp] theorem setGw_pcs (n : Nat) (v : Gateway) : (s.setGw n v).pcs = s.pcs := rfl
@[simp] theorem setGw_hstack (n : Nat) (v : Gateway) : (s.setGw n v).hstack = s.hstack := rfl
@[simp] theorem setGw_tlbs (n : Nat) (v : Gateway) : (s.setGw n v).tlbs = s.tlbs := rfl
@[simp] theorem setGw_walkers (n : Nat) (v : Gateway) : (s.setGw n v).walkers = s.walkers := rfl
@[simp] theorem setGw_net (n : Nat) (v : Gateway) : (s.setGw n v).net = s.net := rfl
@[simp] theorem setGw_era (n : Nat) (v : Gateway) : (s.setGw n v).era = s.era := rfl
@[simp] theorem setGw_memRegion (n : Nat) (v : Gateway) : (s.setGw n v).memRegion = s.memRegion := rfl
@[simp] theorem setGw_memRej (n : Nat) (v : Gateway) : (s.setGw n v).memRej = s.memRej := rfl
@[simp] theorem setGw_astBase (n : Nat) (v : Gateway) : (s.setGw n v).astBase = s.astBase := rfl
@[simp] theorem setGw_astRej (n : Nat) (v : Gateway) : (s.setGw n v).astRej = s.astRej := rfl
@[simp] theorem setGw_sample (n : Nat) (v : Gateway) : (s.setGw n v).sample = s.sample := rfl
@[simp] theorem setGw_windows (n : Nat) (v : Gateway) : (s.setGw n v).windows = s.windows := rfl
@[simp] theorem setGw_counts (n : Nat) (v : Gateway) : (s.setGw n v).counts = s.counts := rfl
@[simp] theorem setGw_snapshot (n : Nat) (v : Gateway) : (s.setGw n v).snapshot = s.snapshot := rfl
@[simp] theorem setGw_snapWin (n : Nat) (v : Gateway) : (s.setGw n v).snapWin = s.snapWin := rfl
@[simp] theorem setGw_waits (n : Nat) (v : Gateway) : (s.setGw n v).waits = s.waits := rfl
@[simp] theorem setGw_slotWaits (n : Nat) (v : Gateway) : (s.setGw n v).slotWaits = s.slotWaits := rfl
@[simp] theorem setGw_resends (n : Nat) (v : Gateway) : (s.setGw n v).resends = s.resends := rfl
@[simp] theorem setGw_winResends (n : Nat) (v : Gateway) : (s.setGw n v).winResends = s.winResends := rfl
@[simp] theorem setGw_gws (n : Nat) (v : Gateway) : (s.setGw n v).gws = s.gws.set {} n v := rfl
@[simp] theorem setGw_dsps (n : Nat) (v : Gateway) : (s.setGw n v).dsps = s.dsps := rfl
@[simp] theorem setGw_fclkRej (n : Nat) (v : Gateway) : (s.setGw n v).fclkRej = s.fclkRej := rfl
@[simp] theorem setGw_regions (n : Nat) (v : Gateway) : (s.setGw n v).regions = s.regions := rfl
@[simp] theorem setGw_bram (n : Nat) (v : Gateway) : (s.setGw n v).bram = s.bram := rfl
@[simp] theorem setGw_flops (n : Nat) (v : Gateway) : (s.setGw n v).flops = s.flops := rfl
@[simp] theorem setGw_logic (n : Nat) (v : Gateway) : (s.setGw n v).logic = s.logic := rfl
@[simp] theorem setGw_loader (n : Nat) (v : Gateway) : (s.setGw n v).loader = s.loader := rfl
@[simp] theorem setGw_health (n : Nat) (v : Gateway) : (s.setGw n v).health = s.health := rfl
@[simp] theorem setGw_rst (n : Nat) (v : Gateway) : (s.setGw n v).rst = s.rst := rfl
@[simp] theorem setGw_gov (n : Nat) (v : Gateway) : (s.setGw n v).gov = s.gov := rfl
@[simp] theorem setGw_pins (n : Nat) (v : Gateway) : (s.setGw n v).pins = s.pins := rfl
@[simp] theorem setGw_keeper (n : Nat) (v : Gateway) : (s.setGw n v).keeper = s.keeper := rfl
@[simp] theorem setGw_sec (n : Nat) (v : Gateway) : (s.setGw n v).sec = s.sec := rfl
@[simp] theorem setGw_dbg (n : Nat) (v : Gateway) : (s.setGw n v).dbg = s.dbg := rfl
@[simp] theorem setGw_fns (n : Nat) (v : Gateway) : (s.setGw n v).fns = s.fns := rfl
@[simp] theorem setGw_ports (n : Nat) (v : Gateway) : (s.setGw n v).ports = s.ports := rfl
@[simp] theorem setGw_chans (n : Nat) (v : Gateway) : (s.setGw n v).chans = s.chans := rfl
@[simp] theorem setGw_cacheLru (n : Nat) (v : Gateway) : (s.setGw n v).cacheLru = s.cacheLru := rfl
@[simp] theorem setGw_mapWaits (n : Nat) (v : Gateway) : (s.setGw n v).mapWaits = s.mapWaits := rfl
@[simp] theorem setGw_hostMem (n : Nat) (v : Gateway) : (s.setGw n v).hostMem = s.hostMem := rfl
@[simp] theorem setGw_hostLost (n : Nat) (v : Gateway) : (s.setGw n v).hostLost = s.hostLost := rfl
@[simp] theorem setGw_msix (n : Nat) (v : Gateway) : (s.setGw n v).msix = s.msix := rfl
@[simp] theorem setGw_devId (n : Nat) (v : Gateway) : (s.setGw n v).devId = s.devId := rfl
@[simp] theorem setGw_zegus (n : Nat) (v : Gateway) : (s.setGw n v).zegus = s.zegus := rfl
@[simp] theorem setGw_partner (n : Nat) (v : Gateway) : (s.setGw n v).partner = s.partner := rfl

/-! ## setDsp -/

@[simp] theorem setDsp_pending (n : Nat) (v : Dsp) : (s.setDsp n v).pending = s.pending := rfl
@[simp] theorem setDsp_variant (n : Nat) (v : Dsp) : (s.setDsp n v).variant = s.variant := rfl
@[simp] theorem setDsp_free (n : Nat) (v : Dsp) : (s.setDsp n v).free = s.free := rfl
@[simp] theorem setDsp_ltc (n : Nat) (v : Dsp) : (s.setDsp n v).ltc = s.ltc := rfl
@[simp] theorem setDsp_fresh (n : Nat) (v : Dsp) : (s.setDsp n v).fresh = s.fresh := rfl
@[simp] theorem setDsp_beats (n : Nat) (v : Dsp) : (s.setDsp n v).beats = s.beats := rfl
@[simp] theorem setDsp_ens (n : Nat) (v : Dsp) : (s.setDsp n v).ens = s.ens := rfl
@[simp] theorem setDsp_banks (n : Nat) (v : Dsp) : (s.setDsp n v).banks = s.banks := rfl
@[simp] theorem setDsp_lastBank (n : Nat) (v : Dsp) : (s.setDsp n v).lastBank = s.lastBank := rfl
@[simp] theorem setDsp_tiles (n : Nat) (v : Dsp) : (s.setDsp n v).tiles = s.tiles := rfl
@[simp] theorem setDsp_tstore (n : Nat) (v : Dsp) : (s.setDsp n v).tstore = s.tstore := rfl
@[simp] theorem setDsp_tpoison (n : Nat) (v : Dsp) : (s.setDsp n v).tpoison = s.tpoison := rfl
@[simp] theorem setDsp_tfixed (n : Nat) (v : Dsp) : (s.setDsp n v).tfixed = s.tfixed := rfl
@[simp] theorem setDsp_tserv (n : Nat) (v : Dsp) : (s.setDsp n v).tserv = s.tserv := rfl
@[simp] theorem setDsp_sserv (n : Nat) (v : Dsp) : (s.setDsp n v).sserv = s.sserv := rfl
@[simp] theorem setDsp_tspares (n : Nat) (v : Dsp) : (s.setDsp n v).tspares = s.tspares := rfl
@[simp] theorem setDsp_sspares (n : Nat) (v : Dsp) : (s.setDsp n v).sspares = s.sspares := rfl
@[simp] theorem setDsp_ses (n : Nat) (v : Dsp) : (s.setDsp n v).ses = s.ses := rfl
@[simp] theorem setDsp_sync (n : Nat) (v : Dsp) : (s.setDsp n v).sync = s.sync := rfl
@[simp] theorem setDsp_remote (n : Nat) (v : Dsp) : (s.setDsp n v).remote = s.remote := rfl
@[simp] theorem setDsp_mses (n : Nat) (v : Dsp) : (s.setDsp n v).mses = s.mses := rfl
@[simp] theorem setDsp_clusters (n : Nat) (v : Dsp) : (s.setDsp n v).clusters = s.clusters := rfl
@[simp] theorem setDsp_hbm (n : Nat) (v : Dsp) : (s.setDsp n v).hbm = s.hbm := rfl
@[simp] theorem setDsp_hpoison (n : Nat) (v : Dsp) : (s.setDsp n v).hpoison = s.hpoison := rfl
@[simp] theorem setDsp_hfixed (n : Nat) (v : Dsp) : (s.setDsp n v).hfixed = s.hfixed := rfl
@[simp] theorem setDsp_herr (n : Nat) (v : Dsp) : (s.setDsp n v).herr = s.herr := rfl
@[simp] theorem setDsp_terr (n : Nat) (v : Dsp) : (s.setDsp n v).terr = s.terr := rfl
@[simp] theorem setDsp_pcs (n : Nat) (v : Dsp) : (s.setDsp n v).pcs = s.pcs := rfl
@[simp] theorem setDsp_hstack (n : Nat) (v : Dsp) : (s.setDsp n v).hstack = s.hstack := rfl
@[simp] theorem setDsp_tlbs (n : Nat) (v : Dsp) : (s.setDsp n v).tlbs = s.tlbs := rfl
@[simp] theorem setDsp_walkers (n : Nat) (v : Dsp) : (s.setDsp n v).walkers = s.walkers := rfl
@[simp] theorem setDsp_net (n : Nat) (v : Dsp) : (s.setDsp n v).net = s.net := rfl
@[simp] theorem setDsp_era (n : Nat) (v : Dsp) : (s.setDsp n v).era = s.era := rfl
@[simp] theorem setDsp_memRegion (n : Nat) (v : Dsp) : (s.setDsp n v).memRegion = s.memRegion := rfl
@[simp] theorem setDsp_memRej (n : Nat) (v : Dsp) : (s.setDsp n v).memRej = s.memRej := rfl
@[simp] theorem setDsp_astBase (n : Nat) (v : Dsp) : (s.setDsp n v).astBase = s.astBase := rfl
@[simp] theorem setDsp_astRej (n : Nat) (v : Dsp) : (s.setDsp n v).astRej = s.astRej := rfl
@[simp] theorem setDsp_sample (n : Nat) (v : Dsp) : (s.setDsp n v).sample = s.sample := rfl
@[simp] theorem setDsp_windows (n : Nat) (v : Dsp) : (s.setDsp n v).windows = s.windows := rfl
@[simp] theorem setDsp_counts (n : Nat) (v : Dsp) : (s.setDsp n v).counts = s.counts := rfl
@[simp] theorem setDsp_snapshot (n : Nat) (v : Dsp) : (s.setDsp n v).snapshot = s.snapshot := rfl
@[simp] theorem setDsp_snapWin (n : Nat) (v : Dsp) : (s.setDsp n v).snapWin = s.snapWin := rfl
@[simp] theorem setDsp_waits (n : Nat) (v : Dsp) : (s.setDsp n v).waits = s.waits := rfl
@[simp] theorem setDsp_slotWaits (n : Nat) (v : Dsp) : (s.setDsp n v).slotWaits = s.slotWaits := rfl
@[simp] theorem setDsp_resends (n : Nat) (v : Dsp) : (s.setDsp n v).resends = s.resends := rfl
@[simp] theorem setDsp_winResends (n : Nat) (v : Dsp) : (s.setDsp n v).winResends = s.winResends := rfl
@[simp] theorem setDsp_gws (n : Nat) (v : Dsp) : (s.setDsp n v).gws = s.gws := rfl
@[simp] theorem setDsp_dsps (n : Nat) (v : Dsp) : (s.setDsp n v).dsps = s.dsps.set {} n v := rfl
@[simp] theorem setDsp_fclkRej (n : Nat) (v : Dsp) : (s.setDsp n v).fclkRej = s.fclkRej := rfl
@[simp] theorem setDsp_regions (n : Nat) (v : Dsp) : (s.setDsp n v).regions = s.regions := rfl
@[simp] theorem setDsp_bram (n : Nat) (v : Dsp) : (s.setDsp n v).bram = s.bram := rfl
@[simp] theorem setDsp_flops (n : Nat) (v : Dsp) : (s.setDsp n v).flops = s.flops := rfl
@[simp] theorem setDsp_logic (n : Nat) (v : Dsp) : (s.setDsp n v).logic = s.logic := rfl
@[simp] theorem setDsp_loader (n : Nat) (v : Dsp) : (s.setDsp n v).loader = s.loader := rfl
@[simp] theorem setDsp_health (n : Nat) (v : Dsp) : (s.setDsp n v).health = s.health := rfl
@[simp] theorem setDsp_rst (n : Nat) (v : Dsp) : (s.setDsp n v).rst = s.rst := rfl
@[simp] theorem setDsp_gov (n : Nat) (v : Dsp) : (s.setDsp n v).gov = s.gov := rfl
@[simp] theorem setDsp_pins (n : Nat) (v : Dsp) : (s.setDsp n v).pins = s.pins := rfl
@[simp] theorem setDsp_keeper (n : Nat) (v : Dsp) : (s.setDsp n v).keeper = s.keeper := rfl
@[simp] theorem setDsp_sec (n : Nat) (v : Dsp) : (s.setDsp n v).sec = s.sec := rfl
@[simp] theorem setDsp_dbg (n : Nat) (v : Dsp) : (s.setDsp n v).dbg = s.dbg := rfl
@[simp] theorem setDsp_fns (n : Nat) (v : Dsp) : (s.setDsp n v).fns = s.fns := rfl
@[simp] theorem setDsp_ports (n : Nat) (v : Dsp) : (s.setDsp n v).ports = s.ports := rfl
@[simp] theorem setDsp_chans (n : Nat) (v : Dsp) : (s.setDsp n v).chans = s.chans := rfl
@[simp] theorem setDsp_cacheLru (n : Nat) (v : Dsp) : (s.setDsp n v).cacheLru = s.cacheLru := rfl
@[simp] theorem setDsp_mapWaits (n : Nat) (v : Dsp) : (s.setDsp n v).mapWaits = s.mapWaits := rfl
@[simp] theorem setDsp_hostMem (n : Nat) (v : Dsp) : (s.setDsp n v).hostMem = s.hostMem := rfl
@[simp] theorem setDsp_hostLost (n : Nat) (v : Dsp) : (s.setDsp n v).hostLost = s.hostLost := rfl
@[simp] theorem setDsp_msix (n : Nat) (v : Dsp) : (s.setDsp n v).msix = s.msix := rfl
@[simp] theorem setDsp_devId (n : Nat) (v : Dsp) : (s.setDsp n v).devId = s.devId := rfl
@[simp] theorem setDsp_zegus (n : Nat) (v : Dsp) : (s.setDsp n v).zegus = s.zegus := rfl
@[simp] theorem setDsp_partner (n : Nat) (v : Dsp) : (s.setDsp n v).partner = s.partner := rfl

/-! ## setRegion -/

@[simp] theorem setRegion_pending (n : Nat) (v : Region) : (s.setRegion n v).pending = s.pending := rfl
@[simp] theorem setRegion_variant (n : Nat) (v : Region) : (s.setRegion n v).variant = s.variant := rfl
@[simp] theorem setRegion_free (n : Nat) (v : Region) : (s.setRegion n v).free = s.free := rfl
@[simp] theorem setRegion_ltc (n : Nat) (v : Region) : (s.setRegion n v).ltc = s.ltc := rfl
@[simp] theorem setRegion_fresh (n : Nat) (v : Region) : (s.setRegion n v).fresh = s.fresh := rfl
@[simp] theorem setRegion_beats (n : Nat) (v : Region) : (s.setRegion n v).beats = s.beats := rfl
@[simp] theorem setRegion_ens (n : Nat) (v : Region) : (s.setRegion n v).ens = s.ens := rfl
@[simp] theorem setRegion_banks (n : Nat) (v : Region) : (s.setRegion n v).banks = s.banks := rfl
@[simp] theorem setRegion_lastBank (n : Nat) (v : Region) : (s.setRegion n v).lastBank = s.lastBank := rfl
@[simp] theorem setRegion_tiles (n : Nat) (v : Region) : (s.setRegion n v).tiles = s.tiles := rfl
@[simp] theorem setRegion_tstore (n : Nat) (v : Region) : (s.setRegion n v).tstore = s.tstore := rfl
@[simp] theorem setRegion_tpoison (n : Nat) (v : Region) : (s.setRegion n v).tpoison = s.tpoison := rfl
@[simp] theorem setRegion_tfixed (n : Nat) (v : Region) : (s.setRegion n v).tfixed = s.tfixed := rfl
@[simp] theorem setRegion_tserv (n : Nat) (v : Region) : (s.setRegion n v).tserv = s.tserv := rfl
@[simp] theorem setRegion_sserv (n : Nat) (v : Region) : (s.setRegion n v).sserv = s.sserv := rfl
@[simp] theorem setRegion_tspares (n : Nat) (v : Region) : (s.setRegion n v).tspares = s.tspares := rfl
@[simp] theorem setRegion_sspares (n : Nat) (v : Region) : (s.setRegion n v).sspares = s.sspares := rfl
@[simp] theorem setRegion_ses (n : Nat) (v : Region) : (s.setRegion n v).ses = s.ses := rfl
@[simp] theorem setRegion_sync (n : Nat) (v : Region) : (s.setRegion n v).sync = s.sync := rfl
@[simp] theorem setRegion_remote (n : Nat) (v : Region) : (s.setRegion n v).remote = s.remote := rfl
@[simp] theorem setRegion_mses (n : Nat) (v : Region) : (s.setRegion n v).mses = s.mses := rfl
@[simp] theorem setRegion_clusters (n : Nat) (v : Region) : (s.setRegion n v).clusters = s.clusters := rfl
@[simp] theorem setRegion_hbm (n : Nat) (v : Region) : (s.setRegion n v).hbm = s.hbm := rfl
@[simp] theorem setRegion_hpoison (n : Nat) (v : Region) : (s.setRegion n v).hpoison = s.hpoison := rfl
@[simp] theorem setRegion_hfixed (n : Nat) (v : Region) : (s.setRegion n v).hfixed = s.hfixed := rfl
@[simp] theorem setRegion_herr (n : Nat) (v : Region) : (s.setRegion n v).herr = s.herr := rfl
@[simp] theorem setRegion_terr (n : Nat) (v : Region) : (s.setRegion n v).terr = s.terr := rfl
@[simp] theorem setRegion_pcs (n : Nat) (v : Region) : (s.setRegion n v).pcs = s.pcs := rfl
@[simp] theorem setRegion_hstack (n : Nat) (v : Region) : (s.setRegion n v).hstack = s.hstack := rfl
@[simp] theorem setRegion_tlbs (n : Nat) (v : Region) : (s.setRegion n v).tlbs = s.tlbs := rfl
@[simp] theorem setRegion_walkers (n : Nat) (v : Region) : (s.setRegion n v).walkers = s.walkers := rfl
@[simp] theorem setRegion_net (n : Nat) (v : Region) : (s.setRegion n v).net = s.net := rfl
@[simp] theorem setRegion_era (n : Nat) (v : Region) : (s.setRegion n v).era = s.era := rfl
@[simp] theorem setRegion_memRegion (n : Nat) (v : Region) : (s.setRegion n v).memRegion = s.memRegion := rfl
@[simp] theorem setRegion_memRej (n : Nat) (v : Region) : (s.setRegion n v).memRej = s.memRej := rfl
@[simp] theorem setRegion_astBase (n : Nat) (v : Region) : (s.setRegion n v).astBase = s.astBase := rfl
@[simp] theorem setRegion_astRej (n : Nat) (v : Region) : (s.setRegion n v).astRej = s.astRej := rfl
@[simp] theorem setRegion_sample (n : Nat) (v : Region) : (s.setRegion n v).sample = s.sample := rfl
@[simp] theorem setRegion_windows (n : Nat) (v : Region) : (s.setRegion n v).windows = s.windows := rfl
@[simp] theorem setRegion_counts (n : Nat) (v : Region) : (s.setRegion n v).counts = s.counts := rfl
@[simp] theorem setRegion_snapshot (n : Nat) (v : Region) : (s.setRegion n v).snapshot = s.snapshot := rfl
@[simp] theorem setRegion_snapWin (n : Nat) (v : Region) : (s.setRegion n v).snapWin = s.snapWin := rfl
@[simp] theorem setRegion_waits (n : Nat) (v : Region) : (s.setRegion n v).waits = s.waits := rfl
@[simp] theorem setRegion_slotWaits (n : Nat) (v : Region) : (s.setRegion n v).slotWaits = s.slotWaits := rfl
@[simp] theorem setRegion_resends (n : Nat) (v : Region) : (s.setRegion n v).resends = s.resends := rfl
@[simp] theorem setRegion_winResends (n : Nat) (v : Region) : (s.setRegion n v).winResends = s.winResends := rfl
@[simp] theorem setRegion_gws (n : Nat) (v : Region) : (s.setRegion n v).gws = s.gws := rfl
@[simp] theorem setRegion_dsps (n : Nat) (v : Region) : (s.setRegion n v).dsps = s.dsps := rfl
@[simp] theorem setRegion_fclkRej (n : Nat) (v : Region) : (s.setRegion n v).fclkRej = s.fclkRej := rfl
@[simp] theorem setRegion_regions (n : Nat) (v : Region) : (s.setRegion n v).regions = s.regions.set {} n v := rfl
@[simp] theorem setRegion_bram (n : Nat) (v : Region) : (s.setRegion n v).bram = s.bram := rfl
@[simp] theorem setRegion_flops (n : Nat) (v : Region) : (s.setRegion n v).flops = s.flops := rfl
@[simp] theorem setRegion_logic (n : Nat) (v : Region) : (s.setRegion n v).logic = s.logic := rfl
@[simp] theorem setRegion_loader (n : Nat) (v : Region) : (s.setRegion n v).loader = s.loader := rfl
@[simp] theorem setRegion_health (n : Nat) (v : Region) : (s.setRegion n v).health = s.health := rfl
@[simp] theorem setRegion_rst (n : Nat) (v : Region) : (s.setRegion n v).rst = s.rst := rfl
@[simp] theorem setRegion_gov (n : Nat) (v : Region) : (s.setRegion n v).gov = s.gov := rfl
@[simp] theorem setRegion_pins (n : Nat) (v : Region) : (s.setRegion n v).pins = s.pins := rfl
@[simp] theorem setRegion_keeper (n : Nat) (v : Region) : (s.setRegion n v).keeper = s.keeper := rfl
@[simp] theorem setRegion_sec (n : Nat) (v : Region) : (s.setRegion n v).sec = s.sec := rfl
@[simp] theorem setRegion_dbg (n : Nat) (v : Region) : (s.setRegion n v).dbg = s.dbg := rfl
@[simp] theorem setRegion_fns (n : Nat) (v : Region) : (s.setRegion n v).fns = s.fns := rfl
@[simp] theorem setRegion_ports (n : Nat) (v : Region) : (s.setRegion n v).ports = s.ports := rfl
@[simp] theorem setRegion_chans (n : Nat) (v : Region) : (s.setRegion n v).chans = s.chans := rfl
@[simp] theorem setRegion_cacheLru (n : Nat) (v : Region) : (s.setRegion n v).cacheLru = s.cacheLru := rfl
@[simp] theorem setRegion_mapWaits (n : Nat) (v : Region) : (s.setRegion n v).mapWaits = s.mapWaits := rfl
@[simp] theorem setRegion_hostMem (n : Nat) (v : Region) : (s.setRegion n v).hostMem = s.hostMem := rfl
@[simp] theorem setRegion_hostLost (n : Nat) (v : Region) : (s.setRegion n v).hostLost = s.hostLost := rfl
@[simp] theorem setRegion_msix (n : Nat) (v : Region) : (s.setRegion n v).msix = s.msix := rfl
@[simp] theorem setRegion_devId (n : Nat) (v : Region) : (s.setRegion n v).devId = s.devId := rfl
@[simp] theorem setRegion_zegus (n : Nat) (v : Region) : (s.setRegion n v).zegus = s.zegus := rfl
@[simp] theorem setRegion_partner (n : Nat) (v : Region) : (s.setRegion n v).partner = s.partner := rfl

/-! ## setHl -/

@[simp] theorem setHl_pending (i : Nat) (v : Health) : (s.setHl i v).pending = s.pending := rfl
@[simp] theorem setHl_variant (i : Nat) (v : Health) : (s.setHl i v).variant = s.variant := rfl
@[simp] theorem setHl_free (i : Nat) (v : Health) : (s.setHl i v).free = s.free := rfl
@[simp] theorem setHl_ltc (i : Nat) (v : Health) : (s.setHl i v).ltc = s.ltc := rfl
@[simp] theorem setHl_fresh (i : Nat) (v : Health) : (s.setHl i v).fresh = s.fresh := rfl
@[simp] theorem setHl_beats (i : Nat) (v : Health) : (s.setHl i v).beats = s.beats := rfl
@[simp] theorem setHl_ens (i : Nat) (v : Health) : (s.setHl i v).ens = s.ens := rfl
@[simp] theorem setHl_banks (i : Nat) (v : Health) : (s.setHl i v).banks = s.banks := rfl
@[simp] theorem setHl_lastBank (i : Nat) (v : Health) : (s.setHl i v).lastBank = s.lastBank := rfl
@[simp] theorem setHl_tiles (i : Nat) (v : Health) : (s.setHl i v).tiles = s.tiles := rfl
@[simp] theorem setHl_tstore (i : Nat) (v : Health) : (s.setHl i v).tstore = s.tstore := rfl
@[simp] theorem setHl_tpoison (i : Nat) (v : Health) : (s.setHl i v).tpoison = s.tpoison := rfl
@[simp] theorem setHl_tfixed (i : Nat) (v : Health) : (s.setHl i v).tfixed = s.tfixed := rfl
@[simp] theorem setHl_tserv (i : Nat) (v : Health) : (s.setHl i v).tserv = s.tserv := rfl
@[simp] theorem setHl_sserv (i : Nat) (v : Health) : (s.setHl i v).sserv = s.sserv := rfl
@[simp] theorem setHl_tspares (i : Nat) (v : Health) : (s.setHl i v).tspares = s.tspares := rfl
@[simp] theorem setHl_sspares (i : Nat) (v : Health) : (s.setHl i v).sspares = s.sspares := rfl
@[simp] theorem setHl_ses (i : Nat) (v : Health) : (s.setHl i v).ses = s.ses := rfl
@[simp] theorem setHl_sync (i : Nat) (v : Health) : (s.setHl i v).sync = s.sync := rfl
@[simp] theorem setHl_remote (i : Nat) (v : Health) : (s.setHl i v).remote = s.remote := rfl
@[simp] theorem setHl_mses (i : Nat) (v : Health) : (s.setHl i v).mses = s.mses := rfl
@[simp] theorem setHl_clusters (i : Nat) (v : Health) : (s.setHl i v).clusters = s.clusters := rfl
@[simp] theorem setHl_hbm (i : Nat) (v : Health) : (s.setHl i v).hbm = s.hbm := rfl
@[simp] theorem setHl_hpoison (i : Nat) (v : Health) : (s.setHl i v).hpoison = s.hpoison := rfl
@[simp] theorem setHl_hfixed (i : Nat) (v : Health) : (s.setHl i v).hfixed = s.hfixed := rfl
@[simp] theorem setHl_herr (i : Nat) (v : Health) : (s.setHl i v).herr = s.herr := rfl
@[simp] theorem setHl_terr (i : Nat) (v : Health) : (s.setHl i v).terr = s.terr := rfl
@[simp] theorem setHl_pcs (i : Nat) (v : Health) : (s.setHl i v).pcs = s.pcs := rfl
@[simp] theorem setHl_hstack (i : Nat) (v : Health) : (s.setHl i v).hstack = s.hstack := rfl
@[simp] theorem setHl_tlbs (i : Nat) (v : Health) : (s.setHl i v).tlbs = s.tlbs := rfl
@[simp] theorem setHl_walkers (i : Nat) (v : Health) : (s.setHl i v).walkers = s.walkers := rfl
@[simp] theorem setHl_net (i : Nat) (v : Health) : (s.setHl i v).net = s.net := rfl
@[simp] theorem setHl_era (i : Nat) (v : Health) : (s.setHl i v).era = s.era := rfl
@[simp] theorem setHl_memRegion (i : Nat) (v : Health) : (s.setHl i v).memRegion = s.memRegion := rfl
@[simp] theorem setHl_memRej (i : Nat) (v : Health) : (s.setHl i v).memRej = s.memRej := rfl
@[simp] theorem setHl_astBase (i : Nat) (v : Health) : (s.setHl i v).astBase = s.astBase := rfl
@[simp] theorem setHl_astRej (i : Nat) (v : Health) : (s.setHl i v).astRej = s.astRej := rfl
@[simp] theorem setHl_sample (i : Nat) (v : Health) : (s.setHl i v).sample = s.sample := rfl
@[simp] theorem setHl_windows (i : Nat) (v : Health) : (s.setHl i v).windows = s.windows := rfl
@[simp] theorem setHl_counts (i : Nat) (v : Health) : (s.setHl i v).counts = s.counts := rfl
@[simp] theorem setHl_snapshot (i : Nat) (v : Health) : (s.setHl i v).snapshot = s.snapshot := rfl
@[simp] theorem setHl_snapWin (i : Nat) (v : Health) : (s.setHl i v).snapWin = s.snapWin := rfl
@[simp] theorem setHl_waits (i : Nat) (v : Health) : (s.setHl i v).waits = s.waits := rfl
@[simp] theorem setHl_slotWaits (i : Nat) (v : Health) : (s.setHl i v).slotWaits = s.slotWaits := rfl
@[simp] theorem setHl_resends (i : Nat) (v : Health) : (s.setHl i v).resends = s.resends := rfl
@[simp] theorem setHl_winResends (i : Nat) (v : Health) : (s.setHl i v).winResends = s.winResends := rfl
@[simp] theorem setHl_gws (i : Nat) (v : Health) : (s.setHl i v).gws = s.gws := rfl
@[simp] theorem setHl_dsps (i : Nat) (v : Health) : (s.setHl i v).dsps = s.dsps := rfl
@[simp] theorem setHl_fclkRej (i : Nat) (v : Health) : (s.setHl i v).fclkRej = s.fclkRej := rfl
@[simp] theorem setHl_regions (i : Nat) (v : Health) : (s.setHl i v).regions = s.regions := rfl
@[simp] theorem setHl_bram (i : Nat) (v : Health) : (s.setHl i v).bram = s.bram := rfl
@[simp] theorem setHl_flops (i : Nat) (v : Health) : (s.setHl i v).flops = s.flops := rfl
@[simp] theorem setHl_logic (i : Nat) (v : Health) : (s.setHl i v).logic = s.logic := rfl
@[simp] theorem setHl_loader (i : Nat) (v : Health) : (s.setHl i v).loader = s.loader := rfl
@[simp] theorem setHl_health (i : Nat) (v : Health) : (s.setHl i v).health = s.health.set {} i v := rfl
@[simp] theorem setHl_rst (i : Nat) (v : Health) : (s.setHl i v).rst = s.rst := rfl
@[simp] theorem setHl_gov (i : Nat) (v : Health) : (s.setHl i v).gov = s.gov := rfl
@[simp] theorem setHl_pins (i : Nat) (v : Health) : (s.setHl i v).pins = s.pins := rfl
@[simp] theorem setHl_keeper (i : Nat) (v : Health) : (s.setHl i v).keeper = s.keeper := rfl
@[simp] theorem setHl_sec (i : Nat) (v : Health) : (s.setHl i v).sec = s.sec := rfl
@[simp] theorem setHl_dbg (i : Nat) (v : Health) : (s.setHl i v).dbg = s.dbg := rfl
@[simp] theorem setHl_fns (i : Nat) (v : Health) : (s.setHl i v).fns = s.fns := rfl
@[simp] theorem setHl_ports (i : Nat) (v : Health) : (s.setHl i v).ports = s.ports := rfl
@[simp] theorem setHl_chans (i : Nat) (v : Health) : (s.setHl i v).chans = s.chans := rfl
@[simp] theorem setHl_cacheLru (i : Nat) (v : Health) : (s.setHl i v).cacheLru = s.cacheLru := rfl
@[simp] theorem setHl_mapWaits (i : Nat) (v : Health) : (s.setHl i v).mapWaits = s.mapWaits := rfl
@[simp] theorem setHl_hostMem (i : Nat) (v : Health) : (s.setHl i v).hostMem = s.hostMem := rfl
@[simp] theorem setHl_hostLost (i : Nat) (v : Health) : (s.setHl i v).hostLost = s.hostLost := rfl
@[simp] theorem setHl_msix (i : Nat) (v : Health) : (s.setHl i v).msix = s.msix := rfl
@[simp] theorem setHl_devId (i : Nat) (v : Health) : (s.setHl i v).devId = s.devId := rfl
@[simp] theorem setHl_zegus (i : Nat) (v : Health) : (s.setHl i v).zegus = s.zegus := rfl
@[simp] theorem setHl_partner (i : Nat) (v : Health) : (s.setHl i v).partner = s.partner := rfl

/-! ## setFn -/

@[simp] theorem setFn_pending (n : Nat) (v : Fn) : (s.setFn n v).pending = s.pending := rfl
@[simp] theorem setFn_variant (n : Nat) (v : Fn) : (s.setFn n v).variant = s.variant := rfl
@[simp] theorem setFn_free (n : Nat) (v : Fn) : (s.setFn n v).free = s.free := rfl
@[simp] theorem setFn_ltc (n : Nat) (v : Fn) : (s.setFn n v).ltc = s.ltc := rfl
@[simp] theorem setFn_fresh (n : Nat) (v : Fn) : (s.setFn n v).fresh = s.fresh := rfl
@[simp] theorem setFn_beats (n : Nat) (v : Fn) : (s.setFn n v).beats = s.beats := rfl
@[simp] theorem setFn_ens (n : Nat) (v : Fn) : (s.setFn n v).ens = s.ens := rfl
@[simp] theorem setFn_banks (n : Nat) (v : Fn) : (s.setFn n v).banks = s.banks := rfl
@[simp] theorem setFn_lastBank (n : Nat) (v : Fn) : (s.setFn n v).lastBank = s.lastBank := rfl
@[simp] theorem setFn_tiles (n : Nat) (v : Fn) : (s.setFn n v).tiles = s.tiles := rfl
@[simp] theorem setFn_tstore (n : Nat) (v : Fn) : (s.setFn n v).tstore = s.tstore := rfl
@[simp] theorem setFn_tpoison (n : Nat) (v : Fn) : (s.setFn n v).tpoison = s.tpoison := rfl
@[simp] theorem setFn_tfixed (n : Nat) (v : Fn) : (s.setFn n v).tfixed = s.tfixed := rfl
@[simp] theorem setFn_tserv (n : Nat) (v : Fn) : (s.setFn n v).tserv = s.tserv := rfl
@[simp] theorem setFn_sserv (n : Nat) (v : Fn) : (s.setFn n v).sserv = s.sserv := rfl
@[simp] theorem setFn_tspares (n : Nat) (v : Fn) : (s.setFn n v).tspares = s.tspares := rfl
@[simp] theorem setFn_sspares (n : Nat) (v : Fn) : (s.setFn n v).sspares = s.sspares := rfl
@[simp] theorem setFn_ses (n : Nat) (v : Fn) : (s.setFn n v).ses = s.ses := rfl
@[simp] theorem setFn_sync (n : Nat) (v : Fn) : (s.setFn n v).sync = s.sync := rfl
@[simp] theorem setFn_remote (n : Nat) (v : Fn) : (s.setFn n v).remote = s.remote := rfl
@[simp] theorem setFn_mses (n : Nat) (v : Fn) : (s.setFn n v).mses = s.mses := rfl
@[simp] theorem setFn_clusters (n : Nat) (v : Fn) : (s.setFn n v).clusters = s.clusters := rfl
@[simp] theorem setFn_hbm (n : Nat) (v : Fn) : (s.setFn n v).hbm = s.hbm := rfl
@[simp] theorem setFn_hpoison (n : Nat) (v : Fn) : (s.setFn n v).hpoison = s.hpoison := rfl
@[simp] theorem setFn_hfixed (n : Nat) (v : Fn) : (s.setFn n v).hfixed = s.hfixed := rfl
@[simp] theorem setFn_herr (n : Nat) (v : Fn) : (s.setFn n v).herr = s.herr := rfl
@[simp] theorem setFn_terr (n : Nat) (v : Fn) : (s.setFn n v).terr = s.terr := rfl
@[simp] theorem setFn_pcs (n : Nat) (v : Fn) : (s.setFn n v).pcs = s.pcs := rfl
@[simp] theorem setFn_hstack (n : Nat) (v : Fn) : (s.setFn n v).hstack = s.hstack := rfl
@[simp] theorem setFn_tlbs (n : Nat) (v : Fn) : (s.setFn n v).tlbs = s.tlbs := rfl
@[simp] theorem setFn_walkers (n : Nat) (v : Fn) : (s.setFn n v).walkers = s.walkers := rfl
@[simp] theorem setFn_net (n : Nat) (v : Fn) : (s.setFn n v).net = s.net := rfl
@[simp] theorem setFn_era (n : Nat) (v : Fn) : (s.setFn n v).era = s.era := rfl
@[simp] theorem setFn_memRegion (n : Nat) (v : Fn) : (s.setFn n v).memRegion = s.memRegion := rfl
@[simp] theorem setFn_memRej (n : Nat) (v : Fn) : (s.setFn n v).memRej = s.memRej := rfl
@[simp] theorem setFn_astBase (n : Nat) (v : Fn) : (s.setFn n v).astBase = s.astBase := rfl
@[simp] theorem setFn_astRej (n : Nat) (v : Fn) : (s.setFn n v).astRej = s.astRej := rfl
@[simp] theorem setFn_sample (n : Nat) (v : Fn) : (s.setFn n v).sample = s.sample := rfl
@[simp] theorem setFn_windows (n : Nat) (v : Fn) : (s.setFn n v).windows = s.windows := rfl
@[simp] theorem setFn_counts (n : Nat) (v : Fn) : (s.setFn n v).counts = s.counts := rfl
@[simp] theorem setFn_snapshot (n : Nat) (v : Fn) : (s.setFn n v).snapshot = s.snapshot := rfl
@[simp] theorem setFn_snapWin (n : Nat) (v : Fn) : (s.setFn n v).snapWin = s.snapWin := rfl
@[simp] theorem setFn_waits (n : Nat) (v : Fn) : (s.setFn n v).waits = s.waits := rfl
@[simp] theorem setFn_slotWaits (n : Nat) (v : Fn) : (s.setFn n v).slotWaits = s.slotWaits := rfl
@[simp] theorem setFn_resends (n : Nat) (v : Fn) : (s.setFn n v).resends = s.resends := rfl
@[simp] theorem setFn_winResends (n : Nat) (v : Fn) : (s.setFn n v).winResends = s.winResends := rfl
@[simp] theorem setFn_gws (n : Nat) (v : Fn) : (s.setFn n v).gws = s.gws := rfl
@[simp] theorem setFn_dsps (n : Nat) (v : Fn) : (s.setFn n v).dsps = s.dsps := rfl
@[simp] theorem setFn_fclkRej (n : Nat) (v : Fn) : (s.setFn n v).fclkRej = s.fclkRej := rfl
@[simp] theorem setFn_regions (n : Nat) (v : Fn) : (s.setFn n v).regions = s.regions := rfl
@[simp] theorem setFn_bram (n : Nat) (v : Fn) : (s.setFn n v).bram = s.bram := rfl
@[simp] theorem setFn_flops (n : Nat) (v : Fn) : (s.setFn n v).flops = s.flops := rfl
@[simp] theorem setFn_logic (n : Nat) (v : Fn) : (s.setFn n v).logic = s.logic := rfl
@[simp] theorem setFn_loader (n : Nat) (v : Fn) : (s.setFn n v).loader = s.loader := rfl
@[simp] theorem setFn_health (n : Nat) (v : Fn) : (s.setFn n v).health = s.health := rfl
@[simp] theorem setFn_rst (n : Nat) (v : Fn) : (s.setFn n v).rst = s.rst := rfl
@[simp] theorem setFn_gov (n : Nat) (v : Fn) : (s.setFn n v).gov = s.gov := rfl
@[simp] theorem setFn_pins (n : Nat) (v : Fn) : (s.setFn n v).pins = s.pins := rfl
@[simp] theorem setFn_keeper (n : Nat) (v : Fn) : (s.setFn n v).keeper = s.keeper := rfl
@[simp] theorem setFn_sec (n : Nat) (v : Fn) : (s.setFn n v).sec = s.sec := rfl
@[simp] theorem setFn_dbg (n : Nat) (v : Fn) : (s.setFn n v).dbg = s.dbg := rfl
@[simp] theorem setFn_fns (n : Nat) (v : Fn) : (s.setFn n v).fns = s.fns.set {} n v := rfl
@[simp] theorem setFn_ports (n : Nat) (v : Fn) : (s.setFn n v).ports = s.ports := rfl
@[simp] theorem setFn_chans (n : Nat) (v : Fn) : (s.setFn n v).chans = s.chans := rfl
@[simp] theorem setFn_cacheLru (n : Nat) (v : Fn) : (s.setFn n v).cacheLru = s.cacheLru := rfl
@[simp] theorem setFn_mapWaits (n : Nat) (v : Fn) : (s.setFn n v).mapWaits = s.mapWaits := rfl
@[simp] theorem setFn_hostMem (n : Nat) (v : Fn) : (s.setFn n v).hostMem = s.hostMem := rfl
@[simp] theorem setFn_hostLost (n : Nat) (v : Fn) : (s.setFn n v).hostLost = s.hostLost := rfl
@[simp] theorem setFn_msix (n : Nat) (v : Fn) : (s.setFn n v).msix = s.msix := rfl
@[simp] theorem setFn_devId (n : Nat) (v : Fn) : (s.setFn n v).devId = s.devId := rfl
@[simp] theorem setFn_zegus (n : Nat) (v : Fn) : (s.setFn n v).zegus = s.zegus := rfl
@[simp] theorem setFn_partner (n : Nat) (v : Fn) : (s.setFn n v).partner = s.partner := rfl

/-! ## setPort -/

@[simp] theorem setPort_pending (q : Nat) (v : Port) : (s.setPort q v).pending = s.pending := rfl
@[simp] theorem setPort_variant (q : Nat) (v : Port) : (s.setPort q v).variant = s.variant := rfl
@[simp] theorem setPort_free (q : Nat) (v : Port) : (s.setPort q v).free = s.free := rfl
@[simp] theorem setPort_ltc (q : Nat) (v : Port) : (s.setPort q v).ltc = s.ltc := rfl
@[simp] theorem setPort_fresh (q : Nat) (v : Port) : (s.setPort q v).fresh = s.fresh := rfl
@[simp] theorem setPort_beats (q : Nat) (v : Port) : (s.setPort q v).beats = s.beats := rfl
@[simp] theorem setPort_ens (q : Nat) (v : Port) : (s.setPort q v).ens = s.ens := rfl
@[simp] theorem setPort_banks (q : Nat) (v : Port) : (s.setPort q v).banks = s.banks := rfl
@[simp] theorem setPort_lastBank (q : Nat) (v : Port) : (s.setPort q v).lastBank = s.lastBank := rfl
@[simp] theorem setPort_tiles (q : Nat) (v : Port) : (s.setPort q v).tiles = s.tiles := rfl
@[simp] theorem setPort_tstore (q : Nat) (v : Port) : (s.setPort q v).tstore = s.tstore := rfl
@[simp] theorem setPort_tpoison (q : Nat) (v : Port) : (s.setPort q v).tpoison = s.tpoison := rfl
@[simp] theorem setPort_tfixed (q : Nat) (v : Port) : (s.setPort q v).tfixed = s.tfixed := rfl
@[simp] theorem setPort_tserv (q : Nat) (v : Port) : (s.setPort q v).tserv = s.tserv := rfl
@[simp] theorem setPort_sserv (q : Nat) (v : Port) : (s.setPort q v).sserv = s.sserv := rfl
@[simp] theorem setPort_tspares (q : Nat) (v : Port) : (s.setPort q v).tspares = s.tspares := rfl
@[simp] theorem setPort_sspares (q : Nat) (v : Port) : (s.setPort q v).sspares = s.sspares := rfl
@[simp] theorem setPort_ses (q : Nat) (v : Port) : (s.setPort q v).ses = s.ses := rfl
@[simp] theorem setPort_sync (q : Nat) (v : Port) : (s.setPort q v).sync = s.sync := rfl
@[simp] theorem setPort_remote (q : Nat) (v : Port) : (s.setPort q v).remote = s.remote := rfl
@[simp] theorem setPort_mses (q : Nat) (v : Port) : (s.setPort q v).mses = s.mses := rfl
@[simp] theorem setPort_clusters (q : Nat) (v : Port) : (s.setPort q v).clusters = s.clusters := rfl
@[simp] theorem setPort_hbm (q : Nat) (v : Port) : (s.setPort q v).hbm = s.hbm := rfl
@[simp] theorem setPort_hpoison (q : Nat) (v : Port) : (s.setPort q v).hpoison = s.hpoison := rfl
@[simp] theorem setPort_hfixed (q : Nat) (v : Port) : (s.setPort q v).hfixed = s.hfixed := rfl
@[simp] theorem setPort_herr (q : Nat) (v : Port) : (s.setPort q v).herr = s.herr := rfl
@[simp] theorem setPort_terr (q : Nat) (v : Port) : (s.setPort q v).terr = s.terr := rfl
@[simp] theorem setPort_pcs (q : Nat) (v : Port) : (s.setPort q v).pcs = s.pcs := rfl
@[simp] theorem setPort_hstack (q : Nat) (v : Port) : (s.setPort q v).hstack = s.hstack := rfl
@[simp] theorem setPort_tlbs (q : Nat) (v : Port) : (s.setPort q v).tlbs = s.tlbs := rfl
@[simp] theorem setPort_walkers (q : Nat) (v : Port) : (s.setPort q v).walkers = s.walkers := rfl
@[simp] theorem setPort_net (q : Nat) (v : Port) : (s.setPort q v).net = s.net := rfl
@[simp] theorem setPort_era (q : Nat) (v : Port) : (s.setPort q v).era = s.era := rfl
@[simp] theorem setPort_memRegion (q : Nat) (v : Port) : (s.setPort q v).memRegion = s.memRegion := rfl
@[simp] theorem setPort_memRej (q : Nat) (v : Port) : (s.setPort q v).memRej = s.memRej := rfl
@[simp] theorem setPort_astBase (q : Nat) (v : Port) : (s.setPort q v).astBase = s.astBase := rfl
@[simp] theorem setPort_astRej (q : Nat) (v : Port) : (s.setPort q v).astRej = s.astRej := rfl
@[simp] theorem setPort_sample (q : Nat) (v : Port) : (s.setPort q v).sample = s.sample := rfl
@[simp] theorem setPort_windows (q : Nat) (v : Port) : (s.setPort q v).windows = s.windows := rfl
@[simp] theorem setPort_counts (q : Nat) (v : Port) : (s.setPort q v).counts = s.counts := rfl
@[simp] theorem setPort_snapshot (q : Nat) (v : Port) : (s.setPort q v).snapshot = s.snapshot := rfl
@[simp] theorem setPort_snapWin (q : Nat) (v : Port) : (s.setPort q v).snapWin = s.snapWin := rfl
@[simp] theorem setPort_waits (q : Nat) (v : Port) : (s.setPort q v).waits = s.waits := rfl
@[simp] theorem setPort_slotWaits (q : Nat) (v : Port) : (s.setPort q v).slotWaits = s.slotWaits := rfl
@[simp] theorem setPort_resends (q : Nat) (v : Port) : (s.setPort q v).resends = s.resends := rfl
@[simp] theorem setPort_winResends (q : Nat) (v : Port) : (s.setPort q v).winResends = s.winResends := rfl
@[simp] theorem setPort_gws (q : Nat) (v : Port) : (s.setPort q v).gws = s.gws := rfl
@[simp] theorem setPort_dsps (q : Nat) (v : Port) : (s.setPort q v).dsps = s.dsps := rfl
@[simp] theorem setPort_fclkRej (q : Nat) (v : Port) : (s.setPort q v).fclkRej = s.fclkRej := rfl
@[simp] theorem setPort_regions (q : Nat) (v : Port) : (s.setPort q v).regions = s.regions := rfl
@[simp] theorem setPort_bram (q : Nat) (v : Port) : (s.setPort q v).bram = s.bram := rfl
@[simp] theorem setPort_flops (q : Nat) (v : Port) : (s.setPort q v).flops = s.flops := rfl
@[simp] theorem setPort_logic (q : Nat) (v : Port) : (s.setPort q v).logic = s.logic := rfl
@[simp] theorem setPort_loader (q : Nat) (v : Port) : (s.setPort q v).loader = s.loader := rfl
@[simp] theorem setPort_health (q : Nat) (v : Port) : (s.setPort q v).health = s.health := rfl
@[simp] theorem setPort_rst (q : Nat) (v : Port) : (s.setPort q v).rst = s.rst := rfl
@[simp] theorem setPort_gov (q : Nat) (v : Port) : (s.setPort q v).gov = s.gov := rfl
@[simp] theorem setPort_pins (q : Nat) (v : Port) : (s.setPort q v).pins = s.pins := rfl
@[simp] theorem setPort_keeper (q : Nat) (v : Port) : (s.setPort q v).keeper = s.keeper := rfl
@[simp] theorem setPort_sec (q : Nat) (v : Port) : (s.setPort q v).sec = s.sec := rfl
@[simp] theorem setPort_dbg (q : Nat) (v : Port) : (s.setPort q v).dbg = s.dbg := rfl
@[simp] theorem setPort_fns (q : Nat) (v : Port) : (s.setPort q v).fns = s.fns := rfl
@[simp] theorem setPort_ports (q : Nat) (v : Port) : (s.setPort q v).ports = s.ports.set {} q v := rfl
@[simp] theorem setPort_chans (q : Nat) (v : Port) : (s.setPort q v).chans = s.chans := rfl
@[simp] theorem setPort_cacheLru (q : Nat) (v : Port) : (s.setPort q v).cacheLru = s.cacheLru := rfl
@[simp] theorem setPort_mapWaits (q : Nat) (v : Port) : (s.setPort q v).mapWaits = s.mapWaits := rfl
@[simp] theorem setPort_hostMem (q : Nat) (v : Port) : (s.setPort q v).hostMem = s.hostMem := rfl
@[simp] theorem setPort_hostLost (q : Nat) (v : Port) : (s.setPort q v).hostLost = s.hostLost := rfl
@[simp] theorem setPort_msix (q : Nat) (v : Port) : (s.setPort q v).msix = s.msix := rfl
@[simp] theorem setPort_devId (q : Nat) (v : Port) : (s.setPort q v).devId = s.devId := rfl
@[simp] theorem setPort_zegus (q : Nat) (v : Port) : (s.setPort q v).zegus = s.zegus := rfl
@[simp] theorem setPort_partner (q : Nat) (v : Port) : (s.setPort q v).partner = s.partner := rfl

/-! ## setChan -/

@[simp] theorem setChan_pending (c : Nat) (v : Chan) : (s.setChan c v).pending = s.pending := rfl
@[simp] theorem setChan_variant (c : Nat) (v : Chan) : (s.setChan c v).variant = s.variant := rfl
@[simp] theorem setChan_free (c : Nat) (v : Chan) : (s.setChan c v).free = s.free := rfl
@[simp] theorem setChan_ltc (c : Nat) (v : Chan) : (s.setChan c v).ltc = s.ltc := rfl
@[simp] theorem setChan_fresh (c : Nat) (v : Chan) : (s.setChan c v).fresh = s.fresh := rfl
@[simp] theorem setChan_beats (c : Nat) (v : Chan) : (s.setChan c v).beats = s.beats := rfl
@[simp] theorem setChan_ens (c : Nat) (v : Chan) : (s.setChan c v).ens = s.ens := rfl
@[simp] theorem setChan_banks (c : Nat) (v : Chan) : (s.setChan c v).banks = s.banks := rfl
@[simp] theorem setChan_lastBank (c : Nat) (v : Chan) : (s.setChan c v).lastBank = s.lastBank := rfl
@[simp] theorem setChan_tiles (c : Nat) (v : Chan) : (s.setChan c v).tiles = s.tiles := rfl
@[simp] theorem setChan_tstore (c : Nat) (v : Chan) : (s.setChan c v).tstore = s.tstore := rfl
@[simp] theorem setChan_tpoison (c : Nat) (v : Chan) : (s.setChan c v).tpoison = s.tpoison := rfl
@[simp] theorem setChan_tfixed (c : Nat) (v : Chan) : (s.setChan c v).tfixed = s.tfixed := rfl
@[simp] theorem setChan_tserv (c : Nat) (v : Chan) : (s.setChan c v).tserv = s.tserv := rfl
@[simp] theorem setChan_sserv (c : Nat) (v : Chan) : (s.setChan c v).sserv = s.sserv := rfl
@[simp] theorem setChan_tspares (c : Nat) (v : Chan) : (s.setChan c v).tspares = s.tspares := rfl
@[simp] theorem setChan_sspares (c : Nat) (v : Chan) : (s.setChan c v).sspares = s.sspares := rfl
@[simp] theorem setChan_ses (c : Nat) (v : Chan) : (s.setChan c v).ses = s.ses := rfl
@[simp] theorem setChan_sync (c : Nat) (v : Chan) : (s.setChan c v).sync = s.sync := rfl
@[simp] theorem setChan_remote (c : Nat) (v : Chan) : (s.setChan c v).remote = s.remote := rfl
@[simp] theorem setChan_mses (c : Nat) (v : Chan) : (s.setChan c v).mses = s.mses := rfl
@[simp] theorem setChan_clusters (c : Nat) (v : Chan) : (s.setChan c v).clusters = s.clusters := rfl
@[simp] theorem setChan_hbm (c : Nat) (v : Chan) : (s.setChan c v).hbm = s.hbm := rfl
@[simp] theorem setChan_hpoison (c : Nat) (v : Chan) : (s.setChan c v).hpoison = s.hpoison := rfl
@[simp] theorem setChan_hfixed (c : Nat) (v : Chan) : (s.setChan c v).hfixed = s.hfixed := rfl
@[simp] theorem setChan_herr (c : Nat) (v : Chan) : (s.setChan c v).herr = s.herr := rfl
@[simp] theorem setChan_terr (c : Nat) (v : Chan) : (s.setChan c v).terr = s.terr := rfl
@[simp] theorem setChan_pcs (c : Nat) (v : Chan) : (s.setChan c v).pcs = s.pcs := rfl
@[simp] theorem setChan_hstack (c : Nat) (v : Chan) : (s.setChan c v).hstack = s.hstack := rfl
@[simp] theorem setChan_tlbs (c : Nat) (v : Chan) : (s.setChan c v).tlbs = s.tlbs := rfl
@[simp] theorem setChan_walkers (c : Nat) (v : Chan) : (s.setChan c v).walkers = s.walkers := rfl
@[simp] theorem setChan_net (c : Nat) (v : Chan) : (s.setChan c v).net = s.net := rfl
@[simp] theorem setChan_era (c : Nat) (v : Chan) : (s.setChan c v).era = s.era := rfl
@[simp] theorem setChan_memRegion (c : Nat) (v : Chan) : (s.setChan c v).memRegion = s.memRegion := rfl
@[simp] theorem setChan_memRej (c : Nat) (v : Chan) : (s.setChan c v).memRej = s.memRej := rfl
@[simp] theorem setChan_astBase (c : Nat) (v : Chan) : (s.setChan c v).astBase = s.astBase := rfl
@[simp] theorem setChan_astRej (c : Nat) (v : Chan) : (s.setChan c v).astRej = s.astRej := rfl
@[simp] theorem setChan_sample (c : Nat) (v : Chan) : (s.setChan c v).sample = s.sample := rfl
@[simp] theorem setChan_windows (c : Nat) (v : Chan) : (s.setChan c v).windows = s.windows := rfl
@[simp] theorem setChan_counts (c : Nat) (v : Chan) : (s.setChan c v).counts = s.counts := rfl
@[simp] theorem setChan_snapshot (c : Nat) (v : Chan) : (s.setChan c v).snapshot = s.snapshot := rfl
@[simp] theorem setChan_snapWin (c : Nat) (v : Chan) : (s.setChan c v).snapWin = s.snapWin := rfl
@[simp] theorem setChan_waits (c : Nat) (v : Chan) : (s.setChan c v).waits = s.waits := rfl
@[simp] theorem setChan_slotWaits (c : Nat) (v : Chan) : (s.setChan c v).slotWaits = s.slotWaits := rfl
@[simp] theorem setChan_resends (c : Nat) (v : Chan) : (s.setChan c v).resends = s.resends := rfl
@[simp] theorem setChan_winResends (c : Nat) (v : Chan) : (s.setChan c v).winResends = s.winResends := rfl
@[simp] theorem setChan_gws (c : Nat) (v : Chan) : (s.setChan c v).gws = s.gws := rfl
@[simp] theorem setChan_dsps (c : Nat) (v : Chan) : (s.setChan c v).dsps = s.dsps := rfl
@[simp] theorem setChan_fclkRej (c : Nat) (v : Chan) : (s.setChan c v).fclkRej = s.fclkRej := rfl
@[simp] theorem setChan_regions (c : Nat) (v : Chan) : (s.setChan c v).regions = s.regions := rfl
@[simp] theorem setChan_bram (c : Nat) (v : Chan) : (s.setChan c v).bram = s.bram := rfl
@[simp] theorem setChan_flops (c : Nat) (v : Chan) : (s.setChan c v).flops = s.flops := rfl
@[simp] theorem setChan_logic (c : Nat) (v : Chan) : (s.setChan c v).logic = s.logic := rfl
@[simp] theorem setChan_loader (c : Nat) (v : Chan) : (s.setChan c v).loader = s.loader := rfl
@[simp] theorem setChan_health (c : Nat) (v : Chan) : (s.setChan c v).health = s.health := rfl
@[simp] theorem setChan_rst (c : Nat) (v : Chan) : (s.setChan c v).rst = s.rst := rfl
@[simp] theorem setChan_gov (c : Nat) (v : Chan) : (s.setChan c v).gov = s.gov := rfl
@[simp] theorem setChan_pins (c : Nat) (v : Chan) : (s.setChan c v).pins = s.pins := rfl
@[simp] theorem setChan_keeper (c : Nat) (v : Chan) : (s.setChan c v).keeper = s.keeper := rfl
@[simp] theorem setChan_sec (c : Nat) (v : Chan) : (s.setChan c v).sec = s.sec := rfl
@[simp] theorem setChan_dbg (c : Nat) (v : Chan) : (s.setChan c v).dbg = s.dbg := rfl
@[simp] theorem setChan_fns (c : Nat) (v : Chan) : (s.setChan c v).fns = s.fns := rfl
@[simp] theorem setChan_ports (c : Nat) (v : Chan) : (s.setChan c v).ports = s.ports := rfl
@[simp] theorem setChan_chans (c : Nat) (v : Chan) : (s.setChan c v).chans = s.chans.set {} c v := rfl
@[simp] theorem setChan_cacheLru (c : Nat) (v : Chan) : (s.setChan c v).cacheLru = s.cacheLru := rfl
@[simp] theorem setChan_mapWaits (c : Nat) (v : Chan) : (s.setChan c v).mapWaits = s.mapWaits := rfl
@[simp] theorem setChan_hostMem (c : Nat) (v : Chan) : (s.setChan c v).hostMem = s.hostMem := rfl
@[simp] theorem setChan_hostLost (c : Nat) (v : Chan) : (s.setChan c v).hostLost = s.hostLost := rfl
@[simp] theorem setChan_msix (c : Nat) (v : Chan) : (s.setChan c v).msix = s.msix := rfl
@[simp] theorem setChan_devId (c : Nat) (v : Chan) : (s.setChan c v).devId = s.devId := rfl
@[simp] theorem setChan_zegus (c : Nat) (v : Chan) : (s.setChan c v).zegus = s.zegus := rfl
@[simp] theorem setChan_partner (c : Nat) (v : Chan) : (s.setChan c v).partner = s.partner := rfl

/-! ## setLink -/

@[simp] theorem setLink_pending (l : Nat) (v : Link) : (s.setLink l v).pending = s.pending := rfl
@[simp] theorem setLink_variant (l : Nat) (v : Link) : (s.setLink l v).variant = s.variant := rfl
@[simp] theorem setLink_free (l : Nat) (v : Link) : (s.setLink l v).free = s.free := rfl
@[simp] theorem setLink_ltc (l : Nat) (v : Link) : (s.setLink l v).ltc = s.ltc := rfl
@[simp] theorem setLink_fresh (l : Nat) (v : Link) : (s.setLink l v).fresh = s.fresh := rfl
@[simp] theorem setLink_beats (l : Nat) (v : Link) : (s.setLink l v).beats = s.beats := rfl
@[simp] theorem setLink_ens (l : Nat) (v : Link) : (s.setLink l v).ens = s.ens := rfl
@[simp] theorem setLink_banks (l : Nat) (v : Link) : (s.setLink l v).banks = s.banks := rfl
@[simp] theorem setLink_lastBank (l : Nat) (v : Link) : (s.setLink l v).lastBank = s.lastBank := rfl
@[simp] theorem setLink_tiles (l : Nat) (v : Link) : (s.setLink l v).tiles = s.tiles := rfl
@[simp] theorem setLink_tstore (l : Nat) (v : Link) : (s.setLink l v).tstore = s.tstore := rfl
@[simp] theorem setLink_tpoison (l : Nat) (v : Link) : (s.setLink l v).tpoison = s.tpoison := rfl
@[simp] theorem setLink_tfixed (l : Nat) (v : Link) : (s.setLink l v).tfixed = s.tfixed := rfl
@[simp] theorem setLink_tserv (l : Nat) (v : Link) : (s.setLink l v).tserv = s.tserv := rfl
@[simp] theorem setLink_sserv (l : Nat) (v : Link) : (s.setLink l v).sserv = s.sserv := rfl
@[simp] theorem setLink_tspares (l : Nat) (v : Link) : (s.setLink l v).tspares = s.tspares := rfl
@[simp] theorem setLink_sspares (l : Nat) (v : Link) : (s.setLink l v).sspares = s.sspares := rfl
@[simp] theorem setLink_ses (l : Nat) (v : Link) : (s.setLink l v).ses = s.ses := rfl
@[simp] theorem setLink_sync (l : Nat) (v : Link) : (s.setLink l v).sync = s.sync := rfl
@[simp] theorem setLink_remote (l : Nat) (v : Link) : (s.setLink l v).remote = s.remote := rfl
@[simp] theorem setLink_mses (l : Nat) (v : Link) : (s.setLink l v).mses = s.mses := rfl
@[simp] theorem setLink_clusters (l : Nat) (v : Link) : (s.setLink l v).clusters = s.clusters := rfl
@[simp] theorem setLink_hbm (l : Nat) (v : Link) : (s.setLink l v).hbm = s.hbm := rfl
@[simp] theorem setLink_hpoison (l : Nat) (v : Link) : (s.setLink l v).hpoison = s.hpoison := rfl
@[simp] theorem setLink_hfixed (l : Nat) (v : Link) : (s.setLink l v).hfixed = s.hfixed := rfl
@[simp] theorem setLink_herr (l : Nat) (v : Link) : (s.setLink l v).herr = s.herr := rfl
@[simp] theorem setLink_terr (l : Nat) (v : Link) : (s.setLink l v).terr = s.terr := rfl
@[simp] theorem setLink_pcs (l : Nat) (v : Link) : (s.setLink l v).pcs = s.pcs := rfl
@[simp] theorem setLink_hstack (l : Nat) (v : Link) : (s.setLink l v).hstack = s.hstack := rfl
@[simp] theorem setLink_tlbs (l : Nat) (v : Link) : (s.setLink l v).tlbs = s.tlbs := rfl
@[simp] theorem setLink_walkers (l : Nat) (v : Link) : (s.setLink l v).walkers = s.walkers := rfl
@[simp] theorem setLink_net (l : Nat) (v : Link) : (s.setLink l v).net = s.net := rfl
@[simp] theorem setLink_era (l : Nat) (v : Link) : (s.setLink l v).era = s.era := rfl
@[simp] theorem setLink_memRegion (l : Nat) (v : Link) : (s.setLink l v).memRegion = s.memRegion := rfl
@[simp] theorem setLink_memRej (l : Nat) (v : Link) : (s.setLink l v).memRej = s.memRej := rfl
@[simp] theorem setLink_astBase (l : Nat) (v : Link) : (s.setLink l v).astBase = s.astBase := rfl
@[simp] theorem setLink_astRej (l : Nat) (v : Link) : (s.setLink l v).astRej = s.astRej := rfl
@[simp] theorem setLink_sample (l : Nat) (v : Link) : (s.setLink l v).sample = s.sample := rfl
@[simp] theorem setLink_windows (l : Nat) (v : Link) : (s.setLink l v).windows = s.windows := rfl
@[simp] theorem setLink_counts (l : Nat) (v : Link) : (s.setLink l v).counts = s.counts := rfl
@[simp] theorem setLink_snapshot (l : Nat) (v : Link) : (s.setLink l v).snapshot = s.snapshot := rfl
@[simp] theorem setLink_snapWin (l : Nat) (v : Link) : (s.setLink l v).snapWin = s.snapWin := rfl
@[simp] theorem setLink_waits (l : Nat) (v : Link) : (s.setLink l v).waits = s.waits := rfl
@[simp] theorem setLink_slotWaits (l : Nat) (v : Link) : (s.setLink l v).slotWaits = s.slotWaits := rfl
@[simp] theorem setLink_resends (l : Nat) (v : Link) : (s.setLink l v).resends = s.resends := rfl
@[simp] theorem setLink_winResends (l : Nat) (v : Link) : (s.setLink l v).winResends = s.winResends := rfl
@[simp] theorem setLink_gws (l : Nat) (v : Link) : (s.setLink l v).gws = s.gws := rfl
@[simp] theorem setLink_dsps (l : Nat) (v : Link) : (s.setLink l v).dsps = s.dsps := rfl
@[simp] theorem setLink_fclkRej (l : Nat) (v : Link) : (s.setLink l v).fclkRej = s.fclkRej := rfl
@[simp] theorem setLink_regions (l : Nat) (v : Link) : (s.setLink l v).regions = s.regions := rfl
@[simp] theorem setLink_bram (l : Nat) (v : Link) : (s.setLink l v).bram = s.bram := rfl
@[simp] theorem setLink_flops (l : Nat) (v : Link) : (s.setLink l v).flops = s.flops := rfl
@[simp] theorem setLink_logic (l : Nat) (v : Link) : (s.setLink l v).logic = s.logic := rfl
@[simp] theorem setLink_loader (l : Nat) (v : Link) : (s.setLink l v).loader = s.loader := rfl
@[simp] theorem setLink_health (l : Nat) (v : Link) : (s.setLink l v).health = s.health := rfl
@[simp] theorem setLink_rst (l : Nat) (v : Link) : (s.setLink l v).rst = s.rst := rfl
@[simp] theorem setLink_gov (l : Nat) (v : Link) : (s.setLink l v).gov = s.gov := rfl
@[simp] theorem setLink_pins (l : Nat) (v : Link) : (s.setLink l v).pins = s.pins := rfl
@[simp] theorem setLink_keeper (l : Nat) (v : Link) : (s.setLink l v).keeper = s.keeper := rfl
@[simp] theorem setLink_sec (l : Nat) (v : Link) : (s.setLink l v).sec = s.sec := rfl
@[simp] theorem setLink_dbg (l : Nat) (v : Link) : (s.setLink l v).dbg = s.dbg := rfl
@[simp] theorem setLink_fns (l : Nat) (v : Link) : (s.setLink l v).fns = s.fns := rfl
@[simp] theorem setLink_ports (l : Nat) (v : Link) : (s.setLink l v).ports = s.ports := rfl
@[simp] theorem setLink_chans (l : Nat) (v : Link) : (s.setLink l v).chans = s.chans := rfl
@[simp] theorem setLink_cacheLru (l : Nat) (v : Link) : (s.setLink l v).cacheLru = s.cacheLru := rfl
@[simp] theorem setLink_mapWaits (l : Nat) (v : Link) : (s.setLink l v).mapWaits = s.mapWaits := rfl
@[simp] theorem setLink_hostMem (l : Nat) (v : Link) : (s.setLink l v).hostMem = s.hostMem := rfl
@[simp] theorem setLink_hostLost (l : Nat) (v : Link) : (s.setLink l v).hostLost = s.hostLost := rfl
@[simp] theorem setLink_msix (l : Nat) (v : Link) : (s.setLink l v).msix = s.msix := rfl
@[simp] theorem setLink_devId (l : Nat) (v : Link) : (s.setLink l v).devId = s.devId := rfl
@[simp] theorem setLink_zegus (l : Nat) (v : Link) : (s.setLink l v).zegus = { s.zegus with links := s.zegus.links.set {} l v } := rfl
@[simp] theorem setLink_partner (l : Nat) (v : Link) : (s.setLink l v).partner = s.partner := rfl

/-! ## setDom -/

@[simp] theorem setDom_pending (d : Nat) (v : Domain) : (s.setDom d v).pending = s.pending := rfl
@[simp] theorem setDom_variant (d : Nat) (v : Domain) : (s.setDom d v).variant = s.variant := rfl
@[simp] theorem setDom_free (d : Nat) (v : Domain) : (s.setDom d v).free = s.free := rfl
@[simp] theorem setDom_ltc (d : Nat) (v : Domain) : (s.setDom d v).ltc = s.ltc := rfl
@[simp] theorem setDom_fresh (d : Nat) (v : Domain) : (s.setDom d v).fresh = s.fresh := rfl
@[simp] theorem setDom_beats (d : Nat) (v : Domain) : (s.setDom d v).beats = s.beats := rfl
@[simp] theorem setDom_ens (d : Nat) (v : Domain) : (s.setDom d v).ens = s.ens := rfl
@[simp] theorem setDom_banks (d : Nat) (v : Domain) : (s.setDom d v).banks = s.banks := rfl
@[simp] theorem setDom_lastBank (d : Nat) (v : Domain) : (s.setDom d v).lastBank = s.lastBank := rfl
@[simp] theorem setDom_tiles (d : Nat) (v : Domain) : (s.setDom d v).tiles = s.tiles := rfl
@[simp] theorem setDom_tstore (d : Nat) (v : Domain) : (s.setDom d v).tstore = s.tstore := rfl
@[simp] theorem setDom_tpoison (d : Nat) (v : Domain) : (s.setDom d v).tpoison = s.tpoison := rfl
@[simp] theorem setDom_tfixed (d : Nat) (v : Domain) : (s.setDom d v).tfixed = s.tfixed := rfl
@[simp] theorem setDom_tserv (d : Nat) (v : Domain) : (s.setDom d v).tserv = s.tserv := rfl
@[simp] theorem setDom_sserv (d : Nat) (v : Domain) : (s.setDom d v).sserv = s.sserv := rfl
@[simp] theorem setDom_tspares (d : Nat) (v : Domain) : (s.setDom d v).tspares = s.tspares := rfl
@[simp] theorem setDom_sspares (d : Nat) (v : Domain) : (s.setDom d v).sspares = s.sspares := rfl
@[simp] theorem setDom_ses (d : Nat) (v : Domain) : (s.setDom d v).ses = s.ses := rfl
@[simp] theorem setDom_sync (d : Nat) (v : Domain) : (s.setDom d v).sync = s.sync := rfl
@[simp] theorem setDom_remote (d : Nat) (v : Domain) : (s.setDom d v).remote = s.remote := rfl
@[simp] theorem setDom_mses (d : Nat) (v : Domain) : (s.setDom d v).mses = s.mses := rfl
@[simp] theorem setDom_clusters (d : Nat) (v : Domain) : (s.setDom d v).clusters = s.clusters := rfl
@[simp] theorem setDom_hbm (d : Nat) (v : Domain) : (s.setDom d v).hbm = s.hbm := rfl
@[simp] theorem setDom_hpoison (d : Nat) (v : Domain) : (s.setDom d v).hpoison = s.hpoison := rfl
@[simp] theorem setDom_hfixed (d : Nat) (v : Domain) : (s.setDom d v).hfixed = s.hfixed := rfl
@[simp] theorem setDom_herr (d : Nat) (v : Domain) : (s.setDom d v).herr = s.herr := rfl
@[simp] theorem setDom_terr (d : Nat) (v : Domain) : (s.setDom d v).terr = s.terr := rfl
@[simp] theorem setDom_pcs (d : Nat) (v : Domain) : (s.setDom d v).pcs = s.pcs := rfl
@[simp] theorem setDom_hstack (d : Nat) (v : Domain) : (s.setDom d v).hstack = s.hstack := rfl
@[simp] theorem setDom_tlbs (d : Nat) (v : Domain) : (s.setDom d v).tlbs = s.tlbs := rfl
@[simp] theorem setDom_walkers (d : Nat) (v : Domain) : (s.setDom d v).walkers = s.walkers := rfl
@[simp] theorem setDom_net (d : Nat) (v : Domain) : (s.setDom d v).net = s.net := rfl
@[simp] theorem setDom_era (d : Nat) (v : Domain) : (s.setDom d v).era = s.era := rfl
@[simp] theorem setDom_memRegion (d : Nat) (v : Domain) : (s.setDom d v).memRegion = s.memRegion := rfl
@[simp] theorem setDom_memRej (d : Nat) (v : Domain) : (s.setDom d v).memRej = s.memRej := rfl
@[simp] theorem setDom_astBase (d : Nat) (v : Domain) : (s.setDom d v).astBase = s.astBase := rfl
@[simp] theorem setDom_astRej (d : Nat) (v : Domain) : (s.setDom d v).astRej = s.astRej := rfl
@[simp] theorem setDom_sample (d : Nat) (v : Domain) : (s.setDom d v).sample = s.sample := rfl
@[simp] theorem setDom_windows (d : Nat) (v : Domain) : (s.setDom d v).windows = s.windows := rfl
@[simp] theorem setDom_counts (d : Nat) (v : Domain) : (s.setDom d v).counts = s.counts := rfl
@[simp] theorem setDom_snapshot (d : Nat) (v : Domain) : (s.setDom d v).snapshot = s.snapshot := rfl
@[simp] theorem setDom_snapWin (d : Nat) (v : Domain) : (s.setDom d v).snapWin = s.snapWin := rfl
@[simp] theorem setDom_waits (d : Nat) (v : Domain) : (s.setDom d v).waits = s.waits := rfl
@[simp] theorem setDom_slotWaits (d : Nat) (v : Domain) : (s.setDom d v).slotWaits = s.slotWaits := rfl
@[simp] theorem setDom_resends (d : Nat) (v : Domain) : (s.setDom d v).resends = s.resends := rfl
@[simp] theorem setDom_winResends (d : Nat) (v : Domain) : (s.setDom d v).winResends = s.winResends := rfl
@[simp] theorem setDom_gws (d : Nat) (v : Domain) : (s.setDom d v).gws = s.gws := rfl
@[simp] theorem setDom_dsps (d : Nat) (v : Domain) : (s.setDom d v).dsps = s.dsps := rfl
@[simp] theorem setDom_fclkRej (d : Nat) (v : Domain) : (s.setDom d v).fclkRej = s.fclkRej := rfl
@[simp] theorem setDom_regions (d : Nat) (v : Domain) : (s.setDom d v).regions = s.regions := rfl
@[simp] theorem setDom_bram (d : Nat) (v : Domain) : (s.setDom d v).bram = s.bram := rfl
@[simp] theorem setDom_flops (d : Nat) (v : Domain) : (s.setDom d v).flops = s.flops := rfl
@[simp] theorem setDom_logic (d : Nat) (v : Domain) : (s.setDom d v).logic = s.logic := rfl
@[simp] theorem setDom_loader (d : Nat) (v : Domain) : (s.setDom d v).loader = s.loader := rfl
@[simp] theorem setDom_health (d : Nat) (v : Domain) : (s.setDom d v).health = s.health := rfl
@[simp] theorem setDom_rst (d : Nat) (v : Domain) : (s.setDom d v).rst = s.rst := rfl
@[simp] theorem setDom_gov (d : Nat) (v : Domain) : (s.setDom d v).gov = { s.gov with domains := s.gov.domains.set {} d v } := rfl
@[simp] theorem setDom_pins (d : Nat) (v : Domain) : (s.setDom d v).pins = s.pins := rfl
@[simp] theorem setDom_keeper (d : Nat) (v : Domain) : (s.setDom d v).keeper = s.keeper := rfl
@[simp] theorem setDom_sec (d : Nat) (v : Domain) : (s.setDom d v).sec = s.sec := rfl
@[simp] theorem setDom_dbg (d : Nat) (v : Domain) : (s.setDom d v).dbg = s.dbg := rfl
@[simp] theorem setDom_fns (d : Nat) (v : Domain) : (s.setDom d v).fns = s.fns := rfl
@[simp] theorem setDom_ports (d : Nat) (v : Domain) : (s.setDom d v).ports = s.ports := rfl
@[simp] theorem setDom_chans (d : Nat) (v : Domain) : (s.setDom d v).chans = s.chans := rfl
@[simp] theorem setDom_cacheLru (d : Nat) (v : Domain) : (s.setDom d v).cacheLru = s.cacheLru := rfl
@[simp] theorem setDom_mapWaits (d : Nat) (v : Domain) : (s.setDom d v).mapWaits = s.mapWaits := rfl
@[simp] theorem setDom_hostMem (d : Nat) (v : Domain) : (s.setDom d v).hostMem = s.hostMem := rfl
@[simp] theorem setDom_hostLost (d : Nat) (v : Domain) : (s.setDom d v).hostLost = s.hostLost := rfl
@[simp] theorem setDom_msix (d : Nat) (v : Domain) : (s.setDom d v).msix = s.msix := rfl
@[simp] theorem setDom_devId (d : Nat) (v : Domain) : (s.setDom d v).devId = s.devId := rfl
@[simp] theorem setDom_zegus (d : Nat) (v : Domain) : (s.setDom d v).zegus = s.zegus := rfl
@[simp] theorem setDom_partner (d : Nat) (v : Domain) : (s.setDom d v).partner = s.partner := rfl

/-! ## send -/

@[simp] theorem send_pending (p : Packet) : (s.send p).pending = s.pending := rfl
@[simp] theorem send_variant (p : Packet) : (s.send p).variant = s.variant := rfl
@[simp] theorem send_free (p : Packet) : (s.send p).free = s.free := rfl
@[simp] theorem send_ltc (p : Packet) : (s.send p).ltc = s.ltc := rfl
@[simp] theorem send_fresh (p : Packet) : (s.send p).fresh = s.fresh := rfl
@[simp] theorem send_beats (p : Packet) : (s.send p).beats = s.beats := rfl
@[simp] theorem send_ens (p : Packet) : (s.send p).ens = s.ens := rfl
@[simp] theorem send_banks (p : Packet) : (s.send p).banks = s.banks := rfl
@[simp] theorem send_lastBank (p : Packet) : (s.send p).lastBank = s.lastBank := rfl
@[simp] theorem send_tiles (p : Packet) : (s.send p).tiles = s.tiles := rfl
@[simp] theorem send_tstore (p : Packet) : (s.send p).tstore = s.tstore := rfl
@[simp] theorem send_tpoison (p : Packet) : (s.send p).tpoison = s.tpoison := rfl
@[simp] theorem send_tfixed (p : Packet) : (s.send p).tfixed = s.tfixed := rfl
@[simp] theorem send_tserv (p : Packet) : (s.send p).tserv = s.tserv := rfl
@[simp] theorem send_sserv (p : Packet) : (s.send p).sserv = s.sserv := rfl
@[simp] theorem send_tspares (p : Packet) : (s.send p).tspares = s.tspares := rfl
@[simp] theorem send_sspares (p : Packet) : (s.send p).sspares = s.sspares := rfl
@[simp] theorem send_ses (p : Packet) : (s.send p).ses = s.ses := rfl
@[simp] theorem send_sync (p : Packet) : (s.send p).sync = s.sync := rfl
@[simp] theorem send_remote (p : Packet) : (s.send p).remote = s.remote := rfl
@[simp] theorem send_mses (p : Packet) : (s.send p).mses = s.mses := rfl
@[simp] theorem send_clusters (p : Packet) : (s.send p).clusters = s.clusters := rfl
@[simp] theorem send_hbm (p : Packet) : (s.send p).hbm = s.hbm := rfl
@[simp] theorem send_hpoison (p : Packet) : (s.send p).hpoison = s.hpoison := rfl
@[simp] theorem send_hfixed (p : Packet) : (s.send p).hfixed = s.hfixed := rfl
@[simp] theorem send_herr (p : Packet) : (s.send p).herr = s.herr := rfl
@[simp] theorem send_terr (p : Packet) : (s.send p).terr = s.terr := rfl
@[simp] theorem send_pcs (p : Packet) : (s.send p).pcs = s.pcs := rfl
@[simp] theorem send_hstack (p : Packet) : (s.send p).hstack = s.hstack := rfl
@[simp] theorem send_tlbs (p : Packet) : (s.send p).tlbs = s.tlbs := rfl
@[simp] theorem send_walkers (p : Packet) : (s.send p).walkers = s.walkers := rfl
@[simp] theorem send_net (p : Packet) : (s.send p).net = s.net ++ [p] := rfl
@[simp] theorem send_era (p : Packet) : (s.send p).era = s.era := rfl
@[simp] theorem send_memRegion (p : Packet) : (s.send p).memRegion = s.memRegion := rfl
@[simp] theorem send_memRej (p : Packet) : (s.send p).memRej = s.memRej := rfl
@[simp] theorem send_astBase (p : Packet) : (s.send p).astBase = s.astBase := rfl
@[simp] theorem send_astRej (p : Packet) : (s.send p).astRej = s.astRej := rfl
@[simp] theorem send_sample (p : Packet) : (s.send p).sample = s.sample := rfl
@[simp] theorem send_windows (p : Packet) : (s.send p).windows = s.windows := rfl
@[simp] theorem send_counts (p : Packet) : (s.send p).counts = s.counts := rfl
@[simp] theorem send_snapshot (p : Packet) : (s.send p).snapshot = s.snapshot := rfl
@[simp] theorem send_snapWin (p : Packet) : (s.send p).snapWin = s.snapWin := rfl
@[simp] theorem send_waits (p : Packet) : (s.send p).waits = s.waits := rfl
@[simp] theorem send_slotWaits (p : Packet) : (s.send p).slotWaits = s.slotWaits := rfl
@[simp] theorem send_resends (p : Packet) : (s.send p).resends = s.resends := rfl
@[simp] theorem send_winResends (p : Packet) : (s.send p).winResends = s.winResends := rfl
@[simp] theorem send_gws (p : Packet) : (s.send p).gws = s.gws := rfl
@[simp] theorem send_dsps (p : Packet) : (s.send p).dsps = s.dsps := rfl
@[simp] theorem send_fclkRej (p : Packet) : (s.send p).fclkRej = s.fclkRej := rfl
@[simp] theorem send_regions (p : Packet) : (s.send p).regions = s.regions := rfl
@[simp] theorem send_bram (p : Packet) : (s.send p).bram = s.bram := rfl
@[simp] theorem send_flops (p : Packet) : (s.send p).flops = s.flops := rfl
@[simp] theorem send_logic (p : Packet) : (s.send p).logic = s.logic := rfl
@[simp] theorem send_loader (p : Packet) : (s.send p).loader = s.loader := rfl
@[simp] theorem send_health (p : Packet) : (s.send p).health = s.health := rfl
@[simp] theorem send_rst (p : Packet) : (s.send p).rst = s.rst := rfl
@[simp] theorem send_gov (p : Packet) : (s.send p).gov = s.gov := rfl
@[simp] theorem send_pins (p : Packet) : (s.send p).pins = s.pins := rfl
@[simp] theorem send_keeper (p : Packet) : (s.send p).keeper = s.keeper := rfl
@[simp] theorem send_sec (p : Packet) : (s.send p).sec = s.sec := rfl
@[simp] theorem send_dbg (p : Packet) : (s.send p).dbg = s.dbg := rfl
@[simp] theorem send_fns (p : Packet) : (s.send p).fns = s.fns := rfl
@[simp] theorem send_ports (p : Packet) : (s.send p).ports = s.ports := rfl
@[simp] theorem send_chans (p : Packet) : (s.send p).chans = s.chans := rfl
@[simp] theorem send_cacheLru (p : Packet) : (s.send p).cacheLru = s.cacheLru := rfl
@[simp] theorem send_mapWaits (p : Packet) : (s.send p).mapWaits = s.mapWaits := rfl
@[simp] theorem send_hostMem (p : Packet) : (s.send p).hostMem = s.hostMem := rfl
@[simp] theorem send_hostLost (p : Packet) : (s.send p).hostLost = s.hostLost := rfl
@[simp] theorem send_msix (p : Packet) : (s.send p).msix = s.msix := rfl
@[simp] theorem send_devId (p : Packet) : (s.send p).devId = s.devId := rfl
@[simp] theorem send_zegus (p : Packet) : (s.send p).zegus = s.zegus := rfl
@[simp] theorem send_partner (p : Packet) : (s.send p).partner = s.partner := rfl

/-! ## sendAll -/

@[simp] theorem sendAll_pending (ps : List Packet) : (s.sendAll ps).pending = s.pending := rfl
@[simp] theorem sendAll_variant (ps : List Packet) : (s.sendAll ps).variant = s.variant := rfl
@[simp] theorem sendAll_free (ps : List Packet) : (s.sendAll ps).free = s.free := rfl
@[simp] theorem sendAll_ltc (ps : List Packet) : (s.sendAll ps).ltc = s.ltc := rfl
@[simp] theorem sendAll_fresh (ps : List Packet) : (s.sendAll ps).fresh = s.fresh := rfl
@[simp] theorem sendAll_beats (ps : List Packet) : (s.sendAll ps).beats = s.beats := rfl
@[simp] theorem sendAll_ens (ps : List Packet) : (s.sendAll ps).ens = s.ens := rfl
@[simp] theorem sendAll_banks (ps : List Packet) : (s.sendAll ps).banks = s.banks := rfl
@[simp] theorem sendAll_lastBank (ps : List Packet) : (s.sendAll ps).lastBank = s.lastBank := rfl
@[simp] theorem sendAll_tiles (ps : List Packet) : (s.sendAll ps).tiles = s.tiles := rfl
@[simp] theorem sendAll_tstore (ps : List Packet) : (s.sendAll ps).tstore = s.tstore := rfl
@[simp] theorem sendAll_tpoison (ps : List Packet) : (s.sendAll ps).tpoison = s.tpoison := rfl
@[simp] theorem sendAll_tfixed (ps : List Packet) : (s.sendAll ps).tfixed = s.tfixed := rfl
@[simp] theorem sendAll_tserv (ps : List Packet) : (s.sendAll ps).tserv = s.tserv := rfl
@[simp] theorem sendAll_sserv (ps : List Packet) : (s.sendAll ps).sserv = s.sserv := rfl
@[simp] theorem sendAll_tspares (ps : List Packet) : (s.sendAll ps).tspares = s.tspares := rfl
@[simp] theorem sendAll_sspares (ps : List Packet) : (s.sendAll ps).sspares = s.sspares := rfl
@[simp] theorem sendAll_ses (ps : List Packet) : (s.sendAll ps).ses = s.ses := rfl
@[simp] theorem sendAll_sync (ps : List Packet) : (s.sendAll ps).sync = s.sync := rfl
@[simp] theorem sendAll_remote (ps : List Packet) : (s.sendAll ps).remote = s.remote := rfl
@[simp] theorem sendAll_mses (ps : List Packet) : (s.sendAll ps).mses = s.mses := rfl
@[simp] theorem sendAll_clusters (ps : List Packet) : (s.sendAll ps).clusters = s.clusters := rfl
@[simp] theorem sendAll_hbm (ps : List Packet) : (s.sendAll ps).hbm = s.hbm := rfl
@[simp] theorem sendAll_hpoison (ps : List Packet) : (s.sendAll ps).hpoison = s.hpoison := rfl
@[simp] theorem sendAll_hfixed (ps : List Packet) : (s.sendAll ps).hfixed = s.hfixed := rfl
@[simp] theorem sendAll_herr (ps : List Packet) : (s.sendAll ps).herr = s.herr := rfl
@[simp] theorem sendAll_terr (ps : List Packet) : (s.sendAll ps).terr = s.terr := rfl
@[simp] theorem sendAll_pcs (ps : List Packet) : (s.sendAll ps).pcs = s.pcs := rfl
@[simp] theorem sendAll_hstack (ps : List Packet) : (s.sendAll ps).hstack = s.hstack := rfl
@[simp] theorem sendAll_tlbs (ps : List Packet) : (s.sendAll ps).tlbs = s.tlbs := rfl
@[simp] theorem sendAll_walkers (ps : List Packet) : (s.sendAll ps).walkers = s.walkers := rfl
@[simp] theorem sendAll_net (ps : List Packet) : (s.sendAll ps).net = s.net ++ ps := rfl
@[simp] theorem sendAll_era (ps : List Packet) : (s.sendAll ps).era = s.era := rfl
@[simp] theorem sendAll_memRegion (ps : List Packet) : (s.sendAll ps).memRegion = s.memRegion := rfl
@[simp] theorem sendAll_memRej (ps : List Packet) : (s.sendAll ps).memRej = s.memRej := rfl
@[simp] theorem sendAll_astBase (ps : List Packet) : (s.sendAll ps).astBase = s.astBase := rfl
@[simp] theorem sendAll_astRej (ps : List Packet) : (s.sendAll ps).astRej = s.astRej := rfl
@[simp] theorem sendAll_sample (ps : List Packet) : (s.sendAll ps).sample = s.sample := rfl
@[simp] theorem sendAll_windows (ps : List Packet) : (s.sendAll ps).windows = s.windows := rfl
@[simp] theorem sendAll_counts (ps : List Packet) : (s.sendAll ps).counts = s.counts := rfl
@[simp] theorem sendAll_snapshot (ps : List Packet) : (s.sendAll ps).snapshot = s.snapshot := rfl
@[simp] theorem sendAll_snapWin (ps : List Packet) : (s.sendAll ps).snapWin = s.snapWin := rfl
@[simp] theorem sendAll_waits (ps : List Packet) : (s.sendAll ps).waits = s.waits := rfl
@[simp] theorem sendAll_slotWaits (ps : List Packet) : (s.sendAll ps).slotWaits = s.slotWaits := rfl
@[simp] theorem sendAll_resends (ps : List Packet) : (s.sendAll ps).resends = s.resends := rfl
@[simp] theorem sendAll_winResends (ps : List Packet) : (s.sendAll ps).winResends = s.winResends := rfl
@[simp] theorem sendAll_gws (ps : List Packet) : (s.sendAll ps).gws = s.gws := rfl
@[simp] theorem sendAll_dsps (ps : List Packet) : (s.sendAll ps).dsps = s.dsps := rfl
@[simp] theorem sendAll_fclkRej (ps : List Packet) : (s.sendAll ps).fclkRej = s.fclkRej := rfl
@[simp] theorem sendAll_regions (ps : List Packet) : (s.sendAll ps).regions = s.regions := rfl
@[simp] theorem sendAll_bram (ps : List Packet) : (s.sendAll ps).bram = s.bram := rfl
@[simp] theorem sendAll_flops (ps : List Packet) : (s.sendAll ps).flops = s.flops := rfl
@[simp] theorem sendAll_logic (ps : List Packet) : (s.sendAll ps).logic = s.logic := rfl
@[simp] theorem sendAll_loader (ps : List Packet) : (s.sendAll ps).loader = s.loader := rfl
@[simp] theorem sendAll_health (ps : List Packet) : (s.sendAll ps).health = s.health := rfl
@[simp] theorem sendAll_rst (ps : List Packet) : (s.sendAll ps).rst = s.rst := rfl
@[simp] theorem sendAll_gov (ps : List Packet) : (s.sendAll ps).gov = s.gov := rfl
@[simp] theorem sendAll_pins (ps : List Packet) : (s.sendAll ps).pins = s.pins := rfl
@[simp] theorem sendAll_keeper (ps : List Packet) : (s.sendAll ps).keeper = s.keeper := rfl
@[simp] theorem sendAll_sec (ps : List Packet) : (s.sendAll ps).sec = s.sec := rfl
@[simp] theorem sendAll_dbg (ps : List Packet) : (s.sendAll ps).dbg = s.dbg := rfl
@[simp] theorem sendAll_fns (ps : List Packet) : (s.sendAll ps).fns = s.fns := rfl
@[simp] theorem sendAll_ports (ps : List Packet) : (s.sendAll ps).ports = s.ports := rfl
@[simp] theorem sendAll_chans (ps : List Packet) : (s.sendAll ps).chans = s.chans := rfl
@[simp] theorem sendAll_cacheLru (ps : List Packet) : (s.sendAll ps).cacheLru = s.cacheLru := rfl
@[simp] theorem sendAll_mapWaits (ps : List Packet) : (s.sendAll ps).mapWaits = s.mapWaits := rfl
@[simp] theorem sendAll_hostMem (ps : List Packet) : (s.sendAll ps).hostMem = s.hostMem := rfl
@[simp] theorem sendAll_hostLost (ps : List Packet) : (s.sendAll ps).hostLost = s.hostLost := rfl
@[simp] theorem sendAll_msix (ps : List Packet) : (s.sendAll ps).msix = s.msix := rfl
@[simp] theorem sendAll_devId (ps : List Packet) : (s.sendAll ps).devId = s.devId := rfl
@[simp] theorem sendAll_zegus (ps : List Packet) : (s.sendAll ps).zegus = s.zegus := rfl
@[simp] theorem sendAll_partner (ps : List Packet) : (s.sendAll ps).partner = s.partner := rfl

/-! ## take -/

@[simp] theorem take_pending (p : Packet) : (s.take p).pending = s.pending := rfl
@[simp] theorem take_variant (p : Packet) : (s.take p).variant = s.variant := rfl
@[simp] theorem take_free (p : Packet) : (s.take p).free = s.free := rfl
@[simp] theorem take_ltc (p : Packet) : (s.take p).ltc = s.ltc := rfl
@[simp] theorem take_fresh (p : Packet) : (s.take p).fresh = s.fresh := rfl
@[simp] theorem take_beats (p : Packet) : (s.take p).beats = s.beats := rfl
@[simp] theorem take_ens (p : Packet) : (s.take p).ens = s.ens := rfl
@[simp] theorem take_banks (p : Packet) : (s.take p).banks = s.banks := rfl
@[simp] theorem take_lastBank (p : Packet) : (s.take p).lastBank = s.lastBank := rfl
@[simp] theorem take_tiles (p : Packet) : (s.take p).tiles = s.tiles := rfl
@[simp] theorem take_tstore (p : Packet) : (s.take p).tstore = s.tstore := rfl
@[simp] theorem take_tpoison (p : Packet) : (s.take p).tpoison = s.tpoison := rfl
@[simp] theorem take_tfixed (p : Packet) : (s.take p).tfixed = s.tfixed := rfl
@[simp] theorem take_tserv (p : Packet) : (s.take p).tserv = s.tserv := rfl
@[simp] theorem take_sserv (p : Packet) : (s.take p).sserv = s.sserv := rfl
@[simp] theorem take_tspares (p : Packet) : (s.take p).tspares = s.tspares := rfl
@[simp] theorem take_sspares (p : Packet) : (s.take p).sspares = s.sspares := rfl
@[simp] theorem take_ses (p : Packet) : (s.take p).ses = s.ses := rfl
@[simp] theorem take_sync (p : Packet) : (s.take p).sync = s.sync := rfl
@[simp] theorem take_remote (p : Packet) : (s.take p).remote = s.remote := rfl
@[simp] theorem take_mses (p : Packet) : (s.take p).mses = s.mses := rfl
@[simp] theorem take_clusters (p : Packet) : (s.take p).clusters = s.clusters := rfl
@[simp] theorem take_hbm (p : Packet) : (s.take p).hbm = s.hbm := rfl
@[simp] theorem take_hpoison (p : Packet) : (s.take p).hpoison = s.hpoison := rfl
@[simp] theorem take_hfixed (p : Packet) : (s.take p).hfixed = s.hfixed := rfl
@[simp] theorem take_herr (p : Packet) : (s.take p).herr = s.herr := rfl
@[simp] theorem take_terr (p : Packet) : (s.take p).terr = s.terr := rfl
@[simp] theorem take_pcs (p : Packet) : (s.take p).pcs = s.pcs := rfl
@[simp] theorem take_hstack (p : Packet) : (s.take p).hstack = s.hstack := rfl
@[simp] theorem take_tlbs (p : Packet) : (s.take p).tlbs = s.tlbs := rfl
@[simp] theorem take_walkers (p : Packet) : (s.take p).walkers = s.walkers := rfl
@[simp] theorem take_net (p : Packet) : (s.take p).net = dropFirst s.net p := rfl
@[simp] theorem take_era (p : Packet) : (s.take p).era = s.era := rfl
@[simp] theorem take_memRegion (p : Packet) : (s.take p).memRegion = s.memRegion := rfl
@[simp] theorem take_memRej (p : Packet) : (s.take p).memRej = s.memRej := rfl
@[simp] theorem take_astBase (p : Packet) : (s.take p).astBase = s.astBase := rfl
@[simp] theorem take_astRej (p : Packet) : (s.take p).astRej = s.astRej := rfl
@[simp] theorem take_sample (p : Packet) : (s.take p).sample = s.sample := rfl
@[simp] theorem take_windows (p : Packet) : (s.take p).windows = s.windows := rfl
@[simp] theorem take_counts (p : Packet) : (s.take p).counts = s.counts := rfl
@[simp] theorem take_snapshot (p : Packet) : (s.take p).snapshot = s.snapshot := rfl
@[simp] theorem take_snapWin (p : Packet) : (s.take p).snapWin = s.snapWin := rfl
@[simp] theorem take_waits (p : Packet) : (s.take p).waits = s.waits := rfl
@[simp] theorem take_slotWaits (p : Packet) : (s.take p).slotWaits = s.slotWaits := rfl
@[simp] theorem take_resends (p : Packet) : (s.take p).resends = s.resends := rfl
@[simp] theorem take_winResends (p : Packet) : (s.take p).winResends = s.winResends := rfl
@[simp] theorem take_gws (p : Packet) : (s.take p).gws = s.gws := rfl
@[simp] theorem take_dsps (p : Packet) : (s.take p).dsps = s.dsps := rfl
@[simp] theorem take_fclkRej (p : Packet) : (s.take p).fclkRej = s.fclkRej := rfl
@[simp] theorem take_regions (p : Packet) : (s.take p).regions = s.regions := rfl
@[simp] theorem take_bram (p : Packet) : (s.take p).bram = s.bram := rfl
@[simp] theorem take_flops (p : Packet) : (s.take p).flops = s.flops := rfl
@[simp] theorem take_logic (p : Packet) : (s.take p).logic = s.logic := rfl
@[simp] theorem take_loader (p : Packet) : (s.take p).loader = s.loader := rfl
@[simp] theorem take_health (p : Packet) : (s.take p).health = s.health := rfl
@[simp] theorem take_rst (p : Packet) : (s.take p).rst = s.rst := rfl
@[simp] theorem take_gov (p : Packet) : (s.take p).gov = s.gov := rfl
@[simp] theorem take_pins (p : Packet) : (s.take p).pins = s.pins := rfl
@[simp] theorem take_keeper (p : Packet) : (s.take p).keeper = s.keeper := rfl
@[simp] theorem take_sec (p : Packet) : (s.take p).sec = s.sec := rfl
@[simp] theorem take_dbg (p : Packet) : (s.take p).dbg = s.dbg := rfl
@[simp] theorem take_fns (p : Packet) : (s.take p).fns = s.fns := rfl
@[simp] theorem take_ports (p : Packet) : (s.take p).ports = s.ports := rfl
@[simp] theorem take_chans (p : Packet) : (s.take p).chans = s.chans := rfl
@[simp] theorem take_cacheLru (p : Packet) : (s.take p).cacheLru = s.cacheLru := rfl
@[simp] theorem take_mapWaits (p : Packet) : (s.take p).mapWaits = s.mapWaits := rfl
@[simp] theorem take_hostMem (p : Packet) : (s.take p).hostMem = s.hostMem := rfl
@[simp] theorem take_hostLost (p : Packet) : (s.take p).hostLost = s.hostLost := rfl
@[simp] theorem take_msix (p : Packet) : (s.take p).msix = s.msix := rfl
@[simp] theorem take_devId (p : Packet) : (s.take p).devId = s.devId := rfl
@[simp] theorem take_zegus (p : Packet) : (s.take p).zegus = s.zegus := rfl
@[simp] theorem take_partner (p : Packet) : (s.take p).partner = s.partner := rfl

/-! ## hbmWrite -/

@[simp] theorem hbmWrite_pending (n a : Nat) (v : List Byte) : (s.hbmWrite n a v).pending = s.pending := rfl
@[simp] theorem hbmWrite_variant (n a : Nat) (v : List Byte) : (s.hbmWrite n a v).variant = s.variant := rfl
@[simp] theorem hbmWrite_free (n a : Nat) (v : List Byte) : (s.hbmWrite n a v).free = s.free := rfl
@[simp] theorem hbmWrite_ltc (n a : Nat) (v : List Byte) : (s.hbmWrite n a v).ltc = s.ltc := rfl
@[simp] theorem hbmWrite_fresh (n a : Nat) (v : List Byte) : (s.hbmWrite n a v).fresh = s.fresh := rfl
@[simp] theorem hbmWrite_beats (n a : Nat) (v : List Byte) : (s.hbmWrite n a v).beats = s.beats := rfl
@[simp] theorem hbmWrite_ens (n a : Nat) (v : List Byte) : (s.hbmWrite n a v).ens = s.ens := rfl
@[simp] theorem hbmWrite_banks (n a : Nat) (v : List Byte) : (s.hbmWrite n a v).banks = s.banks := rfl
@[simp] theorem hbmWrite_lastBank (n a : Nat) (v : List Byte) : (s.hbmWrite n a v).lastBank = s.lastBank := rfl
@[simp] theorem hbmWrite_tiles (n a : Nat) (v : List Byte) : (s.hbmWrite n a v).tiles = s.tiles := rfl
@[simp] theorem hbmWrite_tstore (n a : Nat) (v : List Byte) : (s.hbmWrite n a v).tstore = s.tstore := rfl
@[simp] theorem hbmWrite_tpoison (n a : Nat) (v : List Byte) : (s.hbmWrite n a v).tpoison = s.tpoison := rfl
@[simp] theorem hbmWrite_tfixed (n a : Nat) (v : List Byte) : (s.hbmWrite n a v).tfixed = s.tfixed := rfl
@[simp] theorem hbmWrite_tserv (n a : Nat) (v : List Byte) : (s.hbmWrite n a v).tserv = s.tserv := rfl
@[simp] theorem hbmWrite_sserv (n a : Nat) (v : List Byte) : (s.hbmWrite n a v).sserv = s.sserv := rfl
@[simp] theorem hbmWrite_tspares (n a : Nat) (v : List Byte) : (s.hbmWrite n a v).tspares = s.tspares := rfl
@[simp] theorem hbmWrite_sspares (n a : Nat) (v : List Byte) : (s.hbmWrite n a v).sspares = s.sspares := rfl
@[simp] theorem hbmWrite_ses (n a : Nat) (v : List Byte) : (s.hbmWrite n a v).ses = s.ses := rfl
@[simp] theorem hbmWrite_sync (n a : Nat) (v : List Byte) : (s.hbmWrite n a v).sync = s.sync := rfl
@[simp] theorem hbmWrite_remote (n a : Nat) (v : List Byte) : (s.hbmWrite n a v).remote = s.remote := rfl
@[simp] theorem hbmWrite_mses (n a : Nat) (v : List Byte) : (s.hbmWrite n a v).mses = s.mses := rfl
@[simp] theorem hbmWrite_clusters (n a : Nat) (v : List Byte) : (s.hbmWrite n a v).clusters = s.clusters := rfl
@[simp] theorem hbmWrite_hbm (n a : Nat) (v : List Byte) : (s.hbmWrite n a v).hbm = Map.setAll s.hbm 0 (hbmKey n a) v := rfl
@[simp] theorem hbmWrite_hpoison (n a : Nat) (v : List Byte) : (s.hbmWrite n a v).hpoison = s.hpoison := rfl
@[simp] theorem hbmWrite_terr (n a : Nat) (v : List Byte) : (s.hbmWrite n a v).terr = s.terr := rfl
@[simp] theorem hbmWrite_pcs (n a : Nat) (v : List Byte) : (s.hbmWrite n a v).pcs = s.pcs := rfl
@[simp] theorem hbmWrite_hstack (n a : Nat) (v : List Byte) : (s.hbmWrite n a v).hstack = s.hstack := rfl
@[simp] theorem hbmWrite_tlbs (n a : Nat) (v : List Byte) : (s.hbmWrite n a v).tlbs = s.tlbs := rfl
@[simp] theorem hbmWrite_walkers (n a : Nat) (v : List Byte) : (s.hbmWrite n a v).walkers = s.walkers := rfl
@[simp] theorem hbmWrite_net (n a : Nat) (v : List Byte) : (s.hbmWrite n a v).net = s.net := rfl
@[simp] theorem hbmWrite_era (n a : Nat) (v : List Byte) : (s.hbmWrite n a v).era = s.era := rfl
@[simp] theorem hbmWrite_memRegion (n a : Nat) (v : List Byte) : (s.hbmWrite n a v).memRegion = s.memRegion := rfl
@[simp] theorem hbmWrite_memRej (n a : Nat) (v : List Byte) : (s.hbmWrite n a v).memRej = s.memRej := rfl
@[simp] theorem hbmWrite_astBase (n a : Nat) (v : List Byte) : (s.hbmWrite n a v).astBase = s.astBase := rfl
@[simp] theorem hbmWrite_astRej (n a : Nat) (v : List Byte) : (s.hbmWrite n a v).astRej = s.astRej := rfl
@[simp] theorem hbmWrite_sample (n a : Nat) (v : List Byte) : (s.hbmWrite n a v).sample = s.sample := rfl
@[simp] theorem hbmWrite_windows (n a : Nat) (v : List Byte) : (s.hbmWrite n a v).windows = s.windows := rfl
@[simp] theorem hbmWrite_counts (n a : Nat) (v : List Byte) : (s.hbmWrite n a v).counts = s.counts := rfl
@[simp] theorem hbmWrite_snapshot (n a : Nat) (v : List Byte) : (s.hbmWrite n a v).snapshot = s.snapshot := rfl
@[simp] theorem hbmWrite_snapWin (n a : Nat) (v : List Byte) : (s.hbmWrite n a v).snapWin = s.snapWin := rfl
@[simp] theorem hbmWrite_waits (n a : Nat) (v : List Byte) : (s.hbmWrite n a v).waits = s.waits := rfl
@[simp] theorem hbmWrite_slotWaits (n a : Nat) (v : List Byte) : (s.hbmWrite n a v).slotWaits = s.slotWaits := rfl
@[simp] theorem hbmWrite_resends (n a : Nat) (v : List Byte) : (s.hbmWrite n a v).resends = s.resends := rfl
@[simp] theorem hbmWrite_winResends (n a : Nat) (v : List Byte) : (s.hbmWrite n a v).winResends = s.winResends := rfl
@[simp] theorem hbmWrite_gws (n a : Nat) (v : List Byte) : (s.hbmWrite n a v).gws = s.gws := rfl
@[simp] theorem hbmWrite_dsps (n a : Nat) (v : List Byte) : (s.hbmWrite n a v).dsps = s.dsps := rfl
@[simp] theorem hbmWrite_fclkRej (n a : Nat) (v : List Byte) : (s.hbmWrite n a v).fclkRej = s.fclkRej := rfl
@[simp] theorem hbmWrite_regions (n a : Nat) (v : List Byte) : (s.hbmWrite n a v).regions = s.regions := rfl
@[simp] theorem hbmWrite_bram (n a : Nat) (v : List Byte) : (s.hbmWrite n a v).bram = s.bram := rfl
@[simp] theorem hbmWrite_flops (n a : Nat) (v : List Byte) : (s.hbmWrite n a v).flops = s.flops := rfl
@[simp] theorem hbmWrite_logic (n a : Nat) (v : List Byte) : (s.hbmWrite n a v).logic = s.logic := rfl
@[simp] theorem hbmWrite_loader (n a : Nat) (v : List Byte) : (s.hbmWrite n a v).loader = s.loader := rfl
@[simp] theorem hbmWrite_health (n a : Nat) (v : List Byte) : (s.hbmWrite n a v).health = s.health := rfl
@[simp] theorem hbmWrite_rst (n a : Nat) (v : List Byte) : (s.hbmWrite n a v).rst = s.rst := rfl
@[simp] theorem hbmWrite_gov (n a : Nat) (v : List Byte) : (s.hbmWrite n a v).gov = s.gov := rfl
@[simp] theorem hbmWrite_pins (n a : Nat) (v : List Byte) : (s.hbmWrite n a v).pins = s.pins := rfl
@[simp] theorem hbmWrite_keeper (n a : Nat) (v : List Byte) : (s.hbmWrite n a v).keeper = s.keeper := rfl
@[simp] theorem hbmWrite_sec (n a : Nat) (v : List Byte) : (s.hbmWrite n a v).sec = s.sec := rfl
@[simp] theorem hbmWrite_dbg (n a : Nat) (v : List Byte) : (s.hbmWrite n a v).dbg = s.dbg := rfl
@[simp] theorem hbmWrite_fns (n a : Nat) (v : List Byte) : (s.hbmWrite n a v).fns = s.fns := rfl
@[simp] theorem hbmWrite_ports (n a : Nat) (v : List Byte) : (s.hbmWrite n a v).ports = s.ports := rfl
@[simp] theorem hbmWrite_chans (n a : Nat) (v : List Byte) : (s.hbmWrite n a v).chans = s.chans := rfl
@[simp] theorem hbmWrite_cacheLru (n a : Nat) (v : List Byte) : (s.hbmWrite n a v).cacheLru = s.cacheLru := rfl
@[simp] theorem hbmWrite_mapWaits (n a : Nat) (v : List Byte) : (s.hbmWrite n a v).mapWaits = s.mapWaits := rfl
@[simp] theorem hbmWrite_hostMem (n a : Nat) (v : List Byte) : (s.hbmWrite n a v).hostMem = s.hostMem := rfl
@[simp] theorem hbmWrite_hostLost (n a : Nat) (v : List Byte) : (s.hbmWrite n a v).hostLost = s.hostLost := rfl
@[simp] theorem hbmWrite_msix (n a : Nat) (v : List Byte) : (s.hbmWrite n a v).msix = s.msix := rfl
@[simp] theorem hbmWrite_devId (n a : Nat) (v : List Byte) : (s.hbmWrite n a v).devId = s.devId := rfl
@[simp] theorem hbmWrite_zegus (n a : Nat) (v : List Byte) : (s.hbmWrite n a v).zegus = s.zegus := rfl
@[simp] theorem hbmWrite_partner (n a : Nat) (v : List Byte) : (s.hbmWrite n a v).partner = s.partner := rfl

/-! ## hbmPoison -/

@[simp] theorem hbmPoison_pending (n a : Nat) (b : Bool) : (s.hbmPoison n a b).pending = s.pending := rfl
@[simp] theorem hbmPoison_variant (n a : Nat) (b : Bool) : (s.hbmPoison n a b).variant = s.variant := rfl
@[simp] theorem hbmPoison_free (n a : Nat) (b : Bool) : (s.hbmPoison n a b).free = s.free := rfl
@[simp] theorem hbmPoison_ltc (n a : Nat) (b : Bool) : (s.hbmPoison n a b).ltc = s.ltc := rfl
@[simp] theorem hbmPoison_fresh (n a : Nat) (b : Bool) : (s.hbmPoison n a b).fresh = s.fresh := rfl
@[simp] theorem hbmPoison_beats (n a : Nat) (b : Bool) : (s.hbmPoison n a b).beats = s.beats := rfl
@[simp] theorem hbmPoison_ens (n a : Nat) (b : Bool) : (s.hbmPoison n a b).ens = s.ens := rfl
@[simp] theorem hbmPoison_banks (n a : Nat) (b : Bool) : (s.hbmPoison n a b).banks = s.banks := rfl
@[simp] theorem hbmPoison_lastBank (n a : Nat) (b : Bool) : (s.hbmPoison n a b).lastBank = s.lastBank := rfl
@[simp] theorem hbmPoison_tiles (n a : Nat) (b : Bool) : (s.hbmPoison n a b).tiles = s.tiles := rfl
@[simp] theorem hbmPoison_tstore (n a : Nat) (b : Bool) : (s.hbmPoison n a b).tstore = s.tstore := rfl
@[simp] theorem hbmPoison_tpoison (n a : Nat) (b : Bool) : (s.hbmPoison n a b).tpoison = s.tpoison := rfl
@[simp] theorem hbmPoison_tfixed (n a : Nat) (b : Bool) : (s.hbmPoison n a b).tfixed = s.tfixed := rfl
@[simp] theorem hbmPoison_tserv (n a : Nat) (b : Bool) : (s.hbmPoison n a b).tserv = s.tserv := rfl
@[simp] theorem hbmPoison_sserv (n a : Nat) (b : Bool) : (s.hbmPoison n a b).sserv = s.sserv := rfl
@[simp] theorem hbmPoison_tspares (n a : Nat) (b : Bool) : (s.hbmPoison n a b).tspares = s.tspares := rfl
@[simp] theorem hbmPoison_sspares (n a : Nat) (b : Bool) : (s.hbmPoison n a b).sspares = s.sspares := rfl
@[simp] theorem hbmPoison_ses (n a : Nat) (b : Bool) : (s.hbmPoison n a b).ses = s.ses := rfl
@[simp] theorem hbmPoison_sync (n a : Nat) (b : Bool) : (s.hbmPoison n a b).sync = s.sync := rfl
@[simp] theorem hbmPoison_remote (n a : Nat) (b : Bool) : (s.hbmPoison n a b).remote = s.remote := rfl
@[simp] theorem hbmPoison_mses (n a : Nat) (b : Bool) : (s.hbmPoison n a b).mses = s.mses := rfl
@[simp] theorem hbmPoison_clusters (n a : Nat) (b : Bool) : (s.hbmPoison n a b).clusters = s.clusters := rfl
@[simp] theorem hbmPoison_hbm (n a : Nat) (b : Bool) : (s.hbmPoison n a b).hbm = s.hbm := rfl
@[simp] theorem hbmPoison_hpoison (n a : Nat) (b : Bool) : (s.hbmPoison n a b).hpoison = putIdx s.hpoison (hbmLine n a) b := rfl
@[simp] theorem hbmPoison_hfixed (n a : Nat) (b : Bool) : (s.hbmPoison n a b).hfixed = s.hfixed := rfl
@[simp] theorem hbmPoison_terr (n a : Nat) (b : Bool) : (s.hbmPoison n a b).terr = s.terr := rfl
@[simp] theorem hbmPoison_pcs (n a : Nat) (b : Bool) : (s.hbmPoison n a b).pcs = s.pcs := rfl
@[simp] theorem hbmPoison_hstack (n a : Nat) (b : Bool) : (s.hbmPoison n a b).hstack = s.hstack := rfl
@[simp] theorem hbmPoison_tlbs (n a : Nat) (b : Bool) : (s.hbmPoison n a b).tlbs = s.tlbs := rfl
@[simp] theorem hbmPoison_walkers (n a : Nat) (b : Bool) : (s.hbmPoison n a b).walkers = s.walkers := rfl
@[simp] theorem hbmPoison_net (n a : Nat) (b : Bool) : (s.hbmPoison n a b).net = s.net := rfl
@[simp] theorem hbmPoison_era (n a : Nat) (b : Bool) : (s.hbmPoison n a b).era = s.era := rfl
@[simp] theorem hbmPoison_memRegion (n a : Nat) (b : Bool) : (s.hbmPoison n a b).memRegion = s.memRegion := rfl
@[simp] theorem hbmPoison_memRej (n a : Nat) (b : Bool) : (s.hbmPoison n a b).memRej = s.memRej := rfl
@[simp] theorem hbmPoison_astBase (n a : Nat) (b : Bool) : (s.hbmPoison n a b).astBase = s.astBase := rfl
@[simp] theorem hbmPoison_astRej (n a : Nat) (b : Bool) : (s.hbmPoison n a b).astRej = s.astRej := rfl
@[simp] theorem hbmPoison_sample (n a : Nat) (b : Bool) : (s.hbmPoison n a b).sample = s.sample := rfl
@[simp] theorem hbmPoison_windows (n a : Nat) (b : Bool) : (s.hbmPoison n a b).windows = s.windows := rfl
@[simp] theorem hbmPoison_counts (n a : Nat) (b : Bool) : (s.hbmPoison n a b).counts = s.counts := rfl
@[simp] theorem hbmPoison_snapshot (n a : Nat) (b : Bool) : (s.hbmPoison n a b).snapshot = s.snapshot := rfl
@[simp] theorem hbmPoison_snapWin (n a : Nat) (b : Bool) : (s.hbmPoison n a b).snapWin = s.snapWin := rfl
@[simp] theorem hbmPoison_waits (n a : Nat) (b : Bool) : (s.hbmPoison n a b).waits = s.waits := rfl
@[simp] theorem hbmPoison_slotWaits (n a : Nat) (b : Bool) : (s.hbmPoison n a b).slotWaits = s.slotWaits := rfl
@[simp] theorem hbmPoison_resends (n a : Nat) (b : Bool) : (s.hbmPoison n a b).resends = s.resends := rfl
@[simp] theorem hbmPoison_winResends (n a : Nat) (b : Bool) : (s.hbmPoison n a b).winResends = s.winResends := rfl
@[simp] theorem hbmPoison_gws (n a : Nat) (b : Bool) : (s.hbmPoison n a b).gws = s.gws := rfl
@[simp] theorem hbmPoison_dsps (n a : Nat) (b : Bool) : (s.hbmPoison n a b).dsps = s.dsps := rfl
@[simp] theorem hbmPoison_fclkRej (n a : Nat) (b : Bool) : (s.hbmPoison n a b).fclkRej = s.fclkRej := rfl
@[simp] theorem hbmPoison_regions (n a : Nat) (b : Bool) : (s.hbmPoison n a b).regions = s.regions := rfl
@[simp] theorem hbmPoison_bram (n a : Nat) (b : Bool) : (s.hbmPoison n a b).bram = s.bram := rfl
@[simp] theorem hbmPoison_flops (n a : Nat) (b : Bool) : (s.hbmPoison n a b).flops = s.flops := rfl
@[simp] theorem hbmPoison_logic (n a : Nat) (b : Bool) : (s.hbmPoison n a b).logic = s.logic := rfl
@[simp] theorem hbmPoison_loader (n a : Nat) (b : Bool) : (s.hbmPoison n a b).loader = s.loader := rfl
@[simp] theorem hbmPoison_health (n a : Nat) (b : Bool) : (s.hbmPoison n a b).health = s.health := rfl
@[simp] theorem hbmPoison_rst (n a : Nat) (b : Bool) : (s.hbmPoison n a b).rst = s.rst := rfl
@[simp] theorem hbmPoison_gov (n a : Nat) (b : Bool) : (s.hbmPoison n a b).gov = s.gov := rfl
@[simp] theorem hbmPoison_pins (n a : Nat) (b : Bool) : (s.hbmPoison n a b).pins = s.pins := rfl
@[simp] theorem hbmPoison_keeper (n a : Nat) (b : Bool) : (s.hbmPoison n a b).keeper = s.keeper := rfl
@[simp] theorem hbmPoison_sec (n a : Nat) (b : Bool) : (s.hbmPoison n a b).sec = s.sec := rfl
@[simp] theorem hbmPoison_dbg (n a : Nat) (b : Bool) : (s.hbmPoison n a b).dbg = s.dbg := rfl
@[simp] theorem hbmPoison_fns (n a : Nat) (b : Bool) : (s.hbmPoison n a b).fns = s.fns := rfl
@[simp] theorem hbmPoison_ports (n a : Nat) (b : Bool) : (s.hbmPoison n a b).ports = s.ports := rfl
@[simp] theorem hbmPoison_chans (n a : Nat) (b : Bool) : (s.hbmPoison n a b).chans = s.chans := rfl
@[simp] theorem hbmPoison_cacheLru (n a : Nat) (b : Bool) : (s.hbmPoison n a b).cacheLru = s.cacheLru := rfl
@[simp] theorem hbmPoison_mapWaits (n a : Nat) (b : Bool) : (s.hbmPoison n a b).mapWaits = s.mapWaits := rfl
@[simp] theorem hbmPoison_hostMem (n a : Nat) (b : Bool) : (s.hbmPoison n a b).hostMem = s.hostMem := rfl
@[simp] theorem hbmPoison_hostLost (n a : Nat) (b : Bool) : (s.hbmPoison n a b).hostLost = s.hostLost := rfl
@[simp] theorem hbmPoison_msix (n a : Nat) (b : Bool) : (s.hbmPoison n a b).msix = s.msix := rfl
@[simp] theorem hbmPoison_devId (n a : Nat) (b : Bool) : (s.hbmPoison n a b).devId = s.devId := rfl
@[simp] theorem hbmPoison_zegus (n a : Nat) (b : Bool) : (s.hbmPoison n a b).zegus = s.zegus := rfl
@[simp] theorem hbmPoison_partner (n a : Nat) (b : Bool) : (s.hbmPoison n a b).partner = s.partner := rfl

/-! ## tsWrite -/

@[simp] theorem tsWrite_pending (n a : Nat) (v : List Byte) : (s.tsWrite n a v).pending = s.pending := rfl
@[simp] theorem tsWrite_variant (n a : Nat) (v : List Byte) : (s.tsWrite n a v).variant = s.variant := rfl
@[simp] theorem tsWrite_free (n a : Nat) (v : List Byte) : (s.tsWrite n a v).free = s.free := rfl
@[simp] theorem tsWrite_ltc (n a : Nat) (v : List Byte) : (s.tsWrite n a v).ltc = s.ltc := rfl
@[simp] theorem tsWrite_fresh (n a : Nat) (v : List Byte) : (s.tsWrite n a v).fresh = s.fresh := rfl
@[simp] theorem tsWrite_beats (n a : Nat) (v : List Byte) : (s.tsWrite n a v).beats = s.beats := rfl
@[simp] theorem tsWrite_ens (n a : Nat) (v : List Byte) : (s.tsWrite n a v).ens = s.ens := rfl
@[simp] theorem tsWrite_banks (n a : Nat) (v : List Byte) : (s.tsWrite n a v).banks = s.banks := rfl
@[simp] theorem tsWrite_lastBank (n a : Nat) (v : List Byte) : (s.tsWrite n a v).lastBank = s.lastBank := rfl
@[simp] theorem tsWrite_tiles (n a : Nat) (v : List Byte) : (s.tsWrite n a v).tiles = s.tiles := rfl
@[simp] theorem tsWrite_tstore (n a : Nat) (v : List Byte) : (s.tsWrite n a v).tstore = Map.setAll s.tstore 0 (tsKey n a) v := rfl
@[simp] theorem tsWrite_tpoison (n a : Nat) (v : List Byte) : (s.tsWrite n a v).tpoison = s.tpoison := rfl
@[simp] theorem tsWrite_tserv (n a : Nat) (v : List Byte) : (s.tsWrite n a v).tserv = s.tserv := rfl
@[simp] theorem tsWrite_sserv (n a : Nat) (v : List Byte) : (s.tsWrite n a v).sserv = s.sserv := rfl
@[simp] theorem tsWrite_tspares (n a : Nat) (v : List Byte) : (s.tsWrite n a v).tspares = s.tspares := rfl
@[simp] theorem tsWrite_sspares (n a : Nat) (v : List Byte) : (s.tsWrite n a v).sspares = s.sspares := rfl
@[simp] theorem tsWrite_ses (n a : Nat) (v : List Byte) : (s.tsWrite n a v).ses = s.ses := rfl
@[simp] theorem tsWrite_sync (n a : Nat) (v : List Byte) : (s.tsWrite n a v).sync = s.sync := rfl
@[simp] theorem tsWrite_remote (n a : Nat) (v : List Byte) : (s.tsWrite n a v).remote = s.remote := rfl
@[simp] theorem tsWrite_mses (n a : Nat) (v : List Byte) : (s.tsWrite n a v).mses = s.mses := rfl
@[simp] theorem tsWrite_clusters (n a : Nat) (v : List Byte) : (s.tsWrite n a v).clusters = s.clusters := rfl
@[simp] theorem tsWrite_hbm (n a : Nat) (v : List Byte) : (s.tsWrite n a v).hbm = s.hbm := rfl
@[simp] theorem tsWrite_hpoison (n a : Nat) (v : List Byte) : (s.tsWrite n a v).hpoison = s.hpoison := rfl
@[simp] theorem tsWrite_hfixed (n a : Nat) (v : List Byte) : (s.tsWrite n a v).hfixed = s.hfixed := rfl
@[simp] theorem tsWrite_herr (n a : Nat) (v : List Byte) : (s.tsWrite n a v).herr = s.herr := rfl
@[simp] theorem tsWrite_pcs (n a : Nat) (v : List Byte) : (s.tsWrite n a v).pcs = s.pcs := rfl
@[simp] theorem tsWrite_hstack (n a : Nat) (v : List Byte) : (s.tsWrite n a v).hstack = s.hstack := rfl
@[simp] theorem tsWrite_tlbs (n a : Nat) (v : List Byte) : (s.tsWrite n a v).tlbs = s.tlbs := rfl
@[simp] theorem tsWrite_walkers (n a : Nat) (v : List Byte) : (s.tsWrite n a v).walkers = s.walkers := rfl
@[simp] theorem tsWrite_net (n a : Nat) (v : List Byte) : (s.tsWrite n a v).net = s.net := rfl
@[simp] theorem tsWrite_era (n a : Nat) (v : List Byte) : (s.tsWrite n a v).era = s.era := rfl
@[simp] theorem tsWrite_memRegion (n a : Nat) (v : List Byte) : (s.tsWrite n a v).memRegion = s.memRegion := rfl
@[simp] theorem tsWrite_memRej (n a : Nat) (v : List Byte) : (s.tsWrite n a v).memRej = s.memRej := rfl
@[simp] theorem tsWrite_astBase (n a : Nat) (v : List Byte) : (s.tsWrite n a v).astBase = s.astBase := rfl
@[simp] theorem tsWrite_astRej (n a : Nat) (v : List Byte) : (s.tsWrite n a v).astRej = s.astRej := rfl
@[simp] theorem tsWrite_sample (n a : Nat) (v : List Byte) : (s.tsWrite n a v).sample = s.sample := rfl
@[simp] theorem tsWrite_windows (n a : Nat) (v : List Byte) : (s.tsWrite n a v).windows = s.windows := rfl
@[simp] theorem tsWrite_counts (n a : Nat) (v : List Byte) : (s.tsWrite n a v).counts = s.counts := rfl
@[simp] theorem tsWrite_snapshot (n a : Nat) (v : List Byte) : (s.tsWrite n a v).snapshot = s.snapshot := rfl
@[simp] theorem tsWrite_snapWin (n a : Nat) (v : List Byte) : (s.tsWrite n a v).snapWin = s.snapWin := rfl
@[simp] theorem tsWrite_waits (n a : Nat) (v : List Byte) : (s.tsWrite n a v).waits = s.waits := rfl
@[simp] theorem tsWrite_slotWaits (n a : Nat) (v : List Byte) : (s.tsWrite n a v).slotWaits = s.slotWaits := rfl
@[simp] theorem tsWrite_resends (n a : Nat) (v : List Byte) : (s.tsWrite n a v).resends = s.resends := rfl
@[simp] theorem tsWrite_winResends (n a : Nat) (v : List Byte) : (s.tsWrite n a v).winResends = s.winResends := rfl
@[simp] theorem tsWrite_gws (n a : Nat) (v : List Byte) : (s.tsWrite n a v).gws = s.gws := rfl
@[simp] theorem tsWrite_dsps (n a : Nat) (v : List Byte) : (s.tsWrite n a v).dsps = s.dsps := rfl
@[simp] theorem tsWrite_fclkRej (n a : Nat) (v : List Byte) : (s.tsWrite n a v).fclkRej = s.fclkRej := rfl
@[simp] theorem tsWrite_regions (n a : Nat) (v : List Byte) : (s.tsWrite n a v).regions = s.regions := rfl
@[simp] theorem tsWrite_bram (n a : Nat) (v : List Byte) : (s.tsWrite n a v).bram = s.bram := rfl
@[simp] theorem tsWrite_flops (n a : Nat) (v : List Byte) : (s.tsWrite n a v).flops = s.flops := rfl
@[simp] theorem tsWrite_logic (n a : Nat) (v : List Byte) : (s.tsWrite n a v).logic = s.logic := rfl
@[simp] theorem tsWrite_loader (n a : Nat) (v : List Byte) : (s.tsWrite n a v).loader = s.loader := rfl
@[simp] theorem tsWrite_health (n a : Nat) (v : List Byte) : (s.tsWrite n a v).health = s.health := rfl
@[simp] theorem tsWrite_rst (n a : Nat) (v : List Byte) : (s.tsWrite n a v).rst = s.rst := rfl
@[simp] theorem tsWrite_gov (n a : Nat) (v : List Byte) : (s.tsWrite n a v).gov = s.gov := rfl
@[simp] theorem tsWrite_pins (n a : Nat) (v : List Byte) : (s.tsWrite n a v).pins = s.pins := rfl
@[simp] theorem tsWrite_keeper (n a : Nat) (v : List Byte) : (s.tsWrite n a v).keeper = s.keeper := rfl
@[simp] theorem tsWrite_sec (n a : Nat) (v : List Byte) : (s.tsWrite n a v).sec = s.sec := rfl
@[simp] theorem tsWrite_dbg (n a : Nat) (v : List Byte) : (s.tsWrite n a v).dbg = s.dbg := rfl
@[simp] theorem tsWrite_fns (n a : Nat) (v : List Byte) : (s.tsWrite n a v).fns = s.fns := rfl
@[simp] theorem tsWrite_ports (n a : Nat) (v : List Byte) : (s.tsWrite n a v).ports = s.ports := rfl
@[simp] theorem tsWrite_chans (n a : Nat) (v : List Byte) : (s.tsWrite n a v).chans = s.chans := rfl
@[simp] theorem tsWrite_cacheLru (n a : Nat) (v : List Byte) : (s.tsWrite n a v).cacheLru = s.cacheLru := rfl
@[simp] theorem tsWrite_mapWaits (n a : Nat) (v : List Byte) : (s.tsWrite n a v).mapWaits = s.mapWaits := rfl
@[simp] theorem tsWrite_hostMem (n a : Nat) (v : List Byte) : (s.tsWrite n a v).hostMem = s.hostMem := rfl
@[simp] theorem tsWrite_hostLost (n a : Nat) (v : List Byte) : (s.tsWrite n a v).hostLost = s.hostLost := rfl
@[simp] theorem tsWrite_msix (n a : Nat) (v : List Byte) : (s.tsWrite n a v).msix = s.msix := rfl
@[simp] theorem tsWrite_devId (n a : Nat) (v : List Byte) : (s.tsWrite n a v).devId = s.devId := rfl
@[simp] theorem tsWrite_zegus (n a : Nat) (v : List Byte) : (s.tsWrite n a v).zegus = s.zegus := rfl
@[simp] theorem tsWrite_partner (n a : Nat) (v : List Byte) : (s.tsWrite n a v).partner = s.partner := rfl

/-! ## tsPoison -/

@[simp] theorem tsPoison_pending (n a : Nat) (b : Bool) : (s.tsPoison n a b).pending = s.pending := rfl
@[simp] theorem tsPoison_variant (n a : Nat) (b : Bool) : (s.tsPoison n a b).variant = s.variant := rfl
@[simp] theorem tsPoison_free (n a : Nat) (b : Bool) : (s.tsPoison n a b).free = s.free := rfl
@[simp] theorem tsPoison_ltc (n a : Nat) (b : Bool) : (s.tsPoison n a b).ltc = s.ltc := rfl
@[simp] theorem tsPoison_fresh (n a : Nat) (b : Bool) : (s.tsPoison n a b).fresh = s.fresh := rfl
@[simp] theorem tsPoison_beats (n a : Nat) (b : Bool) : (s.tsPoison n a b).beats = s.beats := rfl
@[simp] theorem tsPoison_ens (n a : Nat) (b : Bool) : (s.tsPoison n a b).ens = s.ens := rfl
@[simp] theorem tsPoison_banks (n a : Nat) (b : Bool) : (s.tsPoison n a b).banks = s.banks := rfl
@[simp] theorem tsPoison_lastBank (n a : Nat) (b : Bool) : (s.tsPoison n a b).lastBank = s.lastBank := rfl
@[simp] theorem tsPoison_tiles (n a : Nat) (b : Bool) : (s.tsPoison n a b).tiles = s.tiles := rfl
@[simp] theorem tsPoison_tstore (n a : Nat) (b : Bool) : (s.tsPoison n a b).tstore = s.tstore := rfl
@[simp] theorem tsPoison_tpoison (n a : Nat) (b : Bool) : (s.tsPoison n a b).tpoison = putIdx s.tpoison (tsKey n a / 64) b := rfl
@[simp] theorem tsPoison_tfixed (n a : Nat) (b : Bool) : (s.tsPoison n a b).tfixed = s.tfixed := rfl
@[simp] theorem tsPoison_tserv (n a : Nat) (b : Bool) : (s.tsPoison n a b).tserv = s.tserv := rfl
@[simp] theorem tsPoison_sserv (n a : Nat) (b : Bool) : (s.tsPoison n a b).sserv = s.sserv := rfl
@[simp] theorem tsPoison_tspares (n a : Nat) (b : Bool) : (s.tsPoison n a b).tspares = s.tspares := rfl
@[simp] theorem tsPoison_sspares (n a : Nat) (b : Bool) : (s.tsPoison n a b).sspares = s.sspares := rfl
@[simp] theorem tsPoison_ses (n a : Nat) (b : Bool) : (s.tsPoison n a b).ses = s.ses := rfl
@[simp] theorem tsPoison_sync (n a : Nat) (b : Bool) : (s.tsPoison n a b).sync = s.sync := rfl
@[simp] theorem tsPoison_remote (n a : Nat) (b : Bool) : (s.tsPoison n a b).remote = s.remote := rfl
@[simp] theorem tsPoison_mses (n a : Nat) (b : Bool) : (s.tsPoison n a b).mses = s.mses := rfl
@[simp] theorem tsPoison_clusters (n a : Nat) (b : Bool) : (s.tsPoison n a b).clusters = s.clusters := rfl
@[simp] theorem tsPoison_hbm (n a : Nat) (b : Bool) : (s.tsPoison n a b).hbm = s.hbm := rfl
@[simp] theorem tsPoison_hpoison (n a : Nat) (b : Bool) : (s.tsPoison n a b).hpoison = s.hpoison := rfl
@[simp] theorem tsPoison_hfixed (n a : Nat) (b : Bool) : (s.tsPoison n a b).hfixed = s.hfixed := rfl
@[simp] theorem tsPoison_herr (n a : Nat) (b : Bool) : (s.tsPoison n a b).herr = s.herr := rfl
@[simp] theorem tsPoison_pcs (n a : Nat) (b : Bool) : (s.tsPoison n a b).pcs = s.pcs := rfl
@[simp] theorem tsPoison_hstack (n a : Nat) (b : Bool) : (s.tsPoison n a b).hstack = s.hstack := rfl
@[simp] theorem tsPoison_tlbs (n a : Nat) (b : Bool) : (s.tsPoison n a b).tlbs = s.tlbs := rfl
@[simp] theorem tsPoison_walkers (n a : Nat) (b : Bool) : (s.tsPoison n a b).walkers = s.walkers := rfl
@[simp] theorem tsPoison_net (n a : Nat) (b : Bool) : (s.tsPoison n a b).net = s.net := rfl
@[simp] theorem tsPoison_era (n a : Nat) (b : Bool) : (s.tsPoison n a b).era = s.era := rfl
@[simp] theorem tsPoison_memRegion (n a : Nat) (b : Bool) : (s.tsPoison n a b).memRegion = s.memRegion := rfl
@[simp] theorem tsPoison_memRej (n a : Nat) (b : Bool) : (s.tsPoison n a b).memRej = s.memRej := rfl
@[simp] theorem tsPoison_astBase (n a : Nat) (b : Bool) : (s.tsPoison n a b).astBase = s.astBase := rfl
@[simp] theorem tsPoison_astRej (n a : Nat) (b : Bool) : (s.tsPoison n a b).astRej = s.astRej := rfl
@[simp] theorem tsPoison_sample (n a : Nat) (b : Bool) : (s.tsPoison n a b).sample = s.sample := rfl
@[simp] theorem tsPoison_windows (n a : Nat) (b : Bool) : (s.tsPoison n a b).windows = s.windows := rfl
@[simp] theorem tsPoison_counts (n a : Nat) (b : Bool) : (s.tsPoison n a b).counts = s.counts := rfl
@[simp] theorem tsPoison_snapshot (n a : Nat) (b : Bool) : (s.tsPoison n a b).snapshot = s.snapshot := rfl
@[simp] theorem tsPoison_snapWin (n a : Nat) (b : Bool) : (s.tsPoison n a b).snapWin = s.snapWin := rfl
@[simp] theorem tsPoison_waits (n a : Nat) (b : Bool) : (s.tsPoison n a b).waits = s.waits := rfl
@[simp] theorem tsPoison_slotWaits (n a : Nat) (b : Bool) : (s.tsPoison n a b).slotWaits = s.slotWaits := rfl
@[simp] theorem tsPoison_resends (n a : Nat) (b : Bool) : (s.tsPoison n a b).resends = s.resends := rfl
@[simp] theorem tsPoison_winResends (n a : Nat) (b : Bool) : (s.tsPoison n a b).winResends = s.winResends := rfl
@[simp] theorem tsPoison_gws (n a : Nat) (b : Bool) : (s.tsPoison n a b).gws = s.gws := rfl
@[simp] theorem tsPoison_dsps (n a : Nat) (b : Bool) : (s.tsPoison n a b).dsps = s.dsps := rfl
@[simp] theorem tsPoison_fclkRej (n a : Nat) (b : Bool) : (s.tsPoison n a b).fclkRej = s.fclkRej := rfl
@[simp] theorem tsPoison_regions (n a : Nat) (b : Bool) : (s.tsPoison n a b).regions = s.regions := rfl
@[simp] theorem tsPoison_bram (n a : Nat) (b : Bool) : (s.tsPoison n a b).bram = s.bram := rfl
@[simp] theorem tsPoison_flops (n a : Nat) (b : Bool) : (s.tsPoison n a b).flops = s.flops := rfl
@[simp] theorem tsPoison_logic (n a : Nat) (b : Bool) : (s.tsPoison n a b).logic = s.logic := rfl
@[simp] theorem tsPoison_loader (n a : Nat) (b : Bool) : (s.tsPoison n a b).loader = s.loader := rfl
@[simp] theorem tsPoison_health (n a : Nat) (b : Bool) : (s.tsPoison n a b).health = s.health := rfl
@[simp] theorem tsPoison_rst (n a : Nat) (b : Bool) : (s.tsPoison n a b).rst = s.rst := rfl
@[simp] theorem tsPoison_gov (n a : Nat) (b : Bool) : (s.tsPoison n a b).gov = s.gov := rfl
@[simp] theorem tsPoison_pins (n a : Nat) (b : Bool) : (s.tsPoison n a b).pins = s.pins := rfl
@[simp] theorem tsPoison_keeper (n a : Nat) (b : Bool) : (s.tsPoison n a b).keeper = s.keeper := rfl
@[simp] theorem tsPoison_sec (n a : Nat) (b : Bool) : (s.tsPoison n a b).sec = s.sec := rfl
@[simp] theorem tsPoison_dbg (n a : Nat) (b : Bool) : (s.tsPoison n a b).dbg = s.dbg := rfl
@[simp] theorem tsPoison_fns (n a : Nat) (b : Bool) : (s.tsPoison n a b).fns = s.fns := rfl
@[simp] theorem tsPoison_ports (n a : Nat) (b : Bool) : (s.tsPoison n a b).ports = s.ports := rfl
@[simp] theorem tsPoison_chans (n a : Nat) (b : Bool) : (s.tsPoison n a b).chans = s.chans := rfl
@[simp] theorem tsPoison_cacheLru (n a : Nat) (b : Bool) : (s.tsPoison n a b).cacheLru = s.cacheLru := rfl
@[simp] theorem tsPoison_mapWaits (n a : Nat) (b : Bool) : (s.tsPoison n a b).mapWaits = s.mapWaits := rfl
@[simp] theorem tsPoison_hostMem (n a : Nat) (b : Bool) : (s.tsPoison n a b).hostMem = s.hostMem := rfl
@[simp] theorem tsPoison_hostLost (n a : Nat) (b : Bool) : (s.tsPoison n a b).hostLost = s.hostLost := rfl
@[simp] theorem tsPoison_msix (n a : Nat) (b : Bool) : (s.tsPoison n a b).msix = s.msix := rfl
@[simp] theorem tsPoison_devId (n a : Nat) (b : Bool) : (s.tsPoison n a b).devId = s.devId := rfl
@[simp] theorem tsPoison_zegus (n a : Nat) (b : Bool) : (s.tsPoison n a b).zegus = s.zegus := rfl
@[simp] theorem tsPoison_partner (n a : Nat) (b : Bool) : (s.tsPoison n a b).partner = s.partner := rfl

/-! ## hostWrite -/

@[simp] theorem hostWrite_pending (q a : Nat) (v : List Byte) : (s.hostWrite q a v).pending = s.pending := rfl
@[simp] theorem hostWrite_variant (q a : Nat) (v : List Byte) : (s.hostWrite q a v).variant = s.variant := rfl
@[simp] theorem hostWrite_free (q a : Nat) (v : List Byte) : (s.hostWrite q a v).free = s.free := rfl
@[simp] theorem hostWrite_ltc (q a : Nat) (v : List Byte) : (s.hostWrite q a v).ltc = s.ltc := rfl
@[simp] theorem hostWrite_fresh (q a : Nat) (v : List Byte) : (s.hostWrite q a v).fresh = s.fresh := rfl
@[simp] theorem hostWrite_beats (q a : Nat) (v : List Byte) : (s.hostWrite q a v).beats = s.beats := rfl
@[simp] theorem hostWrite_ens (q a : Nat) (v : List Byte) : (s.hostWrite q a v).ens = s.ens := rfl
@[simp] theorem hostWrite_banks (q a : Nat) (v : List Byte) : (s.hostWrite q a v).banks = s.banks := rfl
@[simp] theorem hostWrite_lastBank (q a : Nat) (v : List Byte) : (s.hostWrite q a v).lastBank = s.lastBank := rfl
@[simp] theorem hostWrite_tiles (q a : Nat) (v : List Byte) : (s.hostWrite q a v).tiles = s.tiles := rfl
@[simp] theorem hostWrite_tstore (q a : Nat) (v : List Byte) : (s.hostWrite q a v).tstore = s.tstore := rfl
@[simp] theorem hostWrite_tpoison (q a : Nat) (v : List Byte) : (s.hostWrite q a v).tpoison = s.tpoison := rfl
@[simp] theorem hostWrite_tfixed (q a : Nat) (v : List Byte) : (s.hostWrite q a v).tfixed = s.tfixed := rfl
@[simp] theorem hostWrite_tserv (q a : Nat) (v : List Byte) : (s.hostWrite q a v).tserv = s.tserv := rfl
@[simp] theorem hostWrite_sserv (q a : Nat) (v : List Byte) : (s.hostWrite q a v).sserv = s.sserv := rfl
@[simp] theorem hostWrite_tspares (q a : Nat) (v : List Byte) : (s.hostWrite q a v).tspares = s.tspares := rfl
@[simp] theorem hostWrite_sspares (q a : Nat) (v : List Byte) : (s.hostWrite q a v).sspares = s.sspares := rfl
@[simp] theorem hostWrite_ses (q a : Nat) (v : List Byte) : (s.hostWrite q a v).ses = s.ses := rfl
@[simp] theorem hostWrite_sync (q a : Nat) (v : List Byte) : (s.hostWrite q a v).sync = s.sync := rfl
@[simp] theorem hostWrite_remote (q a : Nat) (v : List Byte) : (s.hostWrite q a v).remote = s.remote := rfl
@[simp] theorem hostWrite_mses (q a : Nat) (v : List Byte) : (s.hostWrite q a v).mses = s.mses := rfl
@[simp] theorem hostWrite_clusters (q a : Nat) (v : List Byte) : (s.hostWrite q a v).clusters = s.clusters := rfl
@[simp] theorem hostWrite_hbm (q a : Nat) (v : List Byte) : (s.hostWrite q a v).hbm = s.hbm := rfl
@[simp] theorem hostWrite_hpoison (q a : Nat) (v : List Byte) : (s.hostWrite q a v).hpoison = s.hpoison := rfl
@[simp] theorem hostWrite_hfixed (q a : Nat) (v : List Byte) : (s.hostWrite q a v).hfixed = s.hfixed := rfl
@[simp] theorem hostWrite_herr (q a : Nat) (v : List Byte) : (s.hostWrite q a v).herr = s.herr := rfl
@[simp] theorem hostWrite_terr (q a : Nat) (v : List Byte) : (s.hostWrite q a v).terr = s.terr := rfl
@[simp] theorem hostWrite_pcs (q a : Nat) (v : List Byte) : (s.hostWrite q a v).pcs = s.pcs := rfl
@[simp] theorem hostWrite_hstack (q a : Nat) (v : List Byte) : (s.hostWrite q a v).hstack = s.hstack := rfl
@[simp] theorem hostWrite_tlbs (q a : Nat) (v : List Byte) : (s.hostWrite q a v).tlbs = s.tlbs := rfl
@[simp] theorem hostWrite_walkers (q a : Nat) (v : List Byte) : (s.hostWrite q a v).walkers = s.walkers := rfl
@[simp] theorem hostWrite_net (q a : Nat) (v : List Byte) : (s.hostWrite q a v).net = s.net := rfl
@[simp] theorem hostWrite_era (q a : Nat) (v : List Byte) : (s.hostWrite q a v).era = s.era := rfl
@[simp] theorem hostWrite_memRegion (q a : Nat) (v : List Byte) : (s.hostWrite q a v).memRegion = s.memRegion := rfl
@[simp] theorem hostWrite_memRej (q a : Nat) (v : List Byte) : (s.hostWrite q a v).memRej = s.memRej := rfl
@[simp] theorem hostWrite_astBase (q a : Nat) (v : List Byte) : (s.hostWrite q a v).astBase = s.astBase := rfl
@[simp] theorem hostWrite_astRej (q a : Nat) (v : List Byte) : (s.hostWrite q a v).astRej = s.astRej := rfl
@[simp] theorem hostWrite_sample (q a : Nat) (v : List Byte) : (s.hostWrite q a v).sample = s.sample := rfl
@[simp] theorem hostWrite_windows (q a : Nat) (v : List Byte) : (s.hostWrite q a v).windows = s.windows := rfl
@[simp] theorem hostWrite_counts (q a : Nat) (v : List Byte) : (s.hostWrite q a v).counts = s.counts := rfl
@[simp] theorem hostWrite_snapshot (q a : Nat) (v : List Byte) : (s.hostWrite q a v).snapshot = s.snapshot := rfl
@[simp] theorem hostWrite_snapWin (q a : Nat) (v : List Byte) : (s.hostWrite q a v).snapWin = s.snapWin := rfl
@[simp] theorem hostWrite_waits (q a : Nat) (v : List Byte) : (s.hostWrite q a v).waits = s.waits := rfl
@[simp] theorem hostWrite_slotWaits (q a : Nat) (v : List Byte) : (s.hostWrite q a v).slotWaits = s.slotWaits := rfl
@[simp] theorem hostWrite_resends (q a : Nat) (v : List Byte) : (s.hostWrite q a v).resends = s.resends := rfl
@[simp] theorem hostWrite_winResends (q a : Nat) (v : List Byte) : (s.hostWrite q a v).winResends = s.winResends := rfl
@[simp] theorem hostWrite_gws (q a : Nat) (v : List Byte) : (s.hostWrite q a v).gws = s.gws := rfl
@[simp] theorem hostWrite_dsps (q a : Nat) (v : List Byte) : (s.hostWrite q a v).dsps = s.dsps := rfl
@[simp] theorem hostWrite_fclkRej (q a : Nat) (v : List Byte) : (s.hostWrite q a v).fclkRej = s.fclkRej := rfl
@[simp] theorem hostWrite_regions (q a : Nat) (v : List Byte) : (s.hostWrite q a v).regions = s.regions := rfl
@[simp] theorem hostWrite_bram (q a : Nat) (v : List Byte) : (s.hostWrite q a v).bram = s.bram := rfl
@[simp] theorem hostWrite_flops (q a : Nat) (v : List Byte) : (s.hostWrite q a v).flops = s.flops := rfl
@[simp] theorem hostWrite_logic (q a : Nat) (v : List Byte) : (s.hostWrite q a v).logic = s.logic := rfl
@[simp] theorem hostWrite_loader (q a : Nat) (v : List Byte) : (s.hostWrite q a v).loader = s.loader := rfl
@[simp] theorem hostWrite_health (q a : Nat) (v : List Byte) : (s.hostWrite q a v).health = s.health := rfl
@[simp] theorem hostWrite_rst (q a : Nat) (v : List Byte) : (s.hostWrite q a v).rst = s.rst := rfl
@[simp] theorem hostWrite_gov (q a : Nat) (v : List Byte) : (s.hostWrite q a v).gov = s.gov := rfl
@[simp] theorem hostWrite_pins (q a : Nat) (v : List Byte) : (s.hostWrite q a v).pins = s.pins := rfl
@[simp] theorem hostWrite_keeper (q a : Nat) (v : List Byte) : (s.hostWrite q a v).keeper = s.keeper := rfl
@[simp] theorem hostWrite_sec (q a : Nat) (v : List Byte) : (s.hostWrite q a v).sec = s.sec := rfl
@[simp] theorem hostWrite_dbg (q a : Nat) (v : List Byte) : (s.hostWrite q a v).dbg = s.dbg := rfl
@[simp] theorem hostWrite_fns (q a : Nat) (v : List Byte) : (s.hostWrite q a v).fns = s.fns := rfl
@[simp] theorem hostWrite_ports (q a : Nat) (v : List Byte) : (s.hostWrite q a v).ports = s.ports := rfl
@[simp] theorem hostWrite_chans (q a : Nat) (v : List Byte) : (s.hostWrite q a v).chans = s.chans := rfl
@[simp] theorem hostWrite_cacheLru (q a : Nat) (v : List Byte) : (s.hostWrite q a v).cacheLru = s.cacheLru := rfl
@[simp] theorem hostWrite_mapWaits (q a : Nat) (v : List Byte) : (s.hostWrite q a v).mapWaits = s.mapWaits := rfl
@[simp] theorem hostWrite_hostMem (q a : Nat) (v : List Byte) : (s.hostWrite q a v).hostMem = Map.setAll s.hostMem 0 (hostKey q a) v := rfl
@[simp] theorem hostWrite_hostLost (q a : Nat) (v : List Byte) : (s.hostWrite q a v).hostLost = s.hostLost := rfl
@[simp] theorem hostWrite_msix (q a : Nat) (v : List Byte) : (s.hostWrite q a v).msix = s.msix := rfl
@[simp] theorem hostWrite_devId (q a : Nat) (v : List Byte) : (s.hostWrite q a v).devId = s.devId := rfl
@[simp] theorem hostWrite_zegus (q a : Nat) (v : List Byte) : (s.hostWrite q a v).zegus = s.zegus := rfl
@[simp] theorem hostWrite_partner (q a : Nat) (v : List Byte) : (s.hostWrite q a v).partner = s.partner := rfl

/-! ## What a group reads after its update -/

theorem setEn_en (n m : Nat) (v : Ens) : (s.setEn n v).en m = if m = n then v else s.en m := Map.get_set _ _ _ _ _
@[simp] theorem setEn_en_self (n : Nat) (v : Ens) : (s.setEn n v).en n = v := Map.get_set_self _ _ _ _
@[simp] theorem setEn_en_ne {n m : Nat} (v : Ens) (h : m ≠ n) : (s.setEn n v).en m = s.en m := Map.get_set_ne _ _ _ h
theorem setBk_bk (n m : Nat) (v : Bank) : (s.setBk n v).bk m = if m = n then v else s.bk m := Map.get_set _ _ _ _ _
@[simp] theorem setBk_bk_self (n : Nat) (v : Bank) : (s.setBk n v).bk n = v := Map.get_set_self _ _ _ _
@[simp] theorem setBk_bk_ne {n m : Nat} (v : Bank) (h : m ≠ n) : (s.setBk n v).bk m = s.bk m := Map.get_set_ne _ _ _ h
theorem setTile_tile (n m : Nat) (v : Tile) : (s.setTile n v).tile m = if m = n then v else s.tile m := Map.get_set _ _ _ _ _
@[simp] theorem setTile_tile_self (n : Nat) (v : Tile) : (s.setTile n v).tile n = v := Map.get_set_self _ _ _ _
@[simp] theorem setTile_tile_ne {n m : Nat} (v : Tile) (h : m ≠ n) : (s.setTile n v).tile m = s.tile m := Map.get_set_ne _ _ _ h
theorem setSe_se (n m : Nat) (v : Se) : (s.setSe n v).se m = if m = n then v else s.se m := Map.get_set _ _ _ _ _
@[simp] theorem setSe_se_self (n : Nat) (v : Se) : (s.setSe n v).se n = v := Map.get_set_self _ _ _ _
@[simp] theorem setSe_se_ne {n m : Nat} (v : Se) (h : m ≠ n) : (s.setSe n v).se m = s.se m := Map.get_set_ne _ _ _ h
theorem setObj_obj (n m : Nat) (v : SyncObj) : (s.setObj n v).obj m = if m = n then v else s.obj m := Map.get_set _ _ _ _ _
@[simp] theorem setObj_obj_self (n : Nat) (v : SyncObj) : (s.setObj n v).obj n = v := Map.get_set_self _ _ _ _
@[simp] theorem setObj_obj_ne {n m : Nat} (v : SyncObj) (h : m ≠ n) : (s.setObj n v).obj m = s.obj m := Map.get_set_ne _ _ _ h
theorem setMse_mse (n m : Nat) (v : Mse) : (s.setMse n v).mse m = if m = n then v else s.mse m := Map.get_set _ _ _ _ _
@[simp] theorem setMse_mse_self (n : Nat) (v : Mse) : (s.setMse n v).mse n = v := Map.get_set_self _ _ _ _
@[simp] theorem setMse_mse_ne {n m : Nat} (v : Mse) (h : m ≠ n) : (s.setMse n v).mse m = s.mse m := Map.get_set_ne _ _ _ h
theorem setCluster_cluster (n m : Nat) (v : Cluster) : (s.setCluster n v).cluster m = if m = n then v else s.cluster m := Map.get_set _ _ _ _ _
@[simp] theorem setCluster_cluster_self (n : Nat) (v : Cluster) : (s.setCluster n v).cluster n = v := Map.get_set_self _ _ _ _
@[simp] theorem setCluster_cluster_ne {n m : Nat} (v : Cluster) (h : m ≠ n) : (s.setCluster n v).cluster m = s.cluster m := Map.get_set_ne _ _ _ h
theorem setStk_stk (n m : Nat) (v : Stack) : (s.setStk n v).stk m = if m = n then v else s.stk m := Map.get_set _ _ _ _ _
@[simp] theorem setStk_stk_self (n : Nat) (v : Stack) : (s.setStk n v).stk n = v := Map.get_set_self _ _ _ _
@[simp] theorem setStk_stk_ne {n m : Nat} (v : Stack) (h : m ≠ n) : (s.setStk n v).stk m = s.stk m := Map.get_set_ne _ _ _ h
theorem setTlb_tlb (n m : Nat) (v : List TlbEntry) : (s.setTlb n v).tlb m = if m = n then v else s.tlb m := Map.get_set _ _ _ _ _
@[simp] theorem setTlb_tlb_self (n : Nat) (v : List TlbEntry) : (s.setTlb n v).tlb n = v := Map.get_set_self _ _ _ _
@[simp] theorem setTlb_tlb_ne {n m : Nat} (v : List TlbEntry) (h : m ≠ n) : (s.setTlb n v).tlb m = s.tlb m := Map.get_set_ne _ _ _ h
theorem setCount_count (n m : Nat) (v : NetCount) : (s.setCount n v).count m = if m = n then v else s.count m := Map.get_set _ _ _ _ _
@[simp] theorem setCount_count_self (n : Nat) (v : NetCount) : (s.setCount n v).count n = v := Map.get_set_self _ _ _ _
@[simp] theorem setCount_count_ne {n m : Nat} (v : NetCount) (h : m ≠ n) : (s.setCount n v).count m = s.count m := Map.get_set_ne _ _ _ h
theorem setGw_gw (n m : Nat) (v : Gateway) : (s.setGw n v).gw m = if m = n then v else s.gw m := Map.get_set _ _ _ _ _
@[simp] theorem setGw_gw_self (n : Nat) (v : Gateway) : (s.setGw n v).gw n = v := Map.get_set_self _ _ _ _
@[simp] theorem setGw_gw_ne {n m : Nat} (v : Gateway) (h : m ≠ n) : (s.setGw n v).gw m = s.gw m := Map.get_set_ne _ _ _ h
theorem setDsp_dsp (n m : Nat) (v : Dsp) : (s.setDsp n v).dsp m = if m = n then v else s.dsp m := Map.get_set _ _ _ _ _
@[simp] theorem setDsp_dsp_self (n : Nat) (v : Dsp) : (s.setDsp n v).dsp n = v := Map.get_set_self _ _ _ _
@[simp] theorem setDsp_dsp_ne {n m : Nat} (v : Dsp) (h : m ≠ n) : (s.setDsp n v).dsp m = s.dsp m := Map.get_set_ne _ _ _ h
theorem setRegion_region (n m : Nat) (v : Region) : (s.setRegion n v).region m = if m = n then v else s.region m := Map.get_set _ _ _ _ _
@[simp] theorem setRegion_region_self (n : Nat) (v : Region) : (s.setRegion n v).region n = v := Map.get_set_self _ _ _ _
@[simp] theorem setRegion_region_ne {n m : Nat} (v : Region) (h : m ≠ n) : (s.setRegion n v).region m = s.region m := Map.get_set_ne _ _ _ h
theorem setHl_hl (n m : Nat) (v : Health) : (s.setHl n v).hl m = if m = n then v else s.hl m := Map.get_set _ _ _ _ _
@[simp] theorem setHl_hl_self (n : Nat) (v : Health) : (s.setHl n v).hl n = v := Map.get_set_self _ _ _ _
@[simp] theorem setHl_hl_ne {n m : Nat} (v : Health) (h : m ≠ n) : (s.setHl n v).hl m = s.hl m := Map.get_set_ne _ _ _ h
theorem setFn_fn (n m : Nat) (v : Fn) : (s.setFn n v).fn m = if m = n then v else s.fn m := Map.get_set _ _ _ _ _
@[simp] theorem setFn_fn_self (n : Nat) (v : Fn) : (s.setFn n v).fn n = v := Map.get_set_self _ _ _ _
@[simp] theorem setFn_fn_ne {n m : Nat} (v : Fn) (h : m ≠ n) : (s.setFn n v).fn m = s.fn m := Map.get_set_ne _ _ _ h
theorem setPort_port (n m : Nat) (v : Port) : (s.setPort n v).port m = if m = n then v else s.port m := Map.get_set _ _ _ _ _
@[simp] theorem setPort_port_self (n : Nat) (v : Port) : (s.setPort n v).port n = v := Map.get_set_self _ _ _ _
@[simp] theorem setPort_port_ne {n m : Nat} (v : Port) (h : m ≠ n) : (s.setPort n v).port m = s.port m := Map.get_set_ne _ _ _ h
theorem setChan_chan (n m : Nat) (v : Chan) : (s.setChan n v).chan m = if m = n then v else s.chan m := Map.get_set _ _ _ _ _
@[simp] theorem setChan_chan_self (n : Nat) (v : Chan) : (s.setChan n v).chan n = v := Map.get_set_self _ _ _ _
@[simp] theorem setChan_chan_ne {n m : Nat} (v : Chan) (h : m ≠ n) : (s.setChan n v).chan m = s.chan m := Map.get_set_ne _ _ _ h
theorem setLink_link (n m : Nat) (v : Link) : (s.setLink n v).link m = if m = n then v else s.link m := Map.get_set _ _ _ _ _
@[simp] theorem setLink_link_self (n : Nat) (v : Link) : (s.setLink n v).link n = v := Map.get_set_self _ _ _ _
@[simp] theorem setLink_link_ne {n m : Nat} (v : Link) (h : m ≠ n) : (s.setLink n v).link m = s.link m := Map.get_set_ne _ _ _ h
theorem setDom_dom (n m : Nat) (v : Domain) : (s.setDom n v).dom m = if m = n then v else s.dom m := Map.get_set _ _ _ _ _
@[simp] theorem setDom_dom_self (n : Nat) (v : Domain) : (s.setDom n v).dom n = v := Map.get_set_self _ _ _ _
@[simp] theorem setDom_dom_ne {n m : Nat} (v : Domain) (h : m ≠ n) : (s.setDom n v).dom m = s.dom m := Map.get_set_ne _ _ _ h
@[simp] theorem setPc_pc_self (n p : Nat) (v : Pc) : (s.setPc n p v).pc n p = v := Map.get_set_self _ _ _ _
@[simp] theorem setPc_pc_ne {n p m q : Nat} (v : Pc) (h : 64 * m + q ≠ 64 * n + p) : (s.setPc n p v).pc m q = s.pc m q :=
  Map.get_set_ne _ _ _ h
@[simp] theorem setCtx_ctx_self (n c : Nat) (v : Ctx) : (s.setCtx n c v).ctx n c = v := by simp [setCtx, ctx]
theorem setCtx_ctx (n c m d : Nat) (v : Ctx) : (s.setCtx n c v).ctx m d = if m = n ∧ d = c then v else s.ctx m d := by
  unfold setCtx ctx
  by_cases hm : m = n
  · subst hm; simp [Map.get_set]
  · simp [hm]
@[simp] theorem setJob_job_self (n j : Nat) (v : Job) : (s.setJob n j v).job n j = v := by simp [setJob, job]
theorem setJob_job (n j m i : Nat) (v : Job) : (s.setJob n j v).job m i = if m = n ∧ i = j then v else s.job m i := by
  unfold setJob job
  by_cases hm : m = n
  · subst hm; simp [Map.get_set]
  · simp [hm]

/-! ## A group is read from its own field -/

theorem en_congr {s t : State} (h : t.ens = s.ens) (n : Nat) : t.en n = s.en n := by unfold en; rw [h]
theorem bk_congr {s t : State} (h : t.banks = s.banks) (n : Nat) : t.bk n = s.bk n := by unfold bk; rw [h]
theorem tile_congr {s t : State} (h : t.tiles = s.tiles) (n : Nat) : t.tile n = s.tile n := by unfold tile; rw [h]
theorem se_congr {s t : State} (h : t.ses = s.ses) (n : Nat) : t.se n = s.se n := by unfold se; rw [h]
theorem obj_congr {s t : State} (h : t.sync = s.sync) (n : Nat) : t.obj n = s.obj n := by unfold obj; rw [h]
theorem mse_congr {s t : State} (h : t.mses = s.mses) (n : Nat) : t.mse n = s.mse n := by unfold mse; rw [h]
theorem cluster_congr {s t : State} (h : t.clusters = s.clusters) (n : Nat) : t.cluster n = s.cluster n := by unfold cluster; rw [h]
theorem stk_congr {s t : State} (h : t.hstack = s.hstack) (n : Nat) : t.stk n = s.stk n := by unfold stk; rw [h]
theorem tlb_congr {s t : State} (h : t.tlbs = s.tlbs) (n : Nat) : t.tlb n = s.tlb n := by unfold tlb; rw [h]
theorem count_congr {s t : State} (h : t.counts = s.counts) (n : Nat) : t.count n = s.count n := by unfold count; rw [h]
theorem gw_congr {s t : State} (h : t.gws = s.gws) (n : Nat) : t.gw n = s.gw n := by unfold gw; rw [h]
theorem dsp_congr {s t : State} (h : t.dsps = s.dsps) (n : Nat) : t.dsp n = s.dsp n := by unfold dsp; rw [h]
theorem region_congr {s t : State} (h : t.regions = s.regions) (n : Nat) : t.region n = s.region n := by unfold region; rw [h]
theorem hl_congr {s t : State} (h : t.health = s.health) (n : Nat) : t.hl n = s.hl n := by unfold hl; rw [h]
theorem fn_congr {s t : State} (h : t.fns = s.fns) (n : Nat) : t.fn n = s.fn n := by unfold fn; rw [h]
theorem port_congr {s t : State} (h : t.ports = s.ports) (n : Nat) : t.port n = s.port n := by unfold port; rw [h]
theorem chan_congr {s t : State} (h : t.chans = s.chans) (n : Nat) : t.chan n = s.chan n := by unfold chan; rw [h]
@[simp] theorem setBk_en (ub : Nat) (v : Bank) (k : Nat) : (s.setBk ub v).en k = s.en k := rfl
@[simp] theorem setTile_en (n : Nat) (v : Tile) (k : Nat) : (s.setTile n v).en k = s.en k := rfl
@[simp] theorem setSe_en (n : Nat) (v : Se) (k : Nat) : (s.setSe n v).en k = s.en k := rfl
@[simp] theorem setCtx_en (n c : Nat) (v : Ctx) (k : Nat) : (s.setCtx n c v).en k = s.en k := rfl
@[simp] theorem setObj_en (n : Nat) (v : SyncObj) (k : Nat) : (s.setObj n v).en k = s.en k := rfl
@[simp] theorem setMse_en (n : Nat) (v : Mse) (k : Nat) : (s.setMse n v).en k = s.en k := rfl
@[simp] theorem setJob_en (n j : Nat) (v : Job) (k : Nat) : (s.setJob n j v).en k = s.en k := rfl
@[simp] theorem setCluster_en (n : Nat) (v : Cluster) (k : Nat) : (s.setCluster n v).en k = s.en k := rfl
@[simp] theorem setPc_en (n p : Nat) (v : Pc) (k : Nat) : (s.setPc n p v).en k = s.en k := rfl
@[simp] theorem setStk_en (n : Nat) (v : Stack) (k : Nat) : (s.setStk n v).en k = s.en k := rfl
@[simp] theorem setTlb_en (r : Nat) (v : List TlbEntry) (k : Nat) : (s.setTlb r v).en k = s.en k := rfl
@[simp] theorem setCount_en (i : Nat) (v : NetCount) (k : Nat) : (s.setCount i v).en k = s.en k := rfl
@[simp] theorem setGw_en (n : Nat) (v : Gateway) (k : Nat) : (s.setGw n v).en k = s.en k := rfl
@[simp] theorem setDsp_en (n : Nat) (v : Dsp) (k : Nat) : (s.setDsp n v).en k = s.en k := rfl
@[simp] theorem setRegion_en (n : Nat) (v : Region) (k : Nat) : (s.setRegion n v).en k = s.en k := rfl
@[simp] theorem setHl_en (i : Nat) (v : Health) (k : Nat) : (s.setHl i v).en k = s.en k := rfl
@[simp] theorem setFn_en (n : Nat) (v : Fn) (k : Nat) : (s.setFn n v).en k = s.en k := rfl
@[simp] theorem setPort_en (q : Nat) (v : Port) (k : Nat) : (s.setPort q v).en k = s.en k := rfl
@[simp] theorem setChan_en (c : Nat) (v : Chan) (k : Nat) : (s.setChan c v).en k = s.en k := rfl
@[simp] theorem setLink_en (l : Nat) (v : Link) (k : Nat) : (s.setLink l v).en k = s.en k := rfl
@[simp] theorem setDom_en (d : Nat) (v : Domain) (k : Nat) : (s.setDom d v).en k = s.en k := rfl
@[simp] theorem send_en (p : Packet) (k : Nat) : (s.send p).en k = s.en k := rfl
@[simp] theorem sendAll_en (ps : List Packet) (k : Nat) : (s.sendAll ps).en k = s.en k := rfl
@[simp] theorem take_en (p : Packet) (k : Nat) : (s.take p).en k = s.en k := rfl
@[simp] theorem hbmWrite_en (n a : Nat) (v : List Byte) (k : Nat) : (s.hbmWrite n a v).en k = s.en k := rfl
@[simp] theorem hbmPoison_en (n a : Nat) (b : Bool) (k : Nat) : (s.hbmPoison n a b).en k = s.en k := rfl
@[simp] theorem tsWrite_en (n a : Nat) (v : List Byte) (k : Nat) : (s.tsWrite n a v).en k = s.en k := rfl
@[simp] theorem tsPoison_en (n a : Nat) (b : Bool) (k : Nat) : (s.tsPoison n a b).en k = s.en k := rfl
@[simp] theorem hostWrite_en (q a : Nat) (v : List Byte) (k : Nat) : (s.hostWrite q a v).en k = s.en k := rfl
@[simp] theorem setEn_bk (e : Nat) (v : Ens) (k : Nat) : (s.setEn e v).bk k = s.bk k := rfl
@[simp] theorem setTile_bk (n : Nat) (v : Tile) (k : Nat) : (s.setTile n v).bk k = s.bk k := rfl
@[simp] theorem setSe_bk (n : Nat) (v : Se) (k : Nat) : (s.setSe n v).bk k = s.bk k := rfl
@[simp] theorem setCtx_bk (n c : Nat) (v : Ctx) (k : Nat) : (s.setCtx n c v).bk k = s.bk k := rfl
@[simp] theorem setObj_bk (n : Nat) (v : SyncObj) (k : Nat) : (s.setObj n v).bk k = s.bk k := rfl
@[simp] theorem setMse_bk (n : Nat) (v : Mse) (k : Nat) : (s.setMse n v).bk k = s.bk k := rfl
@[simp] theorem setJob_bk (n j : Nat) (v : Job) (k : Nat) : (s.setJob n j v).bk k = s.bk k := rfl
@[simp] theorem setCluster_bk (n : Nat) (v : Cluster) (k : Nat) : (s.setCluster n v).bk k = s.bk k := rfl
@[simp] theorem setPc_bk (n p : Nat) (v : Pc) (k : Nat) : (s.setPc n p v).bk k = s.bk k := rfl
@[simp] theorem setStk_bk (n : Nat) (v : Stack) (k : Nat) : (s.setStk n v).bk k = s.bk k := rfl
@[simp] theorem setTlb_bk (r : Nat) (v : List TlbEntry) (k : Nat) : (s.setTlb r v).bk k = s.bk k := rfl
@[simp] theorem setCount_bk (i : Nat) (v : NetCount) (k : Nat) : (s.setCount i v).bk k = s.bk k := rfl
@[simp] theorem setGw_bk (n : Nat) (v : Gateway) (k : Nat) : (s.setGw n v).bk k = s.bk k := rfl
@[simp] theorem setDsp_bk (n : Nat) (v : Dsp) (k : Nat) : (s.setDsp n v).bk k = s.bk k := rfl
@[simp] theorem setRegion_bk (n : Nat) (v : Region) (k : Nat) : (s.setRegion n v).bk k = s.bk k := rfl
@[simp] theorem setHl_bk (i : Nat) (v : Health) (k : Nat) : (s.setHl i v).bk k = s.bk k := rfl
@[simp] theorem setFn_bk (n : Nat) (v : Fn) (k : Nat) : (s.setFn n v).bk k = s.bk k := rfl
@[simp] theorem setPort_bk (q : Nat) (v : Port) (k : Nat) : (s.setPort q v).bk k = s.bk k := rfl
@[simp] theorem setChan_bk (c : Nat) (v : Chan) (k : Nat) : (s.setChan c v).bk k = s.bk k := rfl
@[simp] theorem setLink_bk (l : Nat) (v : Link) (k : Nat) : (s.setLink l v).bk k = s.bk k := rfl
@[simp] theorem setDom_bk (d : Nat) (v : Domain) (k : Nat) : (s.setDom d v).bk k = s.bk k := rfl
@[simp] theorem send_bk (p : Packet) (k : Nat) : (s.send p).bk k = s.bk k := rfl
@[simp] theorem sendAll_bk (ps : List Packet) (k : Nat) : (s.sendAll ps).bk k = s.bk k := rfl
@[simp] theorem take_bk (p : Packet) (k : Nat) : (s.take p).bk k = s.bk k := rfl
@[simp] theorem hbmWrite_bk (n a : Nat) (v : List Byte) (k : Nat) : (s.hbmWrite n a v).bk k = s.bk k := rfl
@[simp] theorem hbmPoison_bk (n a : Nat) (b : Bool) (k : Nat) : (s.hbmPoison n a b).bk k = s.bk k := rfl
@[simp] theorem tsWrite_bk (n a : Nat) (v : List Byte) (k : Nat) : (s.tsWrite n a v).bk k = s.bk k := rfl
@[simp] theorem tsPoison_bk (n a : Nat) (b : Bool) (k : Nat) : (s.tsPoison n a b).bk k = s.bk k := rfl
@[simp] theorem hostWrite_bk (q a : Nat) (v : List Byte) (k : Nat) : (s.hostWrite q a v).bk k = s.bk k := rfl
@[simp] theorem setEn_tile (e : Nat) (v : Ens) (k : Nat) : (s.setEn e v).tile k = s.tile k := rfl
@[simp] theorem setBk_tile (ub : Nat) (v : Bank) (k : Nat) : (s.setBk ub v).tile k = s.tile k := rfl
@[simp] theorem setSe_tile (n : Nat) (v : Se) (k : Nat) : (s.setSe n v).tile k = s.tile k := rfl
@[simp] theorem setCtx_tile (n c : Nat) (v : Ctx) (k : Nat) : (s.setCtx n c v).tile k = s.tile k := rfl
@[simp] theorem setObj_tile (n : Nat) (v : SyncObj) (k : Nat) : (s.setObj n v).tile k = s.tile k := rfl
@[simp] theorem setMse_tile (n : Nat) (v : Mse) (k : Nat) : (s.setMse n v).tile k = s.tile k := rfl
@[simp] theorem setJob_tile (n j : Nat) (v : Job) (k : Nat) : (s.setJob n j v).tile k = s.tile k := rfl
@[simp] theorem setCluster_tile (n : Nat) (v : Cluster) (k : Nat) : (s.setCluster n v).tile k = s.tile k := rfl
@[simp] theorem setPc_tile (n p : Nat) (v : Pc) (k : Nat) : (s.setPc n p v).tile k = s.tile k := rfl
@[simp] theorem setStk_tile (n : Nat) (v : Stack) (k : Nat) : (s.setStk n v).tile k = s.tile k := rfl
@[simp] theorem setTlb_tile (r : Nat) (v : List TlbEntry) (k : Nat) : (s.setTlb r v).tile k = s.tile k := rfl
@[simp] theorem setCount_tile (i : Nat) (v : NetCount) (k : Nat) : (s.setCount i v).tile k = s.tile k := rfl
@[simp] theorem setGw_tile (n : Nat) (v : Gateway) (k : Nat) : (s.setGw n v).tile k = s.tile k := rfl
@[simp] theorem setDsp_tile (n : Nat) (v : Dsp) (k : Nat) : (s.setDsp n v).tile k = s.tile k := rfl
@[simp] theorem setRegion_tile (n : Nat) (v : Region) (k : Nat) : (s.setRegion n v).tile k = s.tile k := rfl
@[simp] theorem setHl_tile (i : Nat) (v : Health) (k : Nat) : (s.setHl i v).tile k = s.tile k := rfl
@[simp] theorem setFn_tile (n : Nat) (v : Fn) (k : Nat) : (s.setFn n v).tile k = s.tile k := rfl
@[simp] theorem setPort_tile (q : Nat) (v : Port) (k : Nat) : (s.setPort q v).tile k = s.tile k := rfl
@[simp] theorem setChan_tile (c : Nat) (v : Chan) (k : Nat) : (s.setChan c v).tile k = s.tile k := rfl
@[simp] theorem setLink_tile (l : Nat) (v : Link) (k : Nat) : (s.setLink l v).tile k = s.tile k := rfl
@[simp] theorem setDom_tile (d : Nat) (v : Domain) (k : Nat) : (s.setDom d v).tile k = s.tile k := rfl
@[simp] theorem send_tile (p : Packet) (k : Nat) : (s.send p).tile k = s.tile k := rfl
@[simp] theorem sendAll_tile (ps : List Packet) (k : Nat) : (s.sendAll ps).tile k = s.tile k := rfl
@[simp] theorem take_tile (p : Packet) (k : Nat) : (s.take p).tile k = s.tile k := rfl
@[simp] theorem hbmWrite_tile (n a : Nat) (v : List Byte) (k : Nat) : (s.hbmWrite n a v).tile k = s.tile k := rfl
@[simp] theorem hbmPoison_tile (n a : Nat) (b : Bool) (k : Nat) : (s.hbmPoison n a b).tile k = s.tile k := rfl
@[simp] theorem tsWrite_tile (n a : Nat) (v : List Byte) (k : Nat) : (s.tsWrite n a v).tile k = s.tile k := rfl
@[simp] theorem tsPoison_tile (n a : Nat) (b : Bool) (k : Nat) : (s.tsPoison n a b).tile k = s.tile k := rfl
@[simp] theorem hostWrite_tile (q a : Nat) (v : List Byte) (k : Nat) : (s.hostWrite q a v).tile k = s.tile k := rfl
@[simp] theorem setEn_se (e : Nat) (v : Ens) (k : Nat) : (s.setEn e v).se k = s.se k := rfl
@[simp] theorem setBk_se (ub : Nat) (v : Bank) (k : Nat) : (s.setBk ub v).se k = s.se k := rfl
@[simp] theorem setTile_se (n : Nat) (v : Tile) (k : Nat) : (s.setTile n v).se k = s.se k := rfl
@[simp] theorem setObj_se (n : Nat) (v : SyncObj) (k : Nat) : (s.setObj n v).se k = s.se k := rfl
@[simp] theorem setMse_se (n : Nat) (v : Mse) (k : Nat) : (s.setMse n v).se k = s.se k := rfl
@[simp] theorem setJob_se (n j : Nat) (v : Job) (k : Nat) : (s.setJob n j v).se k = s.se k := rfl
@[simp] theorem setCluster_se (n : Nat) (v : Cluster) (k : Nat) : (s.setCluster n v).se k = s.se k := rfl
@[simp] theorem setPc_se (n p : Nat) (v : Pc) (k : Nat) : (s.setPc n p v).se k = s.se k := rfl
@[simp] theorem setStk_se (n : Nat) (v : Stack) (k : Nat) : (s.setStk n v).se k = s.se k := rfl
@[simp] theorem setTlb_se (r : Nat) (v : List TlbEntry) (k : Nat) : (s.setTlb r v).se k = s.se k := rfl
@[simp] theorem setCount_se (i : Nat) (v : NetCount) (k : Nat) : (s.setCount i v).se k = s.se k := rfl
@[simp] theorem setGw_se (n : Nat) (v : Gateway) (k : Nat) : (s.setGw n v).se k = s.se k := rfl
@[simp] theorem setDsp_se (n : Nat) (v : Dsp) (k : Nat) : (s.setDsp n v).se k = s.se k := rfl
@[simp] theorem setRegion_se (n : Nat) (v : Region) (k : Nat) : (s.setRegion n v).se k = s.se k := rfl
@[simp] theorem setHl_se (i : Nat) (v : Health) (k : Nat) : (s.setHl i v).se k = s.se k := rfl
@[simp] theorem setFn_se (n : Nat) (v : Fn) (k : Nat) : (s.setFn n v).se k = s.se k := rfl
@[simp] theorem setPort_se (q : Nat) (v : Port) (k : Nat) : (s.setPort q v).se k = s.se k := rfl
@[simp] theorem setChan_se (c : Nat) (v : Chan) (k : Nat) : (s.setChan c v).se k = s.se k := rfl
@[simp] theorem setLink_se (l : Nat) (v : Link) (k : Nat) : (s.setLink l v).se k = s.se k := rfl
@[simp] theorem setDom_se (d : Nat) (v : Domain) (k : Nat) : (s.setDom d v).se k = s.se k := rfl
@[simp] theorem send_se (p : Packet) (k : Nat) : (s.send p).se k = s.se k := rfl
@[simp] theorem sendAll_se (ps : List Packet) (k : Nat) : (s.sendAll ps).se k = s.se k := rfl
@[simp] theorem take_se (p : Packet) (k : Nat) : (s.take p).se k = s.se k := rfl
@[simp] theorem hbmWrite_se (n a : Nat) (v : List Byte) (k : Nat) : (s.hbmWrite n a v).se k = s.se k := rfl
@[simp] theorem hbmPoison_se (n a : Nat) (b : Bool) (k : Nat) : (s.hbmPoison n a b).se k = s.se k := rfl
@[simp] theorem tsWrite_se (n a : Nat) (v : List Byte) (k : Nat) : (s.tsWrite n a v).se k = s.se k := rfl
@[simp] theorem tsPoison_se (n a : Nat) (b : Bool) (k : Nat) : (s.tsPoison n a b).se k = s.se k := rfl
@[simp] theorem hostWrite_se (q a : Nat) (v : List Byte) (k : Nat) : (s.hostWrite q a v).se k = s.se k := rfl
@[simp] theorem setEn_obj (e : Nat) (v : Ens) (k : Nat) : (s.setEn e v).obj k = s.obj k := rfl
@[simp] theorem setBk_obj (ub : Nat) (v : Bank) (k : Nat) : (s.setBk ub v).obj k = s.obj k := rfl
@[simp] theorem setTile_obj (n : Nat) (v : Tile) (k : Nat) : (s.setTile n v).obj k = s.obj k := rfl
@[simp] theorem setSe_obj (n : Nat) (v : Se) (k : Nat) : (s.setSe n v).obj k = s.obj k := rfl
@[simp] theorem setCtx_obj (n c : Nat) (v : Ctx) (k : Nat) : (s.setCtx n c v).obj k = s.obj k := rfl
@[simp] theorem setMse_obj (n : Nat) (v : Mse) (k : Nat) : (s.setMse n v).obj k = s.obj k := rfl
@[simp] theorem setJob_obj (n j : Nat) (v : Job) (k : Nat) : (s.setJob n j v).obj k = s.obj k := rfl
@[simp] theorem setCluster_obj (n : Nat) (v : Cluster) (k : Nat) : (s.setCluster n v).obj k = s.obj k := rfl
@[simp] theorem setPc_obj (n p : Nat) (v : Pc) (k : Nat) : (s.setPc n p v).obj k = s.obj k := rfl
@[simp] theorem setStk_obj (n : Nat) (v : Stack) (k : Nat) : (s.setStk n v).obj k = s.obj k := rfl
@[simp] theorem setTlb_obj (r : Nat) (v : List TlbEntry) (k : Nat) : (s.setTlb r v).obj k = s.obj k := rfl
@[simp] theorem setCount_obj (i : Nat) (v : NetCount) (k : Nat) : (s.setCount i v).obj k = s.obj k := rfl
@[simp] theorem setGw_obj (n : Nat) (v : Gateway) (k : Nat) : (s.setGw n v).obj k = s.obj k := rfl
@[simp] theorem setDsp_obj (n : Nat) (v : Dsp) (k : Nat) : (s.setDsp n v).obj k = s.obj k := rfl
@[simp] theorem setRegion_obj (n : Nat) (v : Region) (k : Nat) : (s.setRegion n v).obj k = s.obj k := rfl
@[simp] theorem setHl_obj (i : Nat) (v : Health) (k : Nat) : (s.setHl i v).obj k = s.obj k := rfl
@[simp] theorem setFn_obj (n : Nat) (v : Fn) (k : Nat) : (s.setFn n v).obj k = s.obj k := rfl
@[simp] theorem setPort_obj (q : Nat) (v : Port) (k : Nat) : (s.setPort q v).obj k = s.obj k := rfl
@[simp] theorem setChan_obj (c : Nat) (v : Chan) (k : Nat) : (s.setChan c v).obj k = s.obj k := rfl
@[simp] theorem setLink_obj (l : Nat) (v : Link) (k : Nat) : (s.setLink l v).obj k = s.obj k := rfl
@[simp] theorem setDom_obj (d : Nat) (v : Domain) (k : Nat) : (s.setDom d v).obj k = s.obj k := rfl
@[simp] theorem send_obj (p : Packet) (k : Nat) : (s.send p).obj k = s.obj k := rfl
@[simp] theorem sendAll_obj (ps : List Packet) (k : Nat) : (s.sendAll ps).obj k = s.obj k := rfl
@[simp] theorem take_obj (p : Packet) (k : Nat) : (s.take p).obj k = s.obj k := rfl
@[simp] theorem hbmWrite_obj (n a : Nat) (v : List Byte) (k : Nat) : (s.hbmWrite n a v).obj k = s.obj k := rfl
@[simp] theorem hbmPoison_obj (n a : Nat) (b : Bool) (k : Nat) : (s.hbmPoison n a b).obj k = s.obj k := rfl
@[simp] theorem tsWrite_obj (n a : Nat) (v : List Byte) (k : Nat) : (s.tsWrite n a v).obj k = s.obj k := rfl
@[simp] theorem tsPoison_obj (n a : Nat) (b : Bool) (k : Nat) : (s.tsPoison n a b).obj k = s.obj k := rfl
@[simp] theorem hostWrite_obj (q a : Nat) (v : List Byte) (k : Nat) : (s.hostWrite q a v).obj k = s.obj k := rfl
@[simp] theorem setEn_mse (e : Nat) (v : Ens) (k : Nat) : (s.setEn e v).mse k = s.mse k := rfl
@[simp] theorem setBk_mse (ub : Nat) (v : Bank) (k : Nat) : (s.setBk ub v).mse k = s.mse k := rfl
@[simp] theorem setTile_mse (n : Nat) (v : Tile) (k : Nat) : (s.setTile n v).mse k = s.mse k := rfl
@[simp] theorem setSe_mse (n : Nat) (v : Se) (k : Nat) : (s.setSe n v).mse k = s.mse k := rfl
@[simp] theorem setCtx_mse (n c : Nat) (v : Ctx) (k : Nat) : (s.setCtx n c v).mse k = s.mse k := rfl
@[simp] theorem setObj_mse (n : Nat) (v : SyncObj) (k : Nat) : (s.setObj n v).mse k = s.mse k := rfl
@[simp] theorem setCluster_mse (n : Nat) (v : Cluster) (k : Nat) : (s.setCluster n v).mse k = s.mse k := rfl
@[simp] theorem setPc_mse (n p : Nat) (v : Pc) (k : Nat) : (s.setPc n p v).mse k = s.mse k := rfl
@[simp] theorem setStk_mse (n : Nat) (v : Stack) (k : Nat) : (s.setStk n v).mse k = s.mse k := rfl
@[simp] theorem setTlb_mse (r : Nat) (v : List TlbEntry) (k : Nat) : (s.setTlb r v).mse k = s.mse k := rfl
@[simp] theorem setCount_mse (i : Nat) (v : NetCount) (k : Nat) : (s.setCount i v).mse k = s.mse k := rfl
@[simp] theorem setGw_mse (n : Nat) (v : Gateway) (k : Nat) : (s.setGw n v).mse k = s.mse k := rfl
@[simp] theorem setDsp_mse (n : Nat) (v : Dsp) (k : Nat) : (s.setDsp n v).mse k = s.mse k := rfl
@[simp] theorem setRegion_mse (n : Nat) (v : Region) (k : Nat) : (s.setRegion n v).mse k = s.mse k := rfl
@[simp] theorem setHl_mse (i : Nat) (v : Health) (k : Nat) : (s.setHl i v).mse k = s.mse k := rfl
@[simp] theorem setFn_mse (n : Nat) (v : Fn) (k : Nat) : (s.setFn n v).mse k = s.mse k := rfl
@[simp] theorem setPort_mse (q : Nat) (v : Port) (k : Nat) : (s.setPort q v).mse k = s.mse k := rfl
@[simp] theorem setChan_mse (c : Nat) (v : Chan) (k : Nat) : (s.setChan c v).mse k = s.mse k := rfl
@[simp] theorem setLink_mse (l : Nat) (v : Link) (k : Nat) : (s.setLink l v).mse k = s.mse k := rfl
@[simp] theorem setDom_mse (d : Nat) (v : Domain) (k : Nat) : (s.setDom d v).mse k = s.mse k := rfl
@[simp] theorem send_mse (p : Packet) (k : Nat) : (s.send p).mse k = s.mse k := rfl
@[simp] theorem sendAll_mse (ps : List Packet) (k : Nat) : (s.sendAll ps).mse k = s.mse k := rfl
@[simp] theorem take_mse (p : Packet) (k : Nat) : (s.take p).mse k = s.mse k := rfl
@[simp] theorem hbmWrite_mse (n a : Nat) (v : List Byte) (k : Nat) : (s.hbmWrite n a v).mse k = s.mse k := rfl
@[simp] theorem hbmPoison_mse (n a : Nat) (b : Bool) (k : Nat) : (s.hbmPoison n a b).mse k = s.mse k := rfl
@[simp] theorem tsWrite_mse (n a : Nat) (v : List Byte) (k : Nat) : (s.tsWrite n a v).mse k = s.mse k := rfl
@[simp] theorem tsPoison_mse (n a : Nat) (b : Bool) (k : Nat) : (s.tsPoison n a b).mse k = s.mse k := rfl
@[simp] theorem hostWrite_mse (q a : Nat) (v : List Byte) (k : Nat) : (s.hostWrite q a v).mse k = s.mse k := rfl
@[simp] theorem setEn_cluster (e : Nat) (v : Ens) (k : Nat) : (s.setEn e v).cluster k = s.cluster k := rfl
@[simp] theorem setBk_cluster (ub : Nat) (v : Bank) (k : Nat) : (s.setBk ub v).cluster k = s.cluster k := rfl
@[simp] theorem setTile_cluster (n : Nat) (v : Tile) (k : Nat) : (s.setTile n v).cluster k = s.cluster k := rfl
@[simp] theorem setSe_cluster (n : Nat) (v : Se) (k : Nat) : (s.setSe n v).cluster k = s.cluster k := rfl
@[simp] theorem setCtx_cluster (n c : Nat) (v : Ctx) (k : Nat) : (s.setCtx n c v).cluster k = s.cluster k := rfl
@[simp] theorem setObj_cluster (n : Nat) (v : SyncObj) (k : Nat) : (s.setObj n v).cluster k = s.cluster k := rfl
@[simp] theorem setMse_cluster (n : Nat) (v : Mse) (k : Nat) : (s.setMse n v).cluster k = s.cluster k := rfl
@[simp] theorem setJob_cluster (n j : Nat) (v : Job) (k : Nat) : (s.setJob n j v).cluster k = s.cluster k := rfl
@[simp] theorem setPc_cluster (n p : Nat) (v : Pc) (k : Nat) : (s.setPc n p v).cluster k = s.cluster k := rfl
@[simp] theorem setStk_cluster (n : Nat) (v : Stack) (k : Nat) : (s.setStk n v).cluster k = s.cluster k := rfl
@[simp] theorem setTlb_cluster (r : Nat) (v : List TlbEntry) (k : Nat) : (s.setTlb r v).cluster k = s.cluster k := rfl
@[simp] theorem setCount_cluster (i : Nat) (v : NetCount) (k : Nat) : (s.setCount i v).cluster k = s.cluster k := rfl
@[simp] theorem setGw_cluster (n : Nat) (v : Gateway) (k : Nat) : (s.setGw n v).cluster k = s.cluster k := rfl
@[simp] theorem setDsp_cluster (n : Nat) (v : Dsp) (k : Nat) : (s.setDsp n v).cluster k = s.cluster k := rfl
@[simp] theorem setRegion_cluster (n : Nat) (v : Region) (k : Nat) : (s.setRegion n v).cluster k = s.cluster k := rfl
@[simp] theorem setHl_cluster (i : Nat) (v : Health) (k : Nat) : (s.setHl i v).cluster k = s.cluster k := rfl
@[simp] theorem setFn_cluster (n : Nat) (v : Fn) (k : Nat) : (s.setFn n v).cluster k = s.cluster k := rfl
@[simp] theorem setPort_cluster (q : Nat) (v : Port) (k : Nat) : (s.setPort q v).cluster k = s.cluster k := rfl
@[simp] theorem setChan_cluster (c : Nat) (v : Chan) (k : Nat) : (s.setChan c v).cluster k = s.cluster k := rfl
@[simp] theorem setLink_cluster (l : Nat) (v : Link) (k : Nat) : (s.setLink l v).cluster k = s.cluster k := rfl
@[simp] theorem setDom_cluster (d : Nat) (v : Domain) (k : Nat) : (s.setDom d v).cluster k = s.cluster k := rfl
@[simp] theorem send_cluster (p : Packet) (k : Nat) : (s.send p).cluster k = s.cluster k := rfl
@[simp] theorem sendAll_cluster (ps : List Packet) (k : Nat) : (s.sendAll ps).cluster k = s.cluster k := rfl
@[simp] theorem take_cluster (p : Packet) (k : Nat) : (s.take p).cluster k = s.cluster k := rfl
@[simp] theorem hbmWrite_cluster (n a : Nat) (v : List Byte) (k : Nat) : (s.hbmWrite n a v).cluster k = s.cluster k := rfl
@[simp] theorem hbmPoison_cluster (n a : Nat) (b : Bool) (k : Nat) : (s.hbmPoison n a b).cluster k = s.cluster k := rfl
@[simp] theorem tsWrite_cluster (n a : Nat) (v : List Byte) (k : Nat) : (s.tsWrite n a v).cluster k = s.cluster k := rfl
@[simp] theorem tsPoison_cluster (n a : Nat) (b : Bool) (k : Nat) : (s.tsPoison n a b).cluster k = s.cluster k := rfl
@[simp] theorem hostWrite_cluster (q a : Nat) (v : List Byte) (k : Nat) : (s.hostWrite q a v).cluster k = s.cluster k := rfl
@[simp] theorem setEn_stk (e : Nat) (v : Ens) (k : Nat) : (s.setEn e v).stk k = s.stk k := rfl
@[simp] theorem setBk_stk (ub : Nat) (v : Bank) (k : Nat) : (s.setBk ub v).stk k = s.stk k := rfl
@[simp] theorem setTile_stk (n : Nat) (v : Tile) (k : Nat) : (s.setTile n v).stk k = s.stk k := rfl
@[simp] theorem setSe_stk (n : Nat) (v : Se) (k : Nat) : (s.setSe n v).stk k = s.stk k := rfl
@[simp] theorem setCtx_stk (n c : Nat) (v : Ctx) (k : Nat) : (s.setCtx n c v).stk k = s.stk k := rfl
@[simp] theorem setObj_stk (n : Nat) (v : SyncObj) (k : Nat) : (s.setObj n v).stk k = s.stk k := rfl
@[simp] theorem setMse_stk (n : Nat) (v : Mse) (k : Nat) : (s.setMse n v).stk k = s.stk k := rfl
@[simp] theorem setJob_stk (n j : Nat) (v : Job) (k : Nat) : (s.setJob n j v).stk k = s.stk k := rfl
@[simp] theorem setCluster_stk (n : Nat) (v : Cluster) (k : Nat) : (s.setCluster n v).stk k = s.stk k := rfl
@[simp] theorem setPc_stk (n p : Nat) (v : Pc) (k : Nat) : (s.setPc n p v).stk k = s.stk k := rfl
@[simp] theorem setTlb_stk (r : Nat) (v : List TlbEntry) (k : Nat) : (s.setTlb r v).stk k = s.stk k := rfl
@[simp] theorem setCount_stk (i : Nat) (v : NetCount) (k : Nat) : (s.setCount i v).stk k = s.stk k := rfl
@[simp] theorem setGw_stk (n : Nat) (v : Gateway) (k : Nat) : (s.setGw n v).stk k = s.stk k := rfl
@[simp] theorem setDsp_stk (n : Nat) (v : Dsp) (k : Nat) : (s.setDsp n v).stk k = s.stk k := rfl
@[simp] theorem setRegion_stk (n : Nat) (v : Region) (k : Nat) : (s.setRegion n v).stk k = s.stk k := rfl
@[simp] theorem setHl_stk (i : Nat) (v : Health) (k : Nat) : (s.setHl i v).stk k = s.stk k := rfl
@[simp] theorem setFn_stk (n : Nat) (v : Fn) (k : Nat) : (s.setFn n v).stk k = s.stk k := rfl
@[simp] theorem setPort_stk (q : Nat) (v : Port) (k : Nat) : (s.setPort q v).stk k = s.stk k := rfl
@[simp] theorem setChan_stk (c : Nat) (v : Chan) (k : Nat) : (s.setChan c v).stk k = s.stk k := rfl
@[simp] theorem setLink_stk (l : Nat) (v : Link) (k : Nat) : (s.setLink l v).stk k = s.stk k := rfl
@[simp] theorem setDom_stk (d : Nat) (v : Domain) (k : Nat) : (s.setDom d v).stk k = s.stk k := rfl
@[simp] theorem send_stk (p : Packet) (k : Nat) : (s.send p).stk k = s.stk k := rfl
@[simp] theorem sendAll_stk (ps : List Packet) (k : Nat) : (s.sendAll ps).stk k = s.stk k := rfl
@[simp] theorem take_stk (p : Packet) (k : Nat) : (s.take p).stk k = s.stk k := rfl
@[simp] theorem hbmWrite_stk (n a : Nat) (v : List Byte) (k : Nat) : (s.hbmWrite n a v).stk k = s.stk k := rfl
@[simp] theorem hbmPoison_stk (n a : Nat) (b : Bool) (k : Nat) : (s.hbmPoison n a b).stk k = s.stk k := rfl
@[simp] theorem tsWrite_stk (n a : Nat) (v : List Byte) (k : Nat) : (s.tsWrite n a v).stk k = s.stk k := rfl
@[simp] theorem tsPoison_stk (n a : Nat) (b : Bool) (k : Nat) : (s.tsPoison n a b).stk k = s.stk k := rfl
@[simp] theorem hostWrite_stk (q a : Nat) (v : List Byte) (k : Nat) : (s.hostWrite q a v).stk k = s.stk k := rfl
@[simp] theorem setEn_tlb (e : Nat) (v : Ens) (k : Nat) : (s.setEn e v).tlb k = s.tlb k := rfl
@[simp] theorem setBk_tlb (ub : Nat) (v : Bank) (k : Nat) : (s.setBk ub v).tlb k = s.tlb k := rfl
@[simp] theorem setTile_tlb (n : Nat) (v : Tile) (k : Nat) : (s.setTile n v).tlb k = s.tlb k := rfl
@[simp] theorem setSe_tlb (n : Nat) (v : Se) (k : Nat) : (s.setSe n v).tlb k = s.tlb k := rfl
@[simp] theorem setCtx_tlb (n c : Nat) (v : Ctx) (k : Nat) : (s.setCtx n c v).tlb k = s.tlb k := rfl
@[simp] theorem setObj_tlb (n : Nat) (v : SyncObj) (k : Nat) : (s.setObj n v).tlb k = s.tlb k := rfl
@[simp] theorem setMse_tlb (n : Nat) (v : Mse) (k : Nat) : (s.setMse n v).tlb k = s.tlb k := rfl
@[simp] theorem setJob_tlb (n j : Nat) (v : Job) (k : Nat) : (s.setJob n j v).tlb k = s.tlb k := rfl
@[simp] theorem setCluster_tlb (n : Nat) (v : Cluster) (k : Nat) : (s.setCluster n v).tlb k = s.tlb k := rfl
@[simp] theorem setPc_tlb (n p : Nat) (v : Pc) (k : Nat) : (s.setPc n p v).tlb k = s.tlb k := rfl
@[simp] theorem setStk_tlb (n : Nat) (v : Stack) (k : Nat) : (s.setStk n v).tlb k = s.tlb k := rfl
@[simp] theorem setCount_tlb (i : Nat) (v : NetCount) (k : Nat) : (s.setCount i v).tlb k = s.tlb k := rfl
@[simp] theorem setGw_tlb (n : Nat) (v : Gateway) (k : Nat) : (s.setGw n v).tlb k = s.tlb k := rfl
@[simp] theorem setDsp_tlb (n : Nat) (v : Dsp) (k : Nat) : (s.setDsp n v).tlb k = s.tlb k := rfl
@[simp] theorem setRegion_tlb (n : Nat) (v : Region) (k : Nat) : (s.setRegion n v).tlb k = s.tlb k := rfl
@[simp] theorem setHl_tlb (i : Nat) (v : Health) (k : Nat) : (s.setHl i v).tlb k = s.tlb k := rfl
@[simp] theorem setFn_tlb (n : Nat) (v : Fn) (k : Nat) : (s.setFn n v).tlb k = s.tlb k := rfl
@[simp] theorem setPort_tlb (q : Nat) (v : Port) (k : Nat) : (s.setPort q v).tlb k = s.tlb k := rfl
@[simp] theorem setChan_tlb (c : Nat) (v : Chan) (k : Nat) : (s.setChan c v).tlb k = s.tlb k := rfl
@[simp] theorem setLink_tlb (l : Nat) (v : Link) (k : Nat) : (s.setLink l v).tlb k = s.tlb k := rfl
@[simp] theorem setDom_tlb (d : Nat) (v : Domain) (k : Nat) : (s.setDom d v).tlb k = s.tlb k := rfl
@[simp] theorem send_tlb (p : Packet) (k : Nat) : (s.send p).tlb k = s.tlb k := rfl
@[simp] theorem sendAll_tlb (ps : List Packet) (k : Nat) : (s.sendAll ps).tlb k = s.tlb k := rfl
@[simp] theorem take_tlb (p : Packet) (k : Nat) : (s.take p).tlb k = s.tlb k := rfl
@[simp] theorem hbmWrite_tlb (n a : Nat) (v : List Byte) (k : Nat) : (s.hbmWrite n a v).tlb k = s.tlb k := rfl
@[simp] theorem hbmPoison_tlb (n a : Nat) (b : Bool) (k : Nat) : (s.hbmPoison n a b).tlb k = s.tlb k := rfl
@[simp] theorem tsWrite_tlb (n a : Nat) (v : List Byte) (k : Nat) : (s.tsWrite n a v).tlb k = s.tlb k := rfl
@[simp] theorem tsPoison_tlb (n a : Nat) (b : Bool) (k : Nat) : (s.tsPoison n a b).tlb k = s.tlb k := rfl
@[simp] theorem hostWrite_tlb (q a : Nat) (v : List Byte) (k : Nat) : (s.hostWrite q a v).tlb k = s.tlb k := rfl
@[simp] theorem setEn_count (e : Nat) (v : Ens) (k : Nat) : (s.setEn e v).count k = s.count k := rfl
@[simp] theorem setBk_count (ub : Nat) (v : Bank) (k : Nat) : (s.setBk ub v).count k = s.count k := rfl
@[simp] theorem setTile_count (n : Nat) (v : Tile) (k : Nat) : (s.setTile n v).count k = s.count k := rfl
@[simp] theorem setSe_count (n : Nat) (v : Se) (k : Nat) : (s.setSe n v).count k = s.count k := rfl
@[simp] theorem setCtx_count (n c : Nat) (v : Ctx) (k : Nat) : (s.setCtx n c v).count k = s.count k := rfl
@[simp] theorem setObj_count (n : Nat) (v : SyncObj) (k : Nat) : (s.setObj n v).count k = s.count k := rfl
@[simp] theorem setMse_count (n : Nat) (v : Mse) (k : Nat) : (s.setMse n v).count k = s.count k := rfl
@[simp] theorem setJob_count (n j : Nat) (v : Job) (k : Nat) : (s.setJob n j v).count k = s.count k := rfl
@[simp] theorem setCluster_count (n : Nat) (v : Cluster) (k : Nat) : (s.setCluster n v).count k = s.count k := rfl
@[simp] theorem setPc_count (n p : Nat) (v : Pc) (k : Nat) : (s.setPc n p v).count k = s.count k := rfl
@[simp] theorem setStk_count (n : Nat) (v : Stack) (k : Nat) : (s.setStk n v).count k = s.count k := rfl
@[simp] theorem setTlb_count (r : Nat) (v : List TlbEntry) (k : Nat) : (s.setTlb r v).count k = s.count k := rfl
@[simp] theorem setGw_count (n : Nat) (v : Gateway) (k : Nat) : (s.setGw n v).count k = s.count k := rfl
@[simp] theorem setDsp_count (n : Nat) (v : Dsp) (k : Nat) : (s.setDsp n v).count k = s.count k := rfl
@[simp] theorem setRegion_count (n : Nat) (v : Region) (k : Nat) : (s.setRegion n v).count k = s.count k := rfl
@[simp] theorem setHl_count (i : Nat) (v : Health) (k : Nat) : (s.setHl i v).count k = s.count k := rfl
@[simp] theorem setFn_count (n : Nat) (v : Fn) (k : Nat) : (s.setFn n v).count k = s.count k := rfl
@[simp] theorem setPort_count (q : Nat) (v : Port) (k : Nat) : (s.setPort q v).count k = s.count k := rfl
@[simp] theorem setChan_count (c : Nat) (v : Chan) (k : Nat) : (s.setChan c v).count k = s.count k := rfl
@[simp] theorem setLink_count (l : Nat) (v : Link) (k : Nat) : (s.setLink l v).count k = s.count k := rfl
@[simp] theorem setDom_count (d : Nat) (v : Domain) (k : Nat) : (s.setDom d v).count k = s.count k := rfl
@[simp] theorem send_count (p : Packet) (k : Nat) : (s.send p).count k = s.count k := rfl
@[simp] theorem sendAll_count (ps : List Packet) (k : Nat) : (s.sendAll ps).count k = s.count k := rfl
@[simp] theorem take_count (p : Packet) (k : Nat) : (s.take p).count k = s.count k := rfl
@[simp] theorem hbmWrite_count (n a : Nat) (v : List Byte) (k : Nat) : (s.hbmWrite n a v).count k = s.count k := rfl
@[simp] theorem hbmPoison_count (n a : Nat) (b : Bool) (k : Nat) : (s.hbmPoison n a b).count k = s.count k := rfl
@[simp] theorem tsWrite_count (n a : Nat) (v : List Byte) (k : Nat) : (s.tsWrite n a v).count k = s.count k := rfl
@[simp] theorem tsPoison_count (n a : Nat) (b : Bool) (k : Nat) : (s.tsPoison n a b).count k = s.count k := rfl
@[simp] theorem hostWrite_count (q a : Nat) (v : List Byte) (k : Nat) : (s.hostWrite q a v).count k = s.count k := rfl
@[simp] theorem setEn_gw (e : Nat) (v : Ens) (k : Nat) : (s.setEn e v).gw k = s.gw k := rfl
@[simp] theorem setBk_gw (ub : Nat) (v : Bank) (k : Nat) : (s.setBk ub v).gw k = s.gw k := rfl
@[simp] theorem setTile_gw (n : Nat) (v : Tile) (k : Nat) : (s.setTile n v).gw k = s.gw k := rfl
@[simp] theorem setSe_gw (n : Nat) (v : Se) (k : Nat) : (s.setSe n v).gw k = s.gw k := rfl
@[simp] theorem setCtx_gw (n c : Nat) (v : Ctx) (k : Nat) : (s.setCtx n c v).gw k = s.gw k := rfl
@[simp] theorem setObj_gw (n : Nat) (v : SyncObj) (k : Nat) : (s.setObj n v).gw k = s.gw k := rfl
@[simp] theorem setMse_gw (n : Nat) (v : Mse) (k : Nat) : (s.setMse n v).gw k = s.gw k := rfl
@[simp] theorem setJob_gw (n j : Nat) (v : Job) (k : Nat) : (s.setJob n j v).gw k = s.gw k := rfl
@[simp] theorem setCluster_gw (n : Nat) (v : Cluster) (k : Nat) : (s.setCluster n v).gw k = s.gw k := rfl
@[simp] theorem setPc_gw (n p : Nat) (v : Pc) (k : Nat) : (s.setPc n p v).gw k = s.gw k := rfl
@[simp] theorem setStk_gw (n : Nat) (v : Stack) (k : Nat) : (s.setStk n v).gw k = s.gw k := rfl
@[simp] theorem setTlb_gw (r : Nat) (v : List TlbEntry) (k : Nat) : (s.setTlb r v).gw k = s.gw k := rfl
@[simp] theorem setCount_gw (i : Nat) (v : NetCount) (k : Nat) : (s.setCount i v).gw k = s.gw k := rfl
@[simp] theorem setDsp_gw (n : Nat) (v : Dsp) (k : Nat) : (s.setDsp n v).gw k = s.gw k := rfl
@[simp] theorem setRegion_gw (n : Nat) (v : Region) (k : Nat) : (s.setRegion n v).gw k = s.gw k := rfl
@[simp] theorem setHl_gw (i : Nat) (v : Health) (k : Nat) : (s.setHl i v).gw k = s.gw k := rfl
@[simp] theorem setFn_gw (n : Nat) (v : Fn) (k : Nat) : (s.setFn n v).gw k = s.gw k := rfl
@[simp] theorem setPort_gw (q : Nat) (v : Port) (k : Nat) : (s.setPort q v).gw k = s.gw k := rfl
@[simp] theorem setChan_gw (c : Nat) (v : Chan) (k : Nat) : (s.setChan c v).gw k = s.gw k := rfl
@[simp] theorem setLink_gw (l : Nat) (v : Link) (k : Nat) : (s.setLink l v).gw k = s.gw k := rfl
@[simp] theorem setDom_gw (d : Nat) (v : Domain) (k : Nat) : (s.setDom d v).gw k = s.gw k := rfl
@[simp] theorem send_gw (p : Packet) (k : Nat) : (s.send p).gw k = s.gw k := rfl
@[simp] theorem sendAll_gw (ps : List Packet) (k : Nat) : (s.sendAll ps).gw k = s.gw k := rfl
@[simp] theorem take_gw (p : Packet) (k : Nat) : (s.take p).gw k = s.gw k := rfl
@[simp] theorem hbmWrite_gw (n a : Nat) (v : List Byte) (k : Nat) : (s.hbmWrite n a v).gw k = s.gw k := rfl
@[simp] theorem hbmPoison_gw (n a : Nat) (b : Bool) (k : Nat) : (s.hbmPoison n a b).gw k = s.gw k := rfl
@[simp] theorem tsWrite_gw (n a : Nat) (v : List Byte) (k : Nat) : (s.tsWrite n a v).gw k = s.gw k := rfl
@[simp] theorem tsPoison_gw (n a : Nat) (b : Bool) (k : Nat) : (s.tsPoison n a b).gw k = s.gw k := rfl
@[simp] theorem hostWrite_gw (q a : Nat) (v : List Byte) (k : Nat) : (s.hostWrite q a v).gw k = s.gw k := rfl
@[simp] theorem setEn_dsp (e : Nat) (v : Ens) (k : Nat) : (s.setEn e v).dsp k = s.dsp k := rfl
@[simp] theorem setBk_dsp (ub : Nat) (v : Bank) (k : Nat) : (s.setBk ub v).dsp k = s.dsp k := rfl
@[simp] theorem setTile_dsp (n : Nat) (v : Tile) (k : Nat) : (s.setTile n v).dsp k = s.dsp k := rfl
@[simp] theorem setSe_dsp (n : Nat) (v : Se) (k : Nat) : (s.setSe n v).dsp k = s.dsp k := rfl
@[simp] theorem setCtx_dsp (n c : Nat) (v : Ctx) (k : Nat) : (s.setCtx n c v).dsp k = s.dsp k := rfl
@[simp] theorem setObj_dsp (n : Nat) (v : SyncObj) (k : Nat) : (s.setObj n v).dsp k = s.dsp k := rfl
@[simp] theorem setMse_dsp (n : Nat) (v : Mse) (k : Nat) : (s.setMse n v).dsp k = s.dsp k := rfl
@[simp] theorem setJob_dsp (n j : Nat) (v : Job) (k : Nat) : (s.setJob n j v).dsp k = s.dsp k := rfl
@[simp] theorem setCluster_dsp (n : Nat) (v : Cluster) (k : Nat) : (s.setCluster n v).dsp k = s.dsp k := rfl
@[simp] theorem setPc_dsp (n p : Nat) (v : Pc) (k : Nat) : (s.setPc n p v).dsp k = s.dsp k := rfl
@[simp] theorem setStk_dsp (n : Nat) (v : Stack) (k : Nat) : (s.setStk n v).dsp k = s.dsp k := rfl
@[simp] theorem setTlb_dsp (r : Nat) (v : List TlbEntry) (k : Nat) : (s.setTlb r v).dsp k = s.dsp k := rfl
@[simp] theorem setCount_dsp (i : Nat) (v : NetCount) (k : Nat) : (s.setCount i v).dsp k = s.dsp k := rfl
@[simp] theorem setGw_dsp (n : Nat) (v : Gateway) (k : Nat) : (s.setGw n v).dsp k = s.dsp k := rfl
@[simp] theorem setRegion_dsp (n : Nat) (v : Region) (k : Nat) : (s.setRegion n v).dsp k = s.dsp k := rfl
@[simp] theorem setHl_dsp (i : Nat) (v : Health) (k : Nat) : (s.setHl i v).dsp k = s.dsp k := rfl
@[simp] theorem setFn_dsp (n : Nat) (v : Fn) (k : Nat) : (s.setFn n v).dsp k = s.dsp k := rfl
@[simp] theorem setPort_dsp (q : Nat) (v : Port) (k : Nat) : (s.setPort q v).dsp k = s.dsp k := rfl
@[simp] theorem setChan_dsp (c : Nat) (v : Chan) (k : Nat) : (s.setChan c v).dsp k = s.dsp k := rfl
@[simp] theorem setLink_dsp (l : Nat) (v : Link) (k : Nat) : (s.setLink l v).dsp k = s.dsp k := rfl
@[simp] theorem setDom_dsp (d : Nat) (v : Domain) (k : Nat) : (s.setDom d v).dsp k = s.dsp k := rfl
@[simp] theorem send_dsp (p : Packet) (k : Nat) : (s.send p).dsp k = s.dsp k := rfl
@[simp] theorem sendAll_dsp (ps : List Packet) (k : Nat) : (s.sendAll ps).dsp k = s.dsp k := rfl
@[simp] theorem take_dsp (p : Packet) (k : Nat) : (s.take p).dsp k = s.dsp k := rfl
@[simp] theorem hbmWrite_dsp (n a : Nat) (v : List Byte) (k : Nat) : (s.hbmWrite n a v).dsp k = s.dsp k := rfl
@[simp] theorem hbmPoison_dsp (n a : Nat) (b : Bool) (k : Nat) : (s.hbmPoison n a b).dsp k = s.dsp k := rfl
@[simp] theorem tsWrite_dsp (n a : Nat) (v : List Byte) (k : Nat) : (s.tsWrite n a v).dsp k = s.dsp k := rfl
@[simp] theorem tsPoison_dsp (n a : Nat) (b : Bool) (k : Nat) : (s.tsPoison n a b).dsp k = s.dsp k := rfl
@[simp] theorem hostWrite_dsp (q a : Nat) (v : List Byte) (k : Nat) : (s.hostWrite q a v).dsp k = s.dsp k := rfl
@[simp] theorem setEn_region (e : Nat) (v : Ens) (k : Nat) : (s.setEn e v).region k = s.region k := rfl
@[simp] theorem setBk_region (ub : Nat) (v : Bank) (k : Nat) : (s.setBk ub v).region k = s.region k := rfl
@[simp] theorem setTile_region (n : Nat) (v : Tile) (k : Nat) : (s.setTile n v).region k = s.region k := rfl
@[simp] theorem setSe_region (n : Nat) (v : Se) (k : Nat) : (s.setSe n v).region k = s.region k := rfl
@[simp] theorem setCtx_region (n c : Nat) (v : Ctx) (k : Nat) : (s.setCtx n c v).region k = s.region k := rfl
@[simp] theorem setObj_region (n : Nat) (v : SyncObj) (k : Nat) : (s.setObj n v).region k = s.region k := rfl
@[simp] theorem setMse_region (n : Nat) (v : Mse) (k : Nat) : (s.setMse n v).region k = s.region k := rfl
@[simp] theorem setJob_region (n j : Nat) (v : Job) (k : Nat) : (s.setJob n j v).region k = s.region k := rfl
@[simp] theorem setCluster_region (n : Nat) (v : Cluster) (k : Nat) : (s.setCluster n v).region k = s.region k := rfl
@[simp] theorem setPc_region (n p : Nat) (v : Pc) (k : Nat) : (s.setPc n p v).region k = s.region k := rfl
@[simp] theorem setStk_region (n : Nat) (v : Stack) (k : Nat) : (s.setStk n v).region k = s.region k := rfl
@[simp] theorem setTlb_region (r : Nat) (v : List TlbEntry) (k : Nat) : (s.setTlb r v).region k = s.region k := rfl
@[simp] theorem setCount_region (i : Nat) (v : NetCount) (k : Nat) : (s.setCount i v).region k = s.region k := rfl
@[simp] theorem setGw_region (n : Nat) (v : Gateway) (k : Nat) : (s.setGw n v).region k = s.region k := rfl
@[simp] theorem setDsp_region (n : Nat) (v : Dsp) (k : Nat) : (s.setDsp n v).region k = s.region k := rfl
@[simp] theorem setHl_region (i : Nat) (v : Health) (k : Nat) : (s.setHl i v).region k = s.region k := rfl
@[simp] theorem setFn_region (n : Nat) (v : Fn) (k : Nat) : (s.setFn n v).region k = s.region k := rfl
@[simp] theorem setPort_region (q : Nat) (v : Port) (k : Nat) : (s.setPort q v).region k = s.region k := rfl
@[simp] theorem setChan_region (c : Nat) (v : Chan) (k : Nat) : (s.setChan c v).region k = s.region k := rfl
@[simp] theorem setLink_region (l : Nat) (v : Link) (k : Nat) : (s.setLink l v).region k = s.region k := rfl
@[simp] theorem setDom_region (d : Nat) (v : Domain) (k : Nat) : (s.setDom d v).region k = s.region k := rfl
@[simp] theorem send_region (p : Packet) (k : Nat) : (s.send p).region k = s.region k := rfl
@[simp] theorem sendAll_region (ps : List Packet) (k : Nat) : (s.sendAll ps).region k = s.region k := rfl
@[simp] theorem take_region (p : Packet) (k : Nat) : (s.take p).region k = s.region k := rfl
@[simp] theorem hbmWrite_region (n a : Nat) (v : List Byte) (k : Nat) : (s.hbmWrite n a v).region k = s.region k := rfl
@[simp] theorem hbmPoison_region (n a : Nat) (b : Bool) (k : Nat) : (s.hbmPoison n a b).region k = s.region k := rfl
@[simp] theorem tsWrite_region (n a : Nat) (v : List Byte) (k : Nat) : (s.tsWrite n a v).region k = s.region k := rfl
@[simp] theorem tsPoison_region (n a : Nat) (b : Bool) (k : Nat) : (s.tsPoison n a b).region k = s.region k := rfl
@[simp] theorem hostWrite_region (q a : Nat) (v : List Byte) (k : Nat) : (s.hostWrite q a v).region k = s.region k := rfl
@[simp] theorem setEn_hl (e : Nat) (v : Ens) (k : Nat) : (s.setEn e v).hl k = s.hl k := rfl
@[simp] theorem setBk_hl (ub : Nat) (v : Bank) (k : Nat) : (s.setBk ub v).hl k = s.hl k := rfl
@[simp] theorem setTile_hl (n : Nat) (v : Tile) (k : Nat) : (s.setTile n v).hl k = s.hl k := rfl
@[simp] theorem setSe_hl (n : Nat) (v : Se) (k : Nat) : (s.setSe n v).hl k = s.hl k := rfl
@[simp] theorem setCtx_hl (n c : Nat) (v : Ctx) (k : Nat) : (s.setCtx n c v).hl k = s.hl k := rfl
@[simp] theorem setObj_hl (n : Nat) (v : SyncObj) (k : Nat) : (s.setObj n v).hl k = s.hl k := rfl
@[simp] theorem setMse_hl (n : Nat) (v : Mse) (k : Nat) : (s.setMse n v).hl k = s.hl k := rfl
@[simp] theorem setJob_hl (n j : Nat) (v : Job) (k : Nat) : (s.setJob n j v).hl k = s.hl k := rfl
@[simp] theorem setCluster_hl (n : Nat) (v : Cluster) (k : Nat) : (s.setCluster n v).hl k = s.hl k := rfl
@[simp] theorem setPc_hl (n p : Nat) (v : Pc) (k : Nat) : (s.setPc n p v).hl k = s.hl k := rfl
@[simp] theorem setStk_hl (n : Nat) (v : Stack) (k : Nat) : (s.setStk n v).hl k = s.hl k := rfl
@[simp] theorem setTlb_hl (r : Nat) (v : List TlbEntry) (k : Nat) : (s.setTlb r v).hl k = s.hl k := rfl
@[simp] theorem setCount_hl (i : Nat) (v : NetCount) (k : Nat) : (s.setCount i v).hl k = s.hl k := rfl
@[simp] theorem setGw_hl (n : Nat) (v : Gateway) (k : Nat) : (s.setGw n v).hl k = s.hl k := rfl
@[simp] theorem setDsp_hl (n : Nat) (v : Dsp) (k : Nat) : (s.setDsp n v).hl k = s.hl k := rfl
@[simp] theorem setRegion_hl (n : Nat) (v : Region) (k : Nat) : (s.setRegion n v).hl k = s.hl k := rfl
@[simp] theorem setFn_hl (n : Nat) (v : Fn) (k : Nat) : (s.setFn n v).hl k = s.hl k := rfl
@[simp] theorem setPort_hl (q : Nat) (v : Port) (k : Nat) : (s.setPort q v).hl k = s.hl k := rfl
@[simp] theorem setChan_hl (c : Nat) (v : Chan) (k : Nat) : (s.setChan c v).hl k = s.hl k := rfl
@[simp] theorem setLink_hl (l : Nat) (v : Link) (k : Nat) : (s.setLink l v).hl k = s.hl k := rfl
@[simp] theorem setDom_hl (d : Nat) (v : Domain) (k : Nat) : (s.setDom d v).hl k = s.hl k := rfl
@[simp] theorem send_hl (p : Packet) (k : Nat) : (s.send p).hl k = s.hl k := rfl
@[simp] theorem sendAll_hl (ps : List Packet) (k : Nat) : (s.sendAll ps).hl k = s.hl k := rfl
@[simp] theorem take_hl (p : Packet) (k : Nat) : (s.take p).hl k = s.hl k := rfl
@[simp] theorem hbmWrite_hl (n a : Nat) (v : List Byte) (k : Nat) : (s.hbmWrite n a v).hl k = s.hl k := rfl
@[simp] theorem hbmPoison_hl (n a : Nat) (b : Bool) (k : Nat) : (s.hbmPoison n a b).hl k = s.hl k := rfl
@[simp] theorem tsWrite_hl (n a : Nat) (v : List Byte) (k : Nat) : (s.tsWrite n a v).hl k = s.hl k := rfl
@[simp] theorem tsPoison_hl (n a : Nat) (b : Bool) (k : Nat) : (s.tsPoison n a b).hl k = s.hl k := rfl
@[simp] theorem hostWrite_hl (q a : Nat) (v : List Byte) (k : Nat) : (s.hostWrite q a v).hl k = s.hl k := rfl
@[simp] theorem setEn_fn (e : Nat) (v : Ens) (k : Nat) : (s.setEn e v).fn k = s.fn k := rfl
@[simp] theorem setBk_fn (ub : Nat) (v : Bank) (k : Nat) : (s.setBk ub v).fn k = s.fn k := rfl
@[simp] theorem setTile_fn (n : Nat) (v : Tile) (k : Nat) : (s.setTile n v).fn k = s.fn k := rfl
@[simp] theorem setSe_fn (n : Nat) (v : Se) (k : Nat) : (s.setSe n v).fn k = s.fn k := rfl
@[simp] theorem setCtx_fn (n c : Nat) (v : Ctx) (k : Nat) : (s.setCtx n c v).fn k = s.fn k := rfl
@[simp] theorem setObj_fn (n : Nat) (v : SyncObj) (k : Nat) : (s.setObj n v).fn k = s.fn k := rfl
@[simp] theorem setMse_fn (n : Nat) (v : Mse) (k : Nat) : (s.setMse n v).fn k = s.fn k := rfl
@[simp] theorem setJob_fn (n j : Nat) (v : Job) (k : Nat) : (s.setJob n j v).fn k = s.fn k := rfl
@[simp] theorem setCluster_fn (n : Nat) (v : Cluster) (k : Nat) : (s.setCluster n v).fn k = s.fn k := rfl
@[simp] theorem setPc_fn (n p : Nat) (v : Pc) (k : Nat) : (s.setPc n p v).fn k = s.fn k := rfl
@[simp] theorem setStk_fn (n : Nat) (v : Stack) (k : Nat) : (s.setStk n v).fn k = s.fn k := rfl
@[simp] theorem setTlb_fn (r : Nat) (v : List TlbEntry) (k : Nat) : (s.setTlb r v).fn k = s.fn k := rfl
@[simp] theorem setCount_fn (i : Nat) (v : NetCount) (k : Nat) : (s.setCount i v).fn k = s.fn k := rfl
@[simp] theorem setGw_fn (n : Nat) (v : Gateway) (k : Nat) : (s.setGw n v).fn k = s.fn k := rfl
@[simp] theorem setDsp_fn (n : Nat) (v : Dsp) (k : Nat) : (s.setDsp n v).fn k = s.fn k := rfl
@[simp] theorem setRegion_fn (n : Nat) (v : Region) (k : Nat) : (s.setRegion n v).fn k = s.fn k := rfl
@[simp] theorem setHl_fn (i : Nat) (v : Health) (k : Nat) : (s.setHl i v).fn k = s.fn k := rfl
@[simp] theorem setPort_fn (q : Nat) (v : Port) (k : Nat) : (s.setPort q v).fn k = s.fn k := rfl
@[simp] theorem setChan_fn (c : Nat) (v : Chan) (k : Nat) : (s.setChan c v).fn k = s.fn k := rfl
@[simp] theorem setLink_fn (l : Nat) (v : Link) (k : Nat) : (s.setLink l v).fn k = s.fn k := rfl
@[simp] theorem setDom_fn (d : Nat) (v : Domain) (k : Nat) : (s.setDom d v).fn k = s.fn k := rfl
@[simp] theorem send_fn (p : Packet) (k : Nat) : (s.send p).fn k = s.fn k := rfl
@[simp] theorem sendAll_fn (ps : List Packet) (k : Nat) : (s.sendAll ps).fn k = s.fn k := rfl
@[simp] theorem take_fn (p : Packet) (k : Nat) : (s.take p).fn k = s.fn k := rfl
@[simp] theorem hbmWrite_fn (n a : Nat) (v : List Byte) (k : Nat) : (s.hbmWrite n a v).fn k = s.fn k := rfl
@[simp] theorem hbmPoison_fn (n a : Nat) (b : Bool) (k : Nat) : (s.hbmPoison n a b).fn k = s.fn k := rfl
@[simp] theorem tsWrite_fn (n a : Nat) (v : List Byte) (k : Nat) : (s.tsWrite n a v).fn k = s.fn k := rfl
@[simp] theorem tsPoison_fn (n a : Nat) (b : Bool) (k : Nat) : (s.tsPoison n a b).fn k = s.fn k := rfl
@[simp] theorem hostWrite_fn (q a : Nat) (v : List Byte) (k : Nat) : (s.hostWrite q a v).fn k = s.fn k := rfl
@[simp] theorem setEn_port (e : Nat) (v : Ens) (k : Nat) : (s.setEn e v).port k = s.port k := rfl
@[simp] theorem setBk_port (ub : Nat) (v : Bank) (k : Nat) : (s.setBk ub v).port k = s.port k := rfl
@[simp] theorem setTile_port (n : Nat) (v : Tile) (k : Nat) : (s.setTile n v).port k = s.port k := rfl
@[simp] theorem setSe_port (n : Nat) (v : Se) (k : Nat) : (s.setSe n v).port k = s.port k := rfl
@[simp] theorem setCtx_port (n c : Nat) (v : Ctx) (k : Nat) : (s.setCtx n c v).port k = s.port k := rfl
@[simp] theorem setObj_port (n : Nat) (v : SyncObj) (k : Nat) : (s.setObj n v).port k = s.port k := rfl
@[simp] theorem setMse_port (n : Nat) (v : Mse) (k : Nat) : (s.setMse n v).port k = s.port k := rfl
@[simp] theorem setJob_port (n j : Nat) (v : Job) (k : Nat) : (s.setJob n j v).port k = s.port k := rfl
@[simp] theorem setCluster_port (n : Nat) (v : Cluster) (k : Nat) : (s.setCluster n v).port k = s.port k := rfl
@[simp] theorem setPc_port (n p : Nat) (v : Pc) (k : Nat) : (s.setPc n p v).port k = s.port k := rfl
@[simp] theorem setStk_port (n : Nat) (v : Stack) (k : Nat) : (s.setStk n v).port k = s.port k := rfl
@[simp] theorem setTlb_port (r : Nat) (v : List TlbEntry) (k : Nat) : (s.setTlb r v).port k = s.port k := rfl
@[simp] theorem setCount_port (i : Nat) (v : NetCount) (k : Nat) : (s.setCount i v).port k = s.port k := rfl
@[simp] theorem setGw_port (n : Nat) (v : Gateway) (k : Nat) : (s.setGw n v).port k = s.port k := rfl
@[simp] theorem setDsp_port (n : Nat) (v : Dsp) (k : Nat) : (s.setDsp n v).port k = s.port k := rfl
@[simp] theorem setRegion_port (n : Nat) (v : Region) (k : Nat) : (s.setRegion n v).port k = s.port k := rfl
@[simp] theorem setHl_port (i : Nat) (v : Health) (k : Nat) : (s.setHl i v).port k = s.port k := rfl
@[simp] theorem setFn_port (n : Nat) (v : Fn) (k : Nat) : (s.setFn n v).port k = s.port k := rfl
@[simp] theorem setChan_port (c : Nat) (v : Chan) (k : Nat) : (s.setChan c v).port k = s.port k := rfl
@[simp] theorem setLink_port (l : Nat) (v : Link) (k : Nat) : (s.setLink l v).port k = s.port k := rfl
@[simp] theorem setDom_port (d : Nat) (v : Domain) (k : Nat) : (s.setDom d v).port k = s.port k := rfl
@[simp] theorem send_port (p : Packet) (k : Nat) : (s.send p).port k = s.port k := rfl
@[simp] theorem sendAll_port (ps : List Packet) (k : Nat) : (s.sendAll ps).port k = s.port k := rfl
@[simp] theorem take_port (p : Packet) (k : Nat) : (s.take p).port k = s.port k := rfl
@[simp] theorem hbmWrite_port (n a : Nat) (v : List Byte) (k : Nat) : (s.hbmWrite n a v).port k = s.port k := rfl
@[simp] theorem hbmPoison_port (n a : Nat) (b : Bool) (k : Nat) : (s.hbmPoison n a b).port k = s.port k := rfl
@[simp] theorem tsWrite_port (n a : Nat) (v : List Byte) (k : Nat) : (s.tsWrite n a v).port k = s.port k := rfl
@[simp] theorem tsPoison_port (n a : Nat) (b : Bool) (k : Nat) : (s.tsPoison n a b).port k = s.port k := rfl
@[simp] theorem hostWrite_port (q a : Nat) (v : List Byte) (k : Nat) : (s.hostWrite q a v).port k = s.port k := rfl
@[simp] theorem setEn_chan (e : Nat) (v : Ens) (k : Nat) : (s.setEn e v).chan k = s.chan k := rfl
@[simp] theorem setBk_chan (ub : Nat) (v : Bank) (k : Nat) : (s.setBk ub v).chan k = s.chan k := rfl
@[simp] theorem setTile_chan (n : Nat) (v : Tile) (k : Nat) : (s.setTile n v).chan k = s.chan k := rfl
@[simp] theorem setSe_chan (n : Nat) (v : Se) (k : Nat) : (s.setSe n v).chan k = s.chan k := rfl
@[simp] theorem setCtx_chan (n c : Nat) (v : Ctx) (k : Nat) : (s.setCtx n c v).chan k = s.chan k := rfl
@[simp] theorem setObj_chan (n : Nat) (v : SyncObj) (k : Nat) : (s.setObj n v).chan k = s.chan k := rfl
@[simp] theorem setMse_chan (n : Nat) (v : Mse) (k : Nat) : (s.setMse n v).chan k = s.chan k := rfl
@[simp] theorem setJob_chan (n j : Nat) (v : Job) (k : Nat) : (s.setJob n j v).chan k = s.chan k := rfl
@[simp] theorem setCluster_chan (n : Nat) (v : Cluster) (k : Nat) : (s.setCluster n v).chan k = s.chan k := rfl
@[simp] theorem setPc_chan (n p : Nat) (v : Pc) (k : Nat) : (s.setPc n p v).chan k = s.chan k := rfl
@[simp] theorem setStk_chan (n : Nat) (v : Stack) (k : Nat) : (s.setStk n v).chan k = s.chan k := rfl
@[simp] theorem setTlb_chan (r : Nat) (v : List TlbEntry) (k : Nat) : (s.setTlb r v).chan k = s.chan k := rfl
@[simp] theorem setCount_chan (i : Nat) (v : NetCount) (k : Nat) : (s.setCount i v).chan k = s.chan k := rfl
@[simp] theorem setGw_chan (n : Nat) (v : Gateway) (k : Nat) : (s.setGw n v).chan k = s.chan k := rfl
@[simp] theorem setDsp_chan (n : Nat) (v : Dsp) (k : Nat) : (s.setDsp n v).chan k = s.chan k := rfl
@[simp] theorem setRegion_chan (n : Nat) (v : Region) (k : Nat) : (s.setRegion n v).chan k = s.chan k := rfl
@[simp] theorem setHl_chan (i : Nat) (v : Health) (k : Nat) : (s.setHl i v).chan k = s.chan k := rfl
@[simp] theorem setFn_chan (n : Nat) (v : Fn) (k : Nat) : (s.setFn n v).chan k = s.chan k := rfl
@[simp] theorem setPort_chan (q : Nat) (v : Port) (k : Nat) : (s.setPort q v).chan k = s.chan k := rfl
@[simp] theorem setLink_chan (l : Nat) (v : Link) (k : Nat) : (s.setLink l v).chan k = s.chan k := rfl
@[simp] theorem setDom_chan (d : Nat) (v : Domain) (k : Nat) : (s.setDom d v).chan k = s.chan k := rfl
@[simp] theorem send_chan (p : Packet) (k : Nat) : (s.send p).chan k = s.chan k := rfl
@[simp] theorem sendAll_chan (ps : List Packet) (k : Nat) : (s.sendAll ps).chan k = s.chan k := rfl
@[simp] theorem take_chan (p : Packet) (k : Nat) : (s.take p).chan k = s.chan k := rfl
@[simp] theorem hbmWrite_chan (n a : Nat) (v : List Byte) (k : Nat) : (s.hbmWrite n a v).chan k = s.chan k := rfl
@[simp] theorem hbmPoison_chan (n a : Nat) (b : Bool) (k : Nat) : (s.hbmPoison n a b).chan k = s.chan k := rfl
@[simp] theorem tsWrite_chan (n a : Nat) (v : List Byte) (k : Nat) : (s.tsWrite n a v).chan k = s.chan k := rfl
@[simp] theorem tsPoison_chan (n a : Nat) (b : Bool) (k : Nat) : (s.tsPoison n a b).chan k = s.chan k := rfl
@[simp] theorem hostWrite_chan (q a : Nat) (v : List Byte) (k : Nat) : (s.hostWrite q a v).chan k = s.chan k := rfl
@[simp] theorem setEn_link (e : Nat) (v : Ens) (k : Nat) : (s.setEn e v).link k = s.link k := rfl
@[simp] theorem setBk_link (ub : Nat) (v : Bank) (k : Nat) : (s.setBk ub v).link k = s.link k := rfl
@[simp] theorem setTile_link (n : Nat) (v : Tile) (k : Nat) : (s.setTile n v).link k = s.link k := rfl
@[simp] theorem setSe_link (n : Nat) (v : Se) (k : Nat) : (s.setSe n v).link k = s.link k := rfl
@[simp] theorem setCtx_link (n c : Nat) (v : Ctx) (k : Nat) : (s.setCtx n c v).link k = s.link k := rfl
@[simp] theorem setObj_link (n : Nat) (v : SyncObj) (k : Nat) : (s.setObj n v).link k = s.link k := rfl
@[simp] theorem setMse_link (n : Nat) (v : Mse) (k : Nat) : (s.setMse n v).link k = s.link k := rfl
@[simp] theorem setJob_link (n j : Nat) (v : Job) (k : Nat) : (s.setJob n j v).link k = s.link k := rfl
@[simp] theorem setCluster_link (n : Nat) (v : Cluster) (k : Nat) : (s.setCluster n v).link k = s.link k := rfl
@[simp] theorem setPc_link (n p : Nat) (v : Pc) (k : Nat) : (s.setPc n p v).link k = s.link k := rfl
@[simp] theorem setStk_link (n : Nat) (v : Stack) (k : Nat) : (s.setStk n v).link k = s.link k := rfl
@[simp] theorem setTlb_link (r : Nat) (v : List TlbEntry) (k : Nat) : (s.setTlb r v).link k = s.link k := rfl
@[simp] theorem setCount_link (i : Nat) (v : NetCount) (k : Nat) : (s.setCount i v).link k = s.link k := rfl
@[simp] theorem setGw_link (n : Nat) (v : Gateway) (k : Nat) : (s.setGw n v).link k = s.link k := rfl
@[simp] theorem setDsp_link (n : Nat) (v : Dsp) (k : Nat) : (s.setDsp n v).link k = s.link k := rfl
@[simp] theorem setRegion_link (n : Nat) (v : Region) (k : Nat) : (s.setRegion n v).link k = s.link k := rfl
@[simp] theorem setHl_link (i : Nat) (v : Health) (k : Nat) : (s.setHl i v).link k = s.link k := rfl
@[simp] theorem setFn_link (n : Nat) (v : Fn) (k : Nat) : (s.setFn n v).link k = s.link k := rfl
@[simp] theorem setPort_link (q : Nat) (v : Port) (k : Nat) : (s.setPort q v).link k = s.link k := rfl
@[simp] theorem setChan_link (c : Nat) (v : Chan) (k : Nat) : (s.setChan c v).link k = s.link k := rfl
@[simp] theorem setDom_link (d : Nat) (v : Domain) (k : Nat) : (s.setDom d v).link k = s.link k := rfl
@[simp] theorem send_link (p : Packet) (k : Nat) : (s.send p).link k = s.link k := rfl
@[simp] theorem sendAll_link (ps : List Packet) (k : Nat) : (s.sendAll ps).link k = s.link k := rfl
@[simp] theorem take_link (p : Packet) (k : Nat) : (s.take p).link k = s.link k := rfl
@[simp] theorem hbmWrite_link (n a : Nat) (v : List Byte) (k : Nat) : (s.hbmWrite n a v).link k = s.link k := rfl
@[simp] theorem hbmPoison_link (n a : Nat) (b : Bool) (k : Nat) : (s.hbmPoison n a b).link k = s.link k := rfl
@[simp] theorem tsWrite_link (n a : Nat) (v : List Byte) (k : Nat) : (s.tsWrite n a v).link k = s.link k := rfl
@[simp] theorem tsPoison_link (n a : Nat) (b : Bool) (k : Nat) : (s.tsPoison n a b).link k = s.link k := rfl
@[simp] theorem hostWrite_link (q a : Nat) (v : List Byte) (k : Nat) : (s.hostWrite q a v).link k = s.link k := rfl
@[simp] theorem setEn_dom (e : Nat) (v : Ens) (k : Nat) : (s.setEn e v).dom k = s.dom k := rfl
@[simp] theorem setBk_dom (ub : Nat) (v : Bank) (k : Nat) : (s.setBk ub v).dom k = s.dom k := rfl
@[simp] theorem setTile_dom (n : Nat) (v : Tile) (k : Nat) : (s.setTile n v).dom k = s.dom k := rfl
@[simp] theorem setSe_dom (n : Nat) (v : Se) (k : Nat) : (s.setSe n v).dom k = s.dom k := rfl
@[simp] theorem setCtx_dom (n c : Nat) (v : Ctx) (k : Nat) : (s.setCtx n c v).dom k = s.dom k := rfl
@[simp] theorem setObj_dom (n : Nat) (v : SyncObj) (k : Nat) : (s.setObj n v).dom k = s.dom k := rfl
@[simp] theorem setMse_dom (n : Nat) (v : Mse) (k : Nat) : (s.setMse n v).dom k = s.dom k := rfl
@[simp] theorem setJob_dom (n j : Nat) (v : Job) (k : Nat) : (s.setJob n j v).dom k = s.dom k := rfl
@[simp] theorem setCluster_dom (n : Nat) (v : Cluster) (k : Nat) : (s.setCluster n v).dom k = s.dom k := rfl
@[simp] theorem setPc_dom (n p : Nat) (v : Pc) (k : Nat) : (s.setPc n p v).dom k = s.dom k := rfl
@[simp] theorem setStk_dom (n : Nat) (v : Stack) (k : Nat) : (s.setStk n v).dom k = s.dom k := rfl
@[simp] theorem setTlb_dom (r : Nat) (v : List TlbEntry) (k : Nat) : (s.setTlb r v).dom k = s.dom k := rfl
@[simp] theorem setCount_dom (i : Nat) (v : NetCount) (k : Nat) : (s.setCount i v).dom k = s.dom k := rfl
@[simp] theorem setGw_dom (n : Nat) (v : Gateway) (k : Nat) : (s.setGw n v).dom k = s.dom k := rfl
@[simp] theorem setDsp_dom (n : Nat) (v : Dsp) (k : Nat) : (s.setDsp n v).dom k = s.dom k := rfl
@[simp] theorem setRegion_dom (n : Nat) (v : Region) (k : Nat) : (s.setRegion n v).dom k = s.dom k := rfl
@[simp] theorem setHl_dom (i : Nat) (v : Health) (k : Nat) : (s.setHl i v).dom k = s.dom k := rfl
@[simp] theorem setFn_dom (n : Nat) (v : Fn) (k : Nat) : (s.setFn n v).dom k = s.dom k := rfl
@[simp] theorem setPort_dom (q : Nat) (v : Port) (k : Nat) : (s.setPort q v).dom k = s.dom k := rfl
@[simp] theorem setChan_dom (c : Nat) (v : Chan) (k : Nat) : (s.setChan c v).dom k = s.dom k := rfl
@[simp] theorem setLink_dom (l : Nat) (v : Link) (k : Nat) : (s.setLink l v).dom k = s.dom k := rfl
@[simp] theorem send_dom (p : Packet) (k : Nat) : (s.send p).dom k = s.dom k := rfl
@[simp] theorem sendAll_dom (ps : List Packet) (k : Nat) : (s.sendAll ps).dom k = s.dom k := rfl
@[simp] theorem take_dom (p : Packet) (k : Nat) : (s.take p).dom k = s.dom k := rfl
@[simp] theorem hbmWrite_dom (n a : Nat) (v : List Byte) (k : Nat) : (s.hbmWrite n a v).dom k = s.dom k := rfl
@[simp] theorem hbmPoison_dom (n a : Nat) (b : Bool) (k : Nat) : (s.hbmPoison n a b).dom k = s.dom k := rfl
@[simp] theorem tsWrite_dom (n a : Nat) (v : List Byte) (k : Nat) : (s.tsWrite n a v).dom k = s.dom k := rfl
@[simp] theorem tsPoison_dom (n a : Nat) (b : Bool) (k : Nat) : (s.tsPoison n a b).dom k = s.dom k := rfl
@[simp] theorem hostWrite_dom (q a : Nat) (v : List Byte) (k : Nat) : (s.hostWrite q a v).dom k = s.dom k := rfl

end State

end Sys2Proof.Machine
end

