-- ==== Sys2Proof/Laws/Ops.lean ====
section
/-! SUPPORT. What the shared operations do, one lemma each: records and their way to the log and the rings, completions,
the stop of an ensemble, the end of a step. A lemma `x_frame` names every field the operation may change. -/

namespace Sys2Proof.Machine

namespace State

variable (s : State)

/-! ## Records -/

theorem setAlert_frame (a : BitVec 7) :
    s.setAlert a = { s with keeper := (s.setAlert a).keeper, pins := (s.setAlert a).pins } := rfl

/-- A fold of steps that each keep all of the state but one part keeps all but that part. -/
theorem foldl_frame {α : Type} (f : State → α → State) (P : State → State → Prop) (hr : ∀ s, P s s)
    (ht : ∀ a b c, P a b → P b c → P a c) (hf : ∀ s a, P s (f s a)) (l : List α) (s : State) : P s (l.foldl f s) := by
  induction l generalizing s with
  | nil => exact hr s
  | cons a r ih => exact ht _ _ _ (hf s a) (ih _)

/-- Marking ALERT_STATUS bits as set in this cycle changes that mark only. -/
theorem markAlert_frame (a : BitVec 7) : s.markAlert a = { s with fresh := (s.markAlert a).fresh } := by
  unfold markAlert
  refine foldl_frame _ (fun a b => b = { a with fresh := b.fresh }) (fun _ => rfl) ?_ (fun _ _ => rfl) _ s
  intro a b c h1 h2; rw [h2, h1]

theorem alertOn_frame (a : BitVec 7) :
    s.alertOn a = { s with fresh := (s.alertOn a).fresh, keeper := (s.alertOn a).keeper, pins := (s.alertOn a).pins } := by
  unfold alertOn; rw [setAlert_frame, markAlert_frame]

theorem logRec_frame (r : Rec) :
    s.logRec r = { s with fresh := (s.logRec r).fresh, keeper := (s.logRec r).keeper, pins := (s.logRec r).pins } := by
  unfold logRec; simp only; rw [alertOn_frame]

theorem offer_frame (c : Nat) (r : Rec) : s.offer c r = { s with chans := (s.offer c r).chans } := by
  unfold offer; split <;> rfl

theorem foldl_chans {α : Type} (f : State → α → State) (hf : ∀ s a, f s a = { s with chans := (f s a).chans })
    (l : List α) : l.foldl f s = { s with chans := (l.foldl f s).chans } := by
  refine foldl_frame f (fun a b => b = { a with chans := b.chans }) (fun _ => rfl) ?_ hf l s
  intro a b c h1 h2; rw [h2, h1]

theorem emit_frame (r : Rec) :
    s.emit r = { s with fresh := (s.emit r).fresh, keeper := (s.emit r).keeper, pins := (s.emit r).pins, chans := (s.emit r).chans } := by
  unfold emit
  simp only
  rw [foldl_chans _ _ (fun s c => offer_frame s c r)]
  rw [logRec_frame]

theorem fold_frame (r : Rec) :
    s.fold r = { s with fresh := (s.fold r).fresh, keeper := (s.fold r).keeper, pins := (s.fold r).pins, chans := (s.fold r).chans } := by
  unfold fold
  simp only
  split
  · rfl
  · rw [emit_frame]

theorem injected_frame (i n : Nat) : s.injected i n = { s with counts := (s.injected i n).counts } := rfl

/-- A record counts at the initiator that sends it, changes the log, the alert and the rings it is offered to, and nothing else. -/
theorem raise_frame (r : Rec) :
    s.raise r = { s with fresh := (s.raise r).fresh, counts := (s.raise r).counts, keeper := (s.raise r).keeper,
                         pins := (s.raise r).pins, chans := (s.raise r).chans } := by
  unfold raise
  split <;> simp only <;> split <;> (first | rw [fold_frame] | rw [emit_frame]) <;> (try rw [injected_frame])

@[simp] theorem setAlert_mport (a : BitVec 7) (p : MPort) : (s.setAlert a).mport p = s.mport p := by
  cases p <;> (simp only [setAlert, mport]; split <;> rfl)

@[simp] theorem markAlert_keeper (a : BitVec 7) : (s.markAlert a).keeper = s.keeper := by rw [markAlert_frame]
@[simp] theorem markAlert_mport (a : BitVec 7) (p : MPort) : (s.markAlert a).mport p = s.mport p := by simp only [mport, markAlert_keeper]

/-- A record reaches the log and leaves both management ports as they are. -/
@[simp] theorem raise_mport (r : Rec) (p : MPort) : (s.raise r).mport p = s.mport p := by
  have l : ∀ (s : State) (r : Rec), (s.logRec r).mport p = s.mport p := by
    intro s r
    unfold logRec alertOn
    rw [setAlert_mport, markAlert_mport]
    cases p <;> (simp only [mport]; split <;> rfl)
  have e : ∀ (s : State) (r : Rec), (s.emit r).mport p = s.mport p := by
    intro s r
    have k : (s.emit r).keeper = (s.logRec r).keeper := by
      unfold emit
      simp only
      rw [foldl_chans _ _ (fun s c => offer_frame s c r)]
    exact (show (s.emit r).mport p = (s.logRec r).mport p by unfold mport; rw [k]).trans (l s r)
  have f : ∀ (s : State) (r : Rec), (s.fold r).mport p = s.mport p := by
    intro s r
    unfold fold
    simp only
    split
    · cases p <;> rfl
    · rw [e]; cases p <;> rfl
  have i : ∀ (s : State) (i : Nat), (s.injected i 1).mport p = s.mport p := fun s i => by cases p <;> rfl
  unfold raise
  split <;> simp only <;> split <;> simp only [e, f, i]

/-! ## Completions -/

theorem post_frame (h : Issuer) (op st : Nat) (x : BitVec 128) (d : W32) :
    s.post h op st x d = { s with chans := (s.post h op st x d).chans } := by
  unfold post
  simp only
  split
  · rfl
  · split <;> rfl

theorem endDisable_frame (c : Nat) : s.endDisable c = { s with chans := (s.endDisable c).chans } := by
  unfold endDisable
  simp only
  split
  · rfl
  · split
    · rw [post_frame]; rfl
    · rfl

/-- A completion changes channels and nothing else. -/
theorem complete_frame (h : Issuer) (op st : Nat) (x : BitVec 128) (d : W32) :
    s.complete h op st x d = { s with chans := (s.complete h op st x d).chans } := by
  unfold complete
  rw [endDisable_frame, post_frame]

theorem begin_frame (h : Issuer) : s.begin h = { s with chans := (s.begin h).chans } := rfl

/-- A completion of a command in flight on a channel that is not being disabled: its entry is the channel's last completion. -/
theorem complete_answers (h : Issuer) (op st : Nat) (x : BitVec 128) (d : W32)
    (hd : (s.chan h.chan).disabler = none) (hi : h.tag ∈ (s.chan h.chan).inflight) :
    Answers s (s.complete h op st x d) h op st x d := by
  have hc : (s.chan h.chan).inflight.contains h.tag = true := by simpa using hi
  unfold Answers complete post answerOf
  simp only [hc, Bool.not_true, Bool.false_eq_true, if_false]
  split <;> simp [endDisable, hd, addCompl, setChan_chan]
  · intro c hc; simp [hc]
  · intro c hc; simp [hc]

/-! ## The fields each of these operations leaves -/

@[simp] theorem raise_pending (r : Rec) : (s.raise r).pending = s.pending := by rw [raise_frame]
@[simp] theorem raise_variant (r : Rec) : (s.raise r).variant = s.variant := by rw [raise_frame]
@[simp] theorem raise_free (r : Rec) : (s.raise r).free = s.free := by rw [raise_frame]
@[simp] theorem raise_ltc (r : Rec) : (s.raise r).ltc = s.ltc := by rw [raise_frame]
@[simp] theorem raise_beats (r : Rec) : (s.raise r).beats = s.beats := by rw [raise_frame]
@[simp] theorem raise_ens (r : Rec) : (s.raise r).ens = s.ens := by rw [raise_frame]
@[simp] theorem raise_banks (r : Rec) : (s.raise r).banks = s.banks := by rw [raise_frame]
@[simp] theorem raise_lastBank (r : Rec) : (s.raise r).lastBank = s.lastBank := by rw [raise_frame]
@[simp] theorem raise_tiles (r : Rec) : (s.raise r).tiles = s.tiles := by rw [raise_frame]
@[simp] theorem raise_tstore (r : Rec) : (s.raise r).tstore = s.tstore := by rw [raise_frame]
@[simp] theorem raise_tpoison (r : Rec) : (s.raise r).tpoison = s.tpoison := by rw [raise_frame]
@[simp] theorem raise_tfixed (r : Rec) : (s.raise r).tfixed = s.tfixed := by rw [raise_frame]
@[simp] theorem raise_tserv (r : Rec) : (s.raise r).tserv = s.tserv := by rw [raise_frame]
@[simp] theorem raise_sserv (r : Rec) : (s.raise r).sserv = s.sserv := by rw [raise_frame]
@[simp] theorem raise_tspares (r : Rec) : (s.raise r).tspares = s.tspares := by rw [raise_frame]
@[simp] theorem raise_sspares (r : Rec) : (s.raise r).sspares = s.sspares := by rw [raise_frame]
@[simp] theorem raise_ses (r : Rec) : (s.raise r).ses = s.ses := by rw [raise_frame]
@[simp] theorem raise_sync (r : Rec) : (s.raise r).sync = s.sync := by rw [raise_frame]
@[simp] theorem raise_remote (r : Rec) : (s.raise r).remote = s.remote := by rw [raise_frame]
@[simp] theorem raise_mses (r : Rec) : (s.raise r).mses = s.mses := by rw [raise_frame]
@[simp] theorem raise_clusters (r : Rec) : (s.raise r).clusters = s.clusters := by rw [raise_frame]
@[simp] theorem raise_hbm (r : Rec) : (s.raise r).hbm = s.hbm := by rw [raise_frame]
@[simp] theorem raise_hpoison (r : Rec) : (s.raise r).hpoison = s.hpoison := by rw [raise_frame]
@[simp] theorem raise_hfixed (r : Rec) : (s.raise r).hfixed = s.hfixed := by rw [raise_frame]
@[simp] theorem raise_pcs (r : Rec) : (s.raise r).pcs = s.pcs := by rw [raise_frame]
@[simp] theorem raise_hstack (r : Rec) : (s.raise r).hstack = s.hstack := by rw [raise_frame]
@[simp] theorem raise_tlbs (r : Rec) : (s.raise r).tlbs = s.tlbs := by rw [raise_frame]
@[simp] theorem raise_walkers (r : Rec) : (s.raise r).walkers = s.walkers := by rw [raise_frame]
@[simp] theorem raise_net (r : Rec) : (s.raise r).net = s.net := by rw [raise_frame]
@[simp] theorem raise_era (r : Rec) : (s.raise r).era = s.era := by rw [raise_frame]
@[simp] theorem raise_memRegion (r : Rec) : (s.raise r).memRegion = s.memRegion := by rw [raise_frame]
@[simp] theorem raise_memRej (r : Rec) : (s.raise r).memRej = s.memRej := by rw [raise_frame]
@[simp] theorem raise_astBase (r : Rec) : (s.raise r).astBase = s.astBase := by rw [raise_frame]
@[simp] theorem raise_astRej (r : Rec) : (s.raise r).astRej = s.astRej := by rw [raise_frame]
@[simp] theorem raise_sample (r : Rec) : (s.raise r).sample = s.sample := by rw [raise_frame]
@[simp] theorem raise_windows (r : Rec) : (s.raise r).windows = s.windows := by rw [raise_frame]
@[simp] theorem raise_snapshot (r : Rec) : (s.raise r).snapshot = s.snapshot := by rw [raise_frame]
@[simp] theorem raise_snapWin (r : Rec) : (s.raise r).snapWin = s.snapWin := by rw [raise_frame]
@[simp] theorem raise_waits (r : Rec) : (s.raise r).waits = s.waits := by rw [raise_frame]
@[simp] theorem raise_slotWaits (r : Rec) : (s.raise r).slotWaits = s.slotWaits := by rw [raise_frame]
@[simp] theorem raise_resends (r : Rec) : (s.raise r).resends = s.resends := by rw [raise_frame]
@[simp] theorem raise_winResends (r : Rec) : (s.raise r).winResends = s.winResends := by rw [raise_frame]
@[simp] theorem raise_gws (r : Rec) : (s.raise r).gws = s.gws := by rw [raise_frame]
@[simp] theorem raise_dsps (r : Rec) : (s.raise r).dsps = s.dsps := by rw [raise_frame]
@[simp] theorem raise_fclkRej (r : Rec) : (s.raise r).fclkRej = s.fclkRej := by rw [raise_frame]
@[simp] theorem raise_regions (r : Rec) : (s.raise r).regions = s.regions := by rw [raise_frame]
@[simp] theorem raise_bram (r : Rec) : (s.raise r).bram = s.bram := by rw [raise_frame]
@[simp] theorem raise_flops (r : Rec) : (s.raise r).flops = s.flops := by rw [raise_frame]
@[simp] theorem raise_loader (r : Rec) : (s.raise r).loader = s.loader := by rw [raise_frame]
@[simp] theorem raise_health (r : Rec) : (s.raise r).health = s.health := by rw [raise_frame]
@[simp] theorem raise_rst (r : Rec) : (s.raise r).rst = s.rst := by rw [raise_frame]
@[simp] theorem raise_gov (r : Rec) : (s.raise r).gov = s.gov := by rw [raise_frame]
@[simp] theorem raise_sec (r : Rec) : (s.raise r).sec = s.sec := by rw [raise_frame]
@[simp] theorem raise_debug (r : Rec) : (s.raise r).dbg = s.dbg := by rw [raise_frame]
@[simp] theorem raise_fns (r : Rec) : (s.raise r).fns = s.fns := by rw [raise_frame]
@[simp] theorem raise_ports (r : Rec) : (s.raise r).ports = s.ports := by rw [raise_frame]
@[simp] theorem raise_cacheLru (r : Rec) : (s.raise r).cacheLru = s.cacheLru := by rw [raise_frame]
@[simp] theorem raise_mapWaits (r : Rec) : (s.raise r).mapWaits = s.mapWaits := by rw [raise_frame]
@[simp] theorem raise_hostMem (r : Rec) : (s.raise r).hostMem = s.hostMem := by rw [raise_frame]
@[simp] theorem raise_msix (r : Rec) : (s.raise r).msix = s.msix := by rw [raise_frame]
@[simp] theorem raise_devId (r : Rec) : (s.raise r).devId = s.devId := by rw [raise_frame]
@[simp] theorem raise_zegus (r : Rec) : (s.raise r).zegus = s.zegus := by rw [raise_frame]
@[simp] theorem raise_partner (r : Rec) : (s.raise r).partner = s.partner := by rw [raise_frame]
@[simp] theorem complete_pending (h : Issuer) (op st : Nat) (x : BitVec 128) (d : W32) : (s.complete h op st x d).pending = s.pending := by rw [complete_frame]
@[simp] theorem complete_variant (h : Issuer) (op st : Nat) (x : BitVec 128) (d : W32) : (s.complete h op st x d).variant = s.variant := by rw [complete_frame]
@[simp] theorem complete_free (h : Issuer) (op st : Nat) (x : BitVec 128) (d : W32) : (s.complete h op st x d).free = s.free := by rw [complete_frame]
@[simp] theorem complete_ltc (h : Issuer) (op st : Nat) (x : BitVec 128) (d : W32) : (s.complete h op st x d).ltc = s.ltc := by rw [complete_frame]
@[simp] theorem complete_fresh (h : Issuer) (op st : Nat) (x : BitVec 128) (d : W32) : (s.complete h op st x d).fresh = s.fresh := by rw [complete_frame]
@[simp] theorem complete_beats (h : Issuer) (op st : Nat) (x : BitVec 128) (d : W32) : (s.complete h op st x d).beats = s.beats := by rw [complete_frame]
@[simp] theorem complete_ens (h : Issuer) (op st : Nat) (x : BitVec 128) (d : W32) : (s.complete h op st x d).ens = s.ens := by rw [complete_frame]
@[simp] theorem complete_banks (h : Issuer) (op st : Nat) (x : BitVec 128) (d : W32) : (s.complete h op st x d).banks = s.banks := by rw [complete_frame]
@[simp] theorem complete_lastBank (h : Issuer) (op st : Nat) (x : BitVec 128) (d : W32) : (s.complete h op st x d).lastBank = s.lastBank := by rw [complete_frame]
@[simp] theorem complete_tiles (h : Issuer) (op st : Nat) (x : BitVec 128) (d : W32) : (s.complete h op st x d).tiles = s.tiles := by rw [complete_frame]
@[simp] theorem complete_tstore (h : Issuer) (op st : Nat) (x : BitVec 128) (d : W32) : (s.complete h op st x d).tstore = s.tstore := by rw [complete_frame]
@[simp] theorem complete_tpoison (h : Issuer) (op st : Nat) (x : BitVec 128) (d : W32) : (s.complete h op st x d).tpoison = s.tpoison := by rw [complete_frame]
@[simp] theorem complete_tfixed (h : Issuer) (op st : Nat) (x : BitVec 128) (d : W32) : (s.complete h op st x d).tfixed = s.tfixed := by rw [complete_frame]
@[simp] theorem complete_tserv (h : Issuer) (op st : Nat) (x : BitVec 128) (d : W32) : (s.complete h op st x d).tserv = s.tserv := by rw [complete_frame]
@[simp] theorem complete_sserv (h : Issuer) (op st : Nat) (x : BitVec 128) (d : W32) : (s.complete h op st x d).sserv = s.sserv := by rw [complete_frame]
@[simp] theorem complete_tspares (h : Issuer) (op st : Nat) (x : BitVec 128) (d : W32) : (s.complete h op st x d).tspares = s.tspares := by rw [complete_frame]
@[simp] theorem complete_sspares (h : Issuer) (op st : Nat) (x : BitVec 128) (d : W32) : (s.complete h op st x d).sspares = s.sspares := by rw [complete_frame]
@[simp] theorem complete_ses (h : Issuer) (op st : Nat) (x : BitVec 128) (d : W32) : (s.complete h op st x d).ses = s.ses := by rw [complete_frame]
@[simp] theorem complete_sync (h : Issuer) (op st : Nat) (x : BitVec 128) (d : W32) : (s.complete h op st x d).sync = s.sync := by rw [complete_frame]
@[simp] theorem complete_remote (h : Issuer) (op st : Nat) (x : BitVec 128) (d : W32) : (s.complete h op st x d).remote = s.remote := by rw [complete_frame]
@[simp] theorem complete_mses (h : Issuer) (op st : Nat) (x : BitVec 128) (d : W32) : (s.complete h op st x d).mses = s.mses := by rw [complete_frame]
@[simp] theorem complete_clusters (h : Issuer) (op st : Nat) (x : BitVec 128) (d : W32) : (s.complete h op st x d).clusters = s.clusters := by rw [complete_frame]
@[simp] theorem complete_hbm (h : Issuer) (op st : Nat) (x : BitVec 128) (d : W32) : (s.complete h op st x d).hbm = s.hbm := by rw [complete_frame]
@[simp] theorem complete_hpoison (h : Issuer) (op st : Nat) (x : BitVec 128) (d : W32) : (s.complete h op st x d).hpoison = s.hpoison := by rw [complete_frame]
@[simp] theorem complete_hfixed (h : Issuer) (op st : Nat) (x : BitVec 128) (d : W32) : (s.complete h op st x d).hfixed = s.hfixed := by rw [complete_frame]
@[simp] theorem complete_pcs (h : Issuer) (op st : Nat) (x : BitVec 128) (d : W32) : (s.complete h op st x d).pcs = s.pcs := by rw [complete_frame]
@[simp] theorem complete_hstack (h : Issuer) (op st : Nat) (x : BitVec 128) (d : W32) : (s.complete h op st x d).hstack = s.hstack := by rw [complete_frame]
@[simp] theorem complete_tlbs (h : Issuer) (op st : Nat) (x : BitVec 128) (d : W32) : (s.complete h op st x d).tlbs = s.tlbs := by rw [complete_frame]
@[simp] theorem complete_walkers (h : Issuer) (op st : Nat) (x : BitVec 128) (d : W32) : (s.complete h op st x d).walkers = s.walkers := by rw [complete_frame]
@[simp] theorem complete_net (h : Issuer) (op st : Nat) (x : BitVec 128) (d : W32) : (s.complete h op st x d).net = s.net := by rw [complete_frame]
@[simp] theorem complete_era (h : Issuer) (op st : Nat) (x : BitVec 128) (d : W32) : (s.complete h op st x d).era = s.era := by rw [complete_frame]
@[simp] theorem complete_memRegion (h : Issuer) (op st : Nat) (x : BitVec 128) (d : W32) : (s.complete h op st x d).memRegion = s.memRegion := by rw [complete_frame]
@[simp] theorem complete_memRej (h : Issuer) (op st : Nat) (x : BitVec 128) (d : W32) : (s.complete h op st x d).memRej = s.memRej := by rw [complete_frame]
@[simp] theorem complete_astBase (h : Issuer) (op st : Nat) (x : BitVec 128) (d : W32) : (s.complete h op st x d).astBase = s.astBase := by rw [complete_frame]
@[simp] theorem complete_astRej (h : Issuer) (op st : Nat) (x : BitVec 128) (d : W32) : (s.complete h op st x d).astRej = s.astRej := by rw [complete_frame]
@[simp] theorem complete_sample (h : Issuer) (op st : Nat) (x : BitVec 128) (d : W32) : (s.complete h op st x d).sample = s.sample := by rw [complete_frame]
@[simp] theorem complete_windows (h : Issuer) (op st : Nat) (x : BitVec 128) (d : W32) : (s.complete h op st x d).windows = s.windows := by rw [complete_frame]
@[simp] theorem complete_counts (h : Issuer) (op st : Nat) (x : BitVec 128) (d : W32) : (s.complete h op st x d).counts = s.counts := by rw [complete_frame]
@[simp] theorem complete_snapshot (h : Issuer) (op st : Nat) (x : BitVec 128) (d : W32) : (s.complete h op st x d).snapshot = s.snapshot := by rw [complete_frame]
@[simp] theorem complete_snapWin (h : Issuer) (op st : Nat) (x : BitVec 128) (d : W32) : (s.complete h op st x d).snapWin = s.snapWin := by rw [complete_frame]
@[simp] theorem complete_waits (h : Issuer) (op st : Nat) (x : BitVec 128) (d : W32) : (s.complete h op st x d).waits = s.waits := by rw [complete_frame]
@[simp] theorem complete_slotWaits (h : Issuer) (op st : Nat) (x : BitVec 128) (d : W32) : (s.complete h op st x d).slotWaits = s.slotWaits := by rw [complete_frame]
@[simp] theorem complete_resends (h : Issuer) (op st : Nat) (x : BitVec 128) (d : W32) : (s.complete h op st x d).resends = s.resends := by rw [complete_frame]
@[simp] theorem complete_winResends (h : Issuer) (op st : Nat) (x : BitVec 128) (d : W32) : (s.complete h op st x d).winResends = s.winResends := by rw [complete_frame]
@[simp] theorem complete_gws (h : Issuer) (op st : Nat) (x : BitVec 128) (d : W32) : (s.complete h op st x d).gws = s.gws := by rw [complete_frame]
@[simp] theorem complete_dsps (h : Issuer) (op st : Nat) (x : BitVec 128) (d : W32) : (s.complete h op st x d).dsps = s.dsps := by rw [complete_frame]
@[simp] theorem complete_fclkRej (h : Issuer) (op st : Nat) (x : BitVec 128) (d : W32) : (s.complete h op st x d).fclkRej = s.fclkRej := by rw [complete_frame]
@[simp] theorem complete_regions (h : Issuer) (op st : Nat) (x : BitVec 128) (d : W32) : (s.complete h op st x d).regions = s.regions := by rw [complete_frame]
@[simp] theorem complete_bram (h : Issuer) (op st : Nat) (x : BitVec 128) (d : W32) : (s.complete h op st x d).bram = s.bram := by rw [complete_frame]
@[simp] theorem complete_flops (h : Issuer) (op st : Nat) (x : BitVec 128) (d : W32) : (s.complete h op st x d).flops = s.flops := by rw [complete_frame]
@[simp] theorem complete_loader (h : Issuer) (op st : Nat) (x : BitVec 128) (d : W32) : (s.complete h op st x d).loader = s.loader := by rw [complete_frame]
@[simp] theorem complete_health (h : Issuer) (op st : Nat) (x : BitVec 128) (d : W32) : (s.complete h op st x d).health = s.health := by rw [complete_frame]
@[simp] theorem complete_rst (h : Issuer) (op st : Nat) (x : BitVec 128) (d : W32) : (s.complete h op st x d).rst = s.rst := by rw [complete_frame]
@[simp] theorem complete_gov (h : Issuer) (op st : Nat) (x : BitVec 128) (d : W32) : (s.complete h op st x d).gov = s.gov := by rw [complete_frame]
@[simp] theorem complete_pins (h : Issuer) (op st : Nat) (x : BitVec 128) (d : W32) : (s.complete h op st x d).pins = s.pins := by rw [complete_frame]
@[simp] theorem complete_keeper (h : Issuer) (op st : Nat) (x : BitVec 128) (d : W32) : (s.complete h op st x d).keeper = s.keeper := by rw [complete_frame]
@[simp] theorem complete_sec (h : Issuer) (op st : Nat) (x : BitVec 128) (d : W32) : (s.complete h op st x d).sec = s.sec := by rw [complete_frame]
@[simp] theorem complete_debug (h : Issuer) (op st : Nat) (x : BitVec 128) (d : W32) : (s.complete h op st x d).dbg = s.dbg := by rw [complete_frame]
@[simp] theorem complete_fns (h : Issuer) (op st : Nat) (x : BitVec 128) (d : W32) : (s.complete h op st x d).fns = s.fns := by rw [complete_frame]
@[simp] theorem complete_ports (h : Issuer) (op st : Nat) (x : BitVec 128) (d : W32) : (s.complete h op st x d).ports = s.ports := by rw [complete_frame]
@[simp] theorem complete_cacheLru (h : Issuer) (op st : Nat) (x : BitVec 128) (d : W32) : (s.complete h op st x d).cacheLru = s.cacheLru := by rw [complete_frame]
@[simp] theorem complete_mapWaits (h : Issuer) (op st : Nat) (x : BitVec 128) (d : W32) : (s.complete h op st x d).mapWaits = s.mapWaits := by rw [complete_frame]
@[simp] theorem complete_hostMem (h : Issuer) (op st : Nat) (x : BitVec 128) (d : W32) : (s.complete h op st x d).hostMem = s.hostMem := by rw [complete_frame]
@[simp] theorem complete_msix (h : Issuer) (op st : Nat) (x : BitVec 128) (d : W32) : (s.complete h op st x d).msix = s.msix := by rw [complete_frame]
@[simp] theorem complete_devId (h : Issuer) (op st : Nat) (x : BitVec 128) (d : W32) : (s.complete h op st x d).devId = s.devId := by rw [complete_frame]
@[simp] theorem complete_zegus (h : Issuer) (op st : Nat) (x : BitVec 128) (d : W32) : (s.complete h op st x d).zegus = s.zegus := by rw [complete_frame]
@[simp] theorem complete_partner (h : Issuer) (op st : Nat) (x : BitVec 128) (d : W32) : (s.complete h op st x d).partner = s.partner := by rw [complete_frame]
@[simp] theorem begin_pending (h : Issuer) : (s.begin h).pending = s.pending := by rw [begin_frame]
@[simp] theorem begin_variant (h : Issuer) : (s.begin h).variant = s.variant := by rw [begin_frame]
@[simp] theorem begin_free (h : Issuer) : (s.begin h).free = s.free := by rw [begin_frame]
@[simp] theorem begin_ltc (h : Issuer) : (s.begin h).ltc = s.ltc := by rw [begin_frame]
@[simp] theorem begin_fresh (h : Issuer) : (s.begin h).fresh = s.fresh := by rw [begin_frame]
@[simp] theorem begin_beats (h : Issuer) : (s.begin h).beats = s.beats := by rw [begin_frame]
@[simp] theorem begin_ens (h : Issuer) : (s.begin h).ens = s.ens := by rw [begin_frame]
@[simp] theorem begin_banks (h : Issuer) : (s.begin h).banks = s.banks := by rw [begin_frame]
@[simp] theorem begin_lastBank (h : Issuer) : (s.begin h).lastBank = s.lastBank := by rw [begin_frame]
@[simp] theorem begin_tiles (h : Issuer) : (s.begin h).tiles = s.tiles := by rw [begin_frame]
@[simp] theorem begin_tstore (h : Issuer) : (s.begin h).tstore = s.tstore := by rw [begin_frame]
@[simp] theorem begin_tpoison (h : Issuer) : (s.begin h).tpoison = s.tpoison := by rw [begin_frame]
@[simp] theorem begin_tfixed (h : Issuer) : (s.begin h).tfixed = s.tfixed := by rw [begin_frame]
@[simp] theorem begin_tserv (h : Issuer) : (s.begin h).tserv = s.tserv := by rw [begin_frame]
@[simp] theorem begin_sserv (h : Issuer) : (s.begin h).sserv = s.sserv := by rw [begin_frame]
@[simp] theorem begin_tspares (h : Issuer) : (s.begin h).tspares = s.tspares := by rw [begin_frame]
@[simp] theorem begin_sspares (h : Issuer) : (s.begin h).sspares = s.sspares := by rw [begin_frame]
@[simp] theorem begin_ses (h : Issuer) : (s.begin h).ses = s.ses := by rw [begin_frame]
@[simp] theorem begin_sync (h : Issuer) : (s.begin h).sync = s.sync := by rw [begin_frame]
@[simp] theorem begin_remote (h : Issuer) : (s.begin h).remote = s.remote := by rw [begin_frame]
@[simp] theorem begin_mses (h : Issuer) : (s.begin h).mses = s.mses := by rw [begin_frame]
@[simp] theorem begin_clusters (h : Issuer) : (s.begin h).clusters = s.clusters := by rw [begin_frame]
@[simp] theorem begin_hbm (h : Issuer) : (s.begin h).hbm = s.hbm := by rw [begin_frame]
@[simp] theorem begin_hpoison (h : Issuer) : (s.begin h).hpoison = s.hpoison := by rw [begin_frame]
@[simp] theorem begin_hfixed (h : Issuer) : (s.begin h).hfixed = s.hfixed := by rw [begin_frame]
@[simp] theorem begin_pcs (h : Issuer) : (s.begin h).pcs = s.pcs := by rw [begin_frame]
@[simp] theorem begin_hstack (h : Issuer) : (s.begin h).hstack = s.hstack := by rw [begin_frame]
@[simp] theorem begin_tlbs (h : Issuer) : (s.begin h).tlbs = s.tlbs := by rw [begin_frame]
@[simp] theorem begin_walkers (h : Issuer) : (s.begin h).walkers = s.walkers := by rw [begin_frame]
@[simp] theorem begin_net (h : Issuer) : (s.begin h).net = s.net := by rw [begin_frame]
@[simp] theorem begin_era (h : Issuer) : (s.begin h).era = s.era := by rw [begin_frame]
@[simp] theorem begin_memRegion (h : Issuer) : (s.begin h).memRegion = s.memRegion := by rw [begin_frame]
@[simp] theorem begin_memRej (h : Issuer) : (s.begin h).memRej = s.memRej := by rw [begin_frame]
@[simp] theorem begin_astBase (h : Issuer) : (s.begin h).astBase = s.astBase := by rw [begin_frame]
@[simp] theorem begin_astRej (h : Issuer) : (s.begin h).astRej = s.astRej := by rw [begin_frame]
@[simp] theorem begin_sample (h : Issuer) : (s.begin h).sample = s.sample := by rw [begin_frame]
@[simp] theorem begin_windows (h : Issuer) : (s.begin h).windows = s.windows := by rw [begin_frame]
@[simp] theorem begin_counts (h : Issuer) : (s.begin h).counts = s.counts := by rw [begin_frame]
@[simp] theorem begin_snapshot (h : Issuer) : (s.begin h).snapshot = s.snapshot := by rw [begin_frame]
@[simp] theorem begin_snapWin (h : Issuer) : (s.begin h).snapWin = s.snapWin := by rw [begin_frame]
@[simp] theorem begin_waits (h : Issuer) : (s.begin h).waits = s.waits := by rw [begin_frame]
@[simp] theorem begin_slotWaits (h : Issuer) : (s.begin h).slotWaits = s.slotWaits := by rw [begin_frame]
@[simp] theorem begin_resends (h : Issuer) : (s.begin h).resends = s.resends := by rw [begin_frame]
@[simp] theorem begin_winResends (h : Issuer) : (s.begin h).winResends = s.winResends := by rw [begin_frame]
@[simp] theorem begin_gws (h : Issuer) : (s.begin h).gws = s.gws := by rw [begin_frame]
@[simp] theorem begin_dsps (h : Issuer) : (s.begin h).dsps = s.dsps := by rw [begin_frame]
@[simp] theorem begin_fclkRej (h : Issuer) : (s.begin h).fclkRej = s.fclkRej := by rw [begin_frame]
@[simp] theorem begin_regions (h : Issuer) : (s.begin h).regions = s.regions := by rw [begin_frame]
@[simp] theorem begin_bram (h : Issuer) : (s.begin h).bram = s.bram := by rw [begin_frame]
@[simp] theorem begin_flops (h : Issuer) : (s.begin h).flops = s.flops := by rw [begin_frame]
@[simp] theorem begin_loader (h : Issuer) : (s.begin h).loader = s.loader := by rw [begin_frame]
@[simp] theorem begin_health (h : Issuer) : (s.begin h).health = s.health := by rw [begin_frame]
@[simp] theorem begin_rst (h : Issuer) : (s.begin h).rst = s.rst := by rw [begin_frame]
@[simp] theorem begin_gov (h : Issuer) : (s.begin h).gov = s.gov := by rw [begin_frame]
@[simp] theorem begin_pins (h : Issuer) : (s.begin h).pins = s.pins := by rw [begin_frame]
@[simp] theorem begin_keeper (h : Issuer) : (s.begin h).keeper = s.keeper := by rw [begin_frame]
@[simp] theorem begin_sec (h : Issuer) : (s.begin h).sec = s.sec := by rw [begin_frame]
@[simp] theorem begin_debug (h : Issuer) : (s.begin h).dbg = s.dbg := by rw [begin_frame]
@[simp] theorem begin_fns (h : Issuer) : (s.begin h).fns = s.fns := by rw [begin_frame]
@[simp] theorem begin_ports (h : Issuer) : (s.begin h).ports = s.ports := by rw [begin_frame]
@[simp] theorem begin_cacheLru (h : Issuer) : (s.begin h).cacheLru = s.cacheLru := by rw [begin_frame]
@[simp] theorem begin_mapWaits (h : Issuer) : (s.begin h).mapWaits = s.mapWaits := by rw [begin_frame]
@[simp] theorem begin_hostMem (h : Issuer) : (s.begin h).hostMem = s.hostMem := by rw [begin_frame]
@[simp] theorem begin_msix (h : Issuer) : (s.begin h).msix = s.msix := by rw [begin_frame]
@[simp] theorem begin_devId (h : Issuer) : (s.begin h).devId = s.devId := by rw [begin_frame]
@[simp] theorem begin_zegus (h : Issuer) : (s.begin h).zegus = s.zegus := by rw [begin_frame]
@[simp] theorem begin_partner (h : Issuer) : (s.begin h).partner = s.partner := by rw [begin_frame]

/-! ## The groups each of these operations leaves -/

@[simp] theorem raise_en (r : Rec) (k : Nat) : (s.raise r).en k = s.en k := by unfold en; simp
@[simp] theorem raise_bk (r : Rec) (k : Nat) : (s.raise r).bk k = s.bk k := by unfold bk; simp
@[simp] theorem raise_tile (r : Rec) (k : Nat) : (s.raise r).tile k = s.tile k := by unfold tile; simp
@[simp] theorem raise_se (r : Rec) (k : Nat) : (s.raise r).se k = s.se k := by unfold se; simp
@[simp] theorem raise_obj (r : Rec) (k : Nat) : (s.raise r).obj k = s.obj k := by unfold obj; simp
@[simp] theorem raise_mse (r : Rec) (k : Nat) : (s.raise r).mse k = s.mse k := by unfold mse; simp
@[simp] theorem raise_cluster (r : Rec) (k : Nat) : (s.raise r).cluster k = s.cluster k := by unfold cluster; simp
@[simp] theorem raise_stk (r : Rec) (k : Nat) : (s.raise r).stk k = s.stk k := by unfold stk; simp
@[simp] theorem raise_tlb (r : Rec) (k : Nat) : (s.raise r).tlb k = s.tlb k := by unfold tlb; simp
@[simp] theorem raise_gw (r : Rec) (k : Nat) : (s.raise r).gw k = s.gw k := by unfold gw; simp
@[simp] theorem raise_dsp (r : Rec) (k : Nat) : (s.raise r).dsp k = s.dsp k := by unfold dsp; simp
@[simp] theorem raise_region (r : Rec) (k : Nat) : (s.raise r).region k = s.region k := by unfold region; simp
@[simp] theorem raise_hl (r : Rec) (k : Nat) : (s.raise r).hl k = s.hl k := by unfold hl; simp
@[simp] theorem raise_fn (r : Rec) (k : Nat) : (s.raise r).fn k = s.fn k := by unfold fn; simp
@[simp] theorem raise_port (r : Rec) (k : Nat) : (s.raise r).port k = s.port k := by unfold port; simp
@[simp] theorem raise_link (r : Rec) (k : Nat) : (s.raise r).link k = s.link k := by unfold link; simp
@[simp] theorem raise_dom (r : Rec) (k : Nat) : (s.raise r).dom k = s.dom k := by unfold dom; simp
@[simp] theorem raise_pc (r : Rec) (k j : Nat) : (s.raise r).pc k j = s.pc k j := by unfold pc; simp
@[simp] theorem raise_ctx (r : Rec) (k j : Nat) : (s.raise r).ctx k j = s.ctx k j := by unfold ctx; simp
@[simp] theorem raise_job (r : Rec) (k j : Nat) : (s.raise r).job k j = s.job k j := by unfold job; simp
@[simp] theorem complete_en (h : Issuer) (op st : Nat) (x : BitVec 128) (d : W32) (k : Nat) : (s.complete h op st x d).en k = s.en k := by unfold en; simp
@[simp] theorem complete_bk (h : Issuer) (op st : Nat) (x : BitVec 128) (d : W32) (k : Nat) : (s.complete h op st x d).bk k = s.bk k := by unfold bk; simp
@[simp] theorem complete_tile (h : Issuer) (op st : Nat) (x : BitVec 128) (d : W32) (k : Nat) : (s.complete h op st x d).tile k = s.tile k := by unfold tile; simp
@[simp] theorem complete_se (h : Issuer) (op st : Nat) (x : BitVec 128) (d : W32) (k : Nat) : (s.complete h op st x d).se k = s.se k := by unfold se; simp
@[simp] theorem complete_obj (h : Issuer) (op st : Nat) (x : BitVec 128) (d : W32) (k : Nat) : (s.complete h op st x d).obj k = s.obj k := by unfold obj; simp
@[simp] theorem complete_mse (h : Issuer) (op st : Nat) (x : BitVec 128) (d : W32) (k : Nat) : (s.complete h op st x d).mse k = s.mse k := by unfold mse; simp
@[simp] theorem complete_cluster (h : Issuer) (op st : Nat) (x : BitVec 128) (d : W32) (k : Nat) : (s.complete h op st x d).cluster k = s.cluster k := by unfold cluster; simp
@[simp] theorem complete_stk (h : Issuer) (op st : Nat) (x : BitVec 128) (d : W32) (k : Nat) : (s.complete h op st x d).stk k = s.stk k := by unfold stk; simp
@[simp] theorem complete_tlb (h : Issuer) (op st : Nat) (x : BitVec 128) (d : W32) (k : Nat) : (s.complete h op st x d).tlb k = s.tlb k := by unfold tlb; simp
@[simp] theorem complete_count (h : Issuer) (op st : Nat) (x : BitVec 128) (d : W32) (k : Nat) : (s.complete h op st x d).count k = s.count k := by unfold count; simp
@[simp] theorem complete_gw (h : Issuer) (op st : Nat) (x : BitVec 128) (d : W32) (k : Nat) : (s.complete h op st x d).gw k = s.gw k := by unfold gw; simp
@[simp] theorem complete_dsp (h : Issuer) (op st : Nat) (x : BitVec 128) (d : W32) (k : Nat) : (s.complete h op st x d).dsp k = s.dsp k := by unfold dsp; simp
@[simp] theorem complete_region (h : Issuer) (op st : Nat) (x : BitVec 128) (d : W32) (k : Nat) : (s.complete h op st x d).region k = s.region k := by unfold region; simp
@[simp] theorem complete_hl (h : Issuer) (op st : Nat) (x : BitVec 128) (d : W32) (k : Nat) : (s.complete h op st x d).hl k = s.hl k := by unfold hl; simp
@[simp] theorem complete_fn (h : Issuer) (op st : Nat) (x : BitVec 128) (d : W32) (k : Nat) : (s.complete h op st x d).fn k = s.fn k := by unfold fn; simp
@[simp] theorem complete_port (h : Issuer) (op st : Nat) (x : BitVec 128) (d : W32) (k : Nat) : (s.complete h op st x d).port k = s.port k := by unfold port; simp
@[simp] theorem complete_link (h : Issuer) (op st : Nat) (x : BitVec 128) (d : W32) (k : Nat) : (s.complete h op st x d).link k = s.link k := by unfold link; simp
@[simp] theorem complete_dom (h : Issuer) (op st : Nat) (x : BitVec 128) (d : W32) (k : Nat) : (s.complete h op st x d).dom k = s.dom k := by unfold dom; simp
@[simp] theorem complete_pc (h : Issuer) (op st : Nat) (x : BitVec 128) (d : W32) (k j : Nat) : (s.complete h op st x d).pc k j = s.pc k j := by unfold pc; simp
@[simp] theorem complete_ctx (h : Issuer) (op st : Nat) (x : BitVec 128) (d : W32) (k j : Nat) : (s.complete h op st x d).ctx k j = s.ctx k j := by unfold ctx; simp
@[simp] theorem complete_job (h : Issuer) (op st : Nat) (x : BitVec 128) (d : W32) (k j : Nat) : (s.complete h op st x d).job k j = s.job k j := by unfold job; simp
@[simp] theorem begin_en (h : Issuer) (k : Nat) : (s.begin h).en k = s.en k := by unfold en; simp
@[simp] theorem begin_bk (h : Issuer) (k : Nat) : (s.begin h).bk k = s.bk k := by unfold bk; simp
@[simp] theorem begin_tile (h : Issuer) (k : Nat) : (s.begin h).tile k = s.tile k := by unfold tile; simp
@[simp] theorem begin_se (h : Issuer) (k : Nat) : (s.begin h).se k = s.se k := by unfold se; simp
@[simp] theorem begin_obj (h : Issuer) (k : Nat) : (s.begin h).obj k = s.obj k := by unfold obj; simp
@[simp] theorem begin_mse (h : Issuer) (k : Nat) : (s.begin h).mse k = s.mse k := by unfold mse; simp
@[simp] theorem begin_cluster (h : Issuer) (k : Nat) : (s.begin h).cluster k = s.cluster k := by unfold cluster; simp
@[simp] theorem begin_stk (h : Issuer) (k : Nat) : (s.begin h).stk k = s.stk k := by unfold stk; simp
@[simp] theorem begin_tlb (h : Issuer) (k : Nat) : (s.begin h).tlb k = s.tlb k := by unfold tlb; simp
@[simp] theorem begin_count (h : Issuer) (k : Nat) : (s.begin h).count k = s.count k := by unfold count; simp
@[simp] theorem begin_gw (h : Issuer) (k : Nat) : (s.begin h).gw k = s.gw k := by unfold gw; simp
@[simp] theorem begin_dsp (h : Issuer) (k : Nat) : (s.begin h).dsp k = s.dsp k := by unfold dsp; simp
@[simp] theorem begin_region (h : Issuer) (k : Nat) : (s.begin h).region k = s.region k := by unfold region; simp
@[simp] theorem begin_hl (h : Issuer) (k : Nat) : (s.begin h).hl k = s.hl k := by unfold hl; simp
@[simp] theorem begin_fn (h : Issuer) (k : Nat) : (s.begin h).fn k = s.fn k := by unfold fn; simp
@[simp] theorem begin_port (h : Issuer) (k : Nat) : (s.begin h).port k = s.port k := by unfold port; simp
@[simp] theorem begin_link (h : Issuer) (k : Nat) : (s.begin h).link k = s.link k := by unfold link; simp
@[simp] theorem begin_dom (h : Issuer) (k : Nat) : (s.begin h).dom k = s.dom k := by unfold dom; simp
@[simp] theorem begin_pc (h : Issuer) (k j : Nat) : (s.begin h).pc k j = s.pc k j := by unfold pc; simp
@[simp] theorem begin_ctx (h : Issuer) (k j : Nat) : (s.begin h).ctx k j = s.ctx k j := by unfold ctx; simp
@[simp] theorem begin_job (h : Issuer) (k j : Nat) : (s.begin h).job k j = s.job k j := by unfold job; simp

@[simp] theorem begin_compls (h : Issuer) : ((s.begin h).chan h.chan).compls = (s.chan h.chan).compls := by
  simp [begin]
@[simp] theorem begin_disabler (h : Issuer) : ((s.begin h).chan h.chan).disabler = (s.chan h.chan).disabler := by
  simp [begin]
@[simp] theorem begin_inflight (h : Issuer) :
    ((s.begin h).chan h.chan).inflight = (s.chan h.chan).inflight ++ [h.tag] := by simp [begin]
@[simp] theorem begin_entry (h : Issuer) (c : Nat) : ((s.begin h).chan c).entry = (s.chan c).entry := by
  unfold begin; rw [setChan_chan]; split <;> simp_all
theorem begin_chan_ne (h : Issuer) {c : Nat} (hc : c ≠ h.chan) : (s.begin h).chan c = s.chan c := by
  simp [begin, hc]

/-- A command begun, then an effect that leaves the channels, then its completion. -/
theorem begun_answers (h : Issuer) (op st : Nat) (x : BitVec 128) (d : W32) (u : State)
    (hd : (s.chan h.chan).disabler = none) (hu : u.chans = (s.begin h).chans) :
    Answers s (u.complete h op st x d) h op st x d := by
  have e : ∀ c, u.chan c = (s.begin h).chan c := chan_congr hu
  have a := complete_answers u h op st x d (by rw [e]; simpa using hd) (by rw [e]; simp)
  refine ⟨?_, fun c hc => ?_⟩
  · rw [a.1, e]; simp
  · rw [a.2 c hc, e, begin_chan_ne s h hc]

/-! ## Steps -/

theorem barDone_frame (e dyn : Nat) : s.barDone e dyn = { s with ens := (s.barDone e dyn).ens } := by
  unfold barDone
  simp only
  split
  · rfl
  · split <;> rfl

/-- The end of a step: its unit's fired steps lose it, one packet goes to every slot its EMIT names, and its bar counts it. -/
theorem finish_frame (ub : Nat) (f : Fired) :
    s.finish ub f = { s with banks := s.banks.set {} ub { s.bk ub with fired := dropFirst (s.bk ub).fired f },
                             net := s.net ++ s.emission ub (emitOf f.q.word) f.q.ref,
                             ens := (s.finish ub f).ens } := by
  unfold finish
  simp only
  rw [barDone_frame]
  simp only [emitRoutes, emission, routeSlots, setBk_bk_self, emitOf]
  rfl

theorem finish_bk (ub : Nat) (f : Fired) :
    (s.finish ub f).bk ub = { s.bk ub with fired := dropFirst (s.bk ub).fired f } := by
  show Map.get (s.finish ub f).banks {} ub = _
  rw [finish_frame]
  exact Map.get_set_self _ _ _ _

theorem finish_bk_ne {ub vb : Nat} (f : Fired) (h : vb ≠ ub) : (s.finish ub f).bk vb = s.bk vb := by
  show Map.get (s.finish ub f).banks {} vb = _
  rw [finish_frame]
  exact Map.get_set_ne _ _ _ h

theorem onFired_some {ub op : Nat} {f : Fired} (act : State → Fired → State) (h : s.firedStep ub (unacted op) = some f) :
    s.onFired ub op act = .next (act s f) := by
  unfold onFired; rw [h]

end State

end Sys2Proof.Machine
end

