-- ==== Sys2Proof/Laws/Memory.lean ====
section
/-! SUPPORT. The memories: what a byte reads as after each operation that writes memory, that each of them keeps the canonical
form, and which fields translation and the reads and writes over many lines may change. -/

namespace Sys2Proof.Machine

/-! ## The frames of a read and a write -/

theorem Served.refl (s : State) : Served s s := rfl

theorem Served.trans {a b c : State} (h : Served a b) (g : Served b c) : Served a c := by
  unfold Served at *; rw [g, h]

theorem Served.stored {s t : State} (h : Served s t) : Stored s t := by
  unfold Served at h; unfold Stored; rw [h]

theorem Stored.trans {a b c : State} (h : Stored a b) (g : Stored b c) : Stored a c := by
  unfold Stored at *; rw [g, h]

theorem Served.memWf {s t : State} (h : Served s t) (w : s.memWf) : t.memWf := by
  unfold Served at h; rw [h]; exact w

namespace State

variable (s : State)

/-! ## One byte after a write -/

/-- A byte after a write of HBM: the byte written inside the range, the old one outside it. -/
theorem hbmWrite_byte (m o : Nat) (v : List Byte) (n a : Nat) :
    (s.hbmWrite m o v).hbmByte n a =
      if hbmKey m o ≤ hbmKey n a ∧ hbmKey n a < hbmKey m o + v.length then v.getD (hbmKey n a - hbmKey m o) 0 else s.hbmByte n a :=
  Map.get_setAll _ _ _ _ _

/-- A byte after a write of a tile store. -/
theorem tsWrite_byte (t a : Nat) (v : List Byte) (u b : Nat) :
    (s.tsWrite t a v).tsByte u b =
      if tsKey t a ≤ tsKey u b ∧ tsKey u b < tsKey t a + v.length then v.getD (tsKey u b - tsKey t a) 0 else s.tsByte u b :=
  Map.get_setAll _ _ _ _ _

/-- A byte after a write of host memory. -/
theorem hostWrite_byte (q a : Nat) (v : List Byte) (p b : Nat) :
    (s.hostWrite q a v).hostByte p b =
      if hostKey q a ≤ hostKey p b ∧ hostKey p b < hostKey q a + v.length then v.getD (hostKey p b - hostKey q a) 0 else s.hostByte p b :=
  Map.get_setAll _ _ _ _ _

/-! ## The canonical form -/

/-- The canonical form depends on the three memories alone. -/
theorem memWf_of_eq {s t : State} (h : s.memWf) (hh : t.hbm = s.hbm) (ht : t.tstore = s.tstore) (hm : t.hostMem = s.hostMem) :
    t.memWf := by
  unfold memWf at *
  rw [hh, ht, hm]
  exact h

theorem hbmWrite_memWf (m o : Nat) (v : List Byte) (h : s.memWf) : (s.hbmWrite m o v).memWf :=
  ⟨Map.wf_setAll _ _ h.1, h.2⟩

theorem tsWrite_memWf (t a : Nat) (v : List Byte) (h : s.memWf) : (s.tsWrite t a v).memWf :=
  ⟨h.1, Map.wf_setAll _ _ h.2.1, h.2.2⟩

theorem hostWrite_memWf (q a : Nat) (v : List Byte) (h : s.memWf) : (s.hostWrite q a v).memWf :=
  ⟨h.1, h.2.1, Map.wf_setAll _ _ h.2.2⟩

theorem hbmPoison_memWf (m o : Nat) (b : Bool) (h : s.memWf) : (s.hbmPoison m o b).memWf := h

theorem tsPoison_memWf (t a : Nat) (b : Bool) (h : s.memWf) : (s.tsPoison t a b).memWf := h

theorem tsPut_memWf (t a : Nat) (v : List Byte) (b : Bool) (h : s.memWf) : (s.tsPut t a v b).memWf := by
  unfold tsPut
  simp only
  split <;> exact tsWrite_memWf s t a v h

theorem reset_memWf : State.reset.memWf := ⟨rfl, rfl, rfl⟩

/-! ## Free values -/

/-- Drawing free bytes advances the counter of free values, and nothing else. -/
theorem drawBytes_frame (n : Nat) : (s.drawBytes n).1 = { s with free := (s.drawBytes n).1.free } := by
  induction n generalizing s with
  | zero => rfl
  | succ k ih =>
    show (s.draw.1.drawBytes k).1 = { s with free := (s.draw.1.drawBytes k).1.free }
    rw [ih]
    rfl

/-! ## What a request served in place may change -/

theorem tally_served (i n k : Nat) : Served s (s.tally i n k) := rfl
theorem moved_served (m a b : Nat) : Served s (s.moved m a b) := rfl
theorem setPc_served (m p : Nat) (v : Pc) : Served s (s.setPc m p v) := rfl
theorem sendAll_served (l : List Packet) : Served s (s.sendAll l) := rfl

theorem raise_served (r : Rec) : Served s (s.raise r) := by unfold Served; rw [raise_frame]

theorem complete_served (h : Issuer) (op st : Nat) (x : BitVec 128) (d : W32) : Served s (s.complete h op st x d) := by
  unfold Served; rw [complete_frame]

theorem setHealth_served (cls unit : Nat) (st : HealthState) (d : Nat) : Served s (s.setHealth cls unit st d) := by
  unfold setHealth
  split
  · rfl
  · simp only
    split
    · rfl
    · exact Served.trans (b := s.setHl _ _) rfl (raise_served _ _)

theorem awaitTile_served (k : Nat) : Served s (s.awaitTile k) := by
  unfold awaitTile
  simp only
  split
  · rfl
  · split <;> rfl

theorem awaitSe_served (k : Nat) : Served s (s.awaitSe k) := by
  unfold awaitSe
  simp only
  split
  · rfl
  · split <;> rfl

theorem retired_served (cls unit : Nat) : Served s (s.retired cls unit) := by
  unfold retired
  have h := setHealth_served s cls unit .retired 0
  simp only
  split
  · exact h.trans (awaitTile_served _ _)
  · exact (h.trans (setHealth_served _ _ _ _ _)).trans (awaitTile_served _ _)
  · exact (h.trans (setHealth_served _ _ _ _ _)).trans (awaitTile_served _ _)
  · exact h.trans (awaitSe_served _ _)
  · exact h

theorem healthEvent_served (cls unit : Nat) : Served s (s.healthEvent cls unit) := by
  unfold healthEvent
  split
  · rfl
  · simp only
    split
    · exact setHealth_served _ _ _ _ _
    · exact setHealth_served _ _ _ _ _
    · split
      · rfl
      · split
        · exact Served.trans (b := s.setHl _ _) rfl (raise_served _ _)
        · exact Served.trans (b := s.setHl _ _) rfl (retired_served _ _ _)
    · rfl

theorem respond_served (p : MPort) (op seq st : Nat) (l : List Byte) (busy : Bool) : Served s (s.respond p op seq st l busy) := by
  unfold respond setMport inBand
  cases p
  · simp only
    split
    · split <;> rfl
    · rfl
  · simp only
    split
    · next g => simp at g
    · rfl

theorem answerReset_served (w : BlockWait) (st d : Nat) : Served s (s.answerReset w st d) := by
  unfold answerReset
  cases w.issuer with
  | none =>
    cases w.port with
    | none => rfl
    | some q => exact respond_served _ _ _ _ _ _ _
  | some h =>
    cases w.port with
    | none => exact complete_served _ _ _ _ _ _
    | some q => exact (complete_served _ _ _ _ _ _).trans (respond_served _ _ _ _ _ _ _)

theorem supersede_served (cls i : Nat) : Served s (s.supersede cls i) := by
  have key : ∀ (r : ResetCtl) (w : BlockWait), Served s (({ s with rst := r } : State).answerReset w stSuperseded 0) :=
    fun r w => Served.trans (b := { s with rst := r }) rfl (answerReset_served _ w stSuperseded 0)
  unfold supersede
  simp only
  split
  · rfl
  · exact key _ _

/-- A freeze changes the pseudo-channel, sends its answers, and records and counts the event. -/
theorem freeze_served (m p c o : Nat) (syn : W64) (cmd : Option SnapRec) : Served s (s.freeze m p c o syn cmd) := by
  have key : ∀ u, Served s u → ∀ r r' : Rec, Served s
      (if c = 4 then u.raise r' else ((u.raise r).healthEvent 6 (64 * m + p)).supersede 2 (64 * m + p)) := by
    intro u h r r'
    split
    · exact h.trans (raise_served _ _)
    · exact ((h.trans (raise_served _ _)).trans (healthEvent_served _ _ _)).trans (supersede_served _ _ _)
  unfold freeze
  simp only
  refine key _ ?_ _ _
  exact (setPc_served s m p _).trans (sendAll_served _ _)

theorem hbmCorrected_served (m p o : Nat) : Served s (s.hbmCorrected m p o) := by
  have key : ∀ u, Served s u → ∀ r : Rec, ∀ hit : Bool,
      Served s (if hit = true then (u.raise r).healthEvent 6 (64 * m + p) else u.raise r) := by
    intro u h r hit
    split
    · exact (h.trans (raise_served _ _)).trans (healthEvent_served _ _ _)
    · exact h.trans (raise_served _ _)
  unfold hbmCorrected
  simp only
  split
  · rfl
  · exact key _ (Served.trans (b := { s with hfixed := addIdx s.hfixed (hbmLine m o) }) rfl (setPc_served _ _ _ _)) _ _

theorem readCheck_served (m p o : Nat) (e : Ecc) (c : Option SnapRec) : Served s (s.readCheck m p o e c).1 := by
  unfold readCheck
  split
  · rfl
  · split
    · rfl
    · exact hbmCorrected_served s m p o
    · exact freeze_served s m p 1 o _ c

/-- The check of lines read changes what a freeze or a correction changes. -/
theorem readChecks_served (m p : Nat) (l : List Nat) (e : Ecc) (c : Option SnapRec) : Served s (s.readChecks m p l e c).1 := by
  induction l generalizing s e with
  | nil => rfl
  | cons o r ih =>
    unfold readChecks
    have h := readCheck_served s m p o e c
    split
    · next u g => rw [g] at h; exact h.trans (ih _ _)
    · next g => exact h

theorem throttle_served (m p b r : Nat) (i : BitVec 12) : Served s (s.throttle m p b r i) := by
  unfold throttle
  exact Served.trans (b := s.setPc _ _ _) rfl (raise_served _ _)

theorem activate_served (m p b r : Nat) (i : BitVec 12) : Served s (s.activate m p b r i) := by
  unfold activate
  simp only
  split
  · exact Served.trans (b := s.setPc _ _ _) rfl (throttle_served _ _ _ _ _ _)
  · rfl

theorem access_served (m p b r : Nat) (i : BitVec 12) : Served s (s.access m p b r i) := by
  unfold access
  simp only
  split
  · exact setPc_served _ _ _ _
  · exact (activate_served _ _ _ _ _ _).trans (setPc_served _ _ _ _)

theorem reach_served (i m o n : Nat) : Served s (s.reach i m o n) := by
  unfold reach
  exact (access_served _ _ _ _ _ _).trans (tally_served _ _ _ _)

theorem hbmFetch_served (i m o n : Nat) : Served s (s.hbmFetch i m o n).1 := by
  unfold hbmFetch
  have h := ((reach_served s i m o n).trans (moved_served _ m n 0)).trans (readChecks_served _ m
    (State.servingPc ((s.reach i m o n).moved m n 0) m o) (linesOf o n) .clean (some (snapAt i o .read)))
  simp only
  split
  · next u g => rw [g] at h; exact h
  · next u g => rw [g] at h; exact h

theorem hostFetch_served (i q a n : Nat) : Served s (s.hostFetch i q a n).1 := by
  unfold hostFetch
  simp only
  split
  · rfl
  · split <;> rfl

/-! ## Translation -/

theorem lookup_served (r asid va : Nat) : Served s (s.lookup r asid va).1 := by
  unfold lookup
  simp only
  split <;> rfl

theorem readEntry_served (w a : Nat) : Served s (s.readEntry w a).1 := by
  unfold readEntry
  cases s.place a with
  | none => rfl
  | some x =>
    obtain ⟨m, o⟩ := x
    have h := hbmFetch_served s (0x350 + w) m o 8
    simp only
    split
    · split
      · next g => rw [g] at h; exact h
      · next g => rw [g] at h; exact h
      · next g => rw [g] at h; exact h
    · rfl

theorem walkFrom_served (w asid va : Nat) (level : Nat) : ∀ (s : State) (table : Nat), Served s (s.walkFrom w asid va level table).1 := by
  induction level with
  | zero =>
    intro s table
    unfold walkFrom
    have h := readEntry_served s w (table + 8 * walkIndex 0 va)
    split
    · next g => rw [g] at h; exact h
    · next g => rw [g] at h; exact h
    · next g =>
      rw [g] at h
      split
      · exact h
      · split <;> exact h
  | succ l ih =>
    intro s table
    unfold walkFrom
    simp only
    split
    · exact Served.trans (b := s.setWalkCache w _) rfl (ih _ _)
    · have h := readEntry_served s w (table + 8 * walkIndex (l + 1) va)
      split
      · next g => rw [g] at h; exact h
      · next g => rw [g] at h; exact h
      · next g =>
        rw [g] at h
        split
        · exact h
        · split
          · split <;> exact h
          · split
            · exact (h.trans (by rfl)).trans (ih _ _)
            · exact h

theorem walk_served (w asid va : Nat) : Served s (s.walk w asid va).1 := by
  unfold walk
  split
  · rfl
  · have h := readEntry_served s w (2 ^ 14 * s.astBase + 16 * asid)
    split
    · next g => rw [g] at h; exact h
    · next g => rw [g] at h; exact h
    · next g =>
      rw [g] at h
      split
      · exact h.trans (walkFrom_served _ _ _ _ _ _)
      · exact h

theorem walkFor_served (r asid va : Nat) : Served s (s.walkFor r asid va).1 := by
  unfold walkFor
  have h := walk_served s (walkerOf r) asid va
  split
  · next g => rw [g] at h; exact h.trans rfl
  · exact h

/-- Translation changes the caches, and what the reads of its walk may change. -/
theorem translate_served (r asid va : Nat) : Served s (s.translate r asid va).1 := by
  have h := lookup_served s r asid va
  unfold translate
  split
  · rfl
  · split
    · next g => rw [g] at h; exact h
    · next g => rw [g] at h; exact h.trans (walkFor_served _ _ _ _)

theorem locate_served (r asid va : Nat) (w : Bool) : Served s (s.locate r asid va w).1 := by
  have h := translate_served s r asid va
  unfold locate
  split
  · next g => rw [g] at h; exact h
  · next g => rw [g] at h; exact h
  · next g => rw [g] at h; exact h

/-! ## Reads -/

/-- A read of one place. -/
theorem readPlace_served (i : Nat) (p : Place) (n va : Nat) : Served s (s.readPlace i p n va).1 := by
  unfold readPlace
  split
  · next m o =>
    split
    · have h := hbmFetch_served s i m o n
      split
      · next g => rw [g] at h; exact h
      · next g => rw [g] at h; exact h
    · rfl
    · rfl
  · next q a =>
    have h := hostFetch_served s i q a n
    split
    · next g => rw [g] at h; exact h
    · next g => rw [g] at h; exact h
  · split
    · unfold Served; simp only; rw [drawBytes_frame]; rfl
    · rfl
  · rfl

/-- A read of a virtual address range. -/
theorem readVa_served (r i asid k : Nat) : ∀ (s : State) (va n : Nat), Served s (s.readVa r i asid k va n).1 := by
  induction k with
  | zero => intro s va n; rfl
  | succ k ih =>
    intro s va n
    unfold readVa
    split
    · rfl
    · have h := locate_served s r asid va false
      simp only
      split
      · next g => rw [g] at h; exact h
      · next u p g =>
        rw [g] at h
        have f := readPlace_served u i p (blockRun va n) va
        split
        · next w l b e =>
          rw [e] at f
          have k := ih w (va + blockRun va n) (n - blockRun va n)
          split
          · next e2 => rw [e2] at k; exact (h.trans f).trans k
          · exact (h.trans f).trans k
        · exact h.trans f

/-- A read at a device address. -/
theorem readDev_served (i k : Nat) : ∀ (s : State) (a n : Nat), Served s (s.readDev i k a n).1 := by
  induction k with
  | zero => intro s a n; rfl
  | succ k ih =>
    intro s a n
    unfold readDev
    split
    · rfl
    · have f := readPlace_served s i (s.devPlace a) (blockRun a n) a
      simp only
      split
      · next w l b e =>
        rw [e] at f
        have k := ih w (a + blockRun a n) (n - blockRun a n)
        split
        · next e2 => rw [e2] at k; exact f.trans k
        · exact f.trans k
      · exact f

/-! ## Writes -/

theorem mirrorLine_frame (m o : Nat) : s.mirrorLine m o = { s with partner := (s.mirrorLine m o).partner } := by
  unfold mirrorLine
  split
  · simp only; split <;> rfl
  · rfl

/-- A line stored changes that memory, its corrections, errors and poison, and what is to be mirrored. -/
theorem storeLine_stored (m o : Nat) (v : List Byte) (b : Bool) : Stored s (s.storeLine m o v b) := by
  unfold storeLine Stored
  simp only
  rw [mirrorLine_frame]
  split
  · rfl
  · split <;> rfl

theorem storeLine_hbm (m o : Nat) (v : List Byte) (b : Bool) : (s.storeLine m o v b).hbm = (s.hbmWrite m o v).hbm := by
  unfold storeLine
  simp only
  rw [mirrorLine_frame]
  split
  · rfl
  · split <;> rfl

theorem storeLine_memWf (m o : Nat) (v : List Byte) (b : Bool) (h : s.memWf) : (s.storeLine m o v b).memWf := by
  have w := hbmWrite_memWf s m o v h
  have f : (s.storeLine m o v b).tstore = s.tstore ∧ (s.storeLine m o v b).hostMem = s.hostMem := by
    unfold storeLine
    simp only
    rw [mirrorLine_frame]
    split
    · exact ⟨rfl, rfl⟩
    · split <;> exact ⟨rfl, rfl⟩
  refine ⟨?_, ?_, ?_⟩
  · rw [storeLine_hbm]; exact w.1
  · rw [f.1]; exact h.2.1
  · rw [f.2]; exact h.2.2

theorem storeLines_stored (k : Nat) : ∀ (s : State) (m o : Nat) (v : List Byte) (b : Bool), Stored s (s.storeLines k m o v b) := by
  induction k with
  | zero => intro s m o v b; cases v <;> rfl
  | succ k ih =>
    intro s m o v b
    cases v with
    | nil => rfl
    | cons x r =>
      unfold storeLines
      exact (storeLine_stored _ _ _ _ _).trans (ih _ _ _ _ _)

theorem storeLines_memWf (k : Nat) : ∀ (s : State) (m o : Nat) (v : List Byte) (b : Bool), s.memWf → (s.storeLines k m o v b).memWf := by
  induction k with
  | zero => intro s m o v b h; cases v <;> exact h
  | succ k ih =>
    intro s m o v b h
    cases v with
    | nil => exact h
    | cons x r =>
      unfold storeLines
      exact ih _ _ _ _ _ (storeLine_memWf _ _ _ _ _ h)

theorem noteWrite_served (m p : Nat) (c : SnapRec) : Served s (s.noteWrite m p c) := rfl

/-- A write of HBM: the reads of the lines it covers in part, then the bytes. -/
theorem hbmStore_stored (i m o : Nat) (v : List Byte) (b : Bool) : Stored s (s.hbmStore i m o v b).1 := by
  unfold hbmStore
  simp only
  have h := (reach_served s i m o v.length).trans (readChecks_served _ m (State.servingPc s m o) (partLines o v.length) .clean
    (some (snapAt i o .write)))
  split
  · next g =>
    rw [g] at h
    exact (((h.trans (noteWrite_served _ _ _ _)).trans (moved_served _ _ _ _)).stored).trans (storeLines_stored _ _ _ _ _ _)
  · next g => exact h.stored

theorem hbmStore_memWf (i m o : Nat) (v : List Byte) (b : Bool) (w : s.memWf) : (s.hbmStore i m o v b).1.memWf := by
  unfold hbmStore
  simp only
  have h := (reach_served s i m o v.length).trans (readChecks_served _ m (State.servingPc s m o) (partLines o v.length) .clean
    (some (snapAt i o .write)))
  split
  · next g =>
    rw [g] at h
    exact storeLines_memWf _ _ _ _ _ _ (((h.trans (noteWrite_served _ _ _ _)).trans (moved_served _ _ _ _)).memWf w)
  · next g => exact h.memWf w

/-- A write of one place. -/
theorem writePlace_stored (i : Nat) (p : Place) (v : List Byte) (b : Bool) (va : Nat) : Stored s (s.writePlace i p v b va).1 := by
  unfold writePlace
  split
  · next m o =>
    split
    · have h := hbmStore_stored s i m o v b
      split
      · next g => rw [g] at h; exact h
      · next g => rw [g] at h; exact h
    · rfl
    · rfl
  · split
    · simp only
      split
      · unfold Stored; rw [drawBytes_frame]; rfl
      · rfl
    · rfl
  · split <;> rfl
  · rfl

theorem writePlace_memWf (i : Nat) (p : Place) (v : List Byte) (b : Bool) (va : Nat) (w : s.memWf) :
    (s.writePlace i p v b va).1.memWf := by
  unfold writePlace
  split
  · next m o =>
    split
    · have h := hbmStore_memWf s i m o v b w
      split
      · next g => rw [g] at h; exact h
      · next g => rw [g] at h; exact h
    · exact w
    · exact w
  · split
    · simp only
      split
      · refine hostWrite_memWf _ _ _ _ ?_
        rw [drawBytes_frame]
        exact w
      · exact hostWrite_memWf _ _ _ _ w
    · exact w
  · split <;> exact w
  · exact w

theorem writeDev_memWf (i k : Nat) : ∀ (s : State) (a : Nat) (v : List Byte), s.memWf → (s.writeDev i k a v).1.memWf := by
  induction k with
  | zero => intro s a v h; exact h
  | succ k ih =>
    intro s a v h
    unfold writeDev
    split
    · exact h
    · have g := writePlace_memWf s i (s.devPlace a) (v.take (blockRun a v.length)) false a h
      simp only
      split
      · next e => rw [e] at g; exact ih _ _ _ g
      · exact g

theorem writeVa_memWf (r asid k : Nat) : ∀ (s : State) (va : Nat) (v : List Byte) (b : Bool), s.memWf →
    (s.writeVa r asid k va v b).1.memWf := by
  induction k with
  | zero => intro s va v b h; exact h
  | succ k ih =>
    intro s va v b h
    unfold writeVa
    split
    · exact h
    · have f := locate_served s r asid va true
      simp only
      split
      · next e => rw [e] at f; exact f.memWf h
      · next u p e =>
        rw [e] at f
        have g := writePlace_memWf u r p (v.take (blockRun va v.length)) b va (f.memWf h)
        split
        · next e2 => rw [e2] at g; exact ih _ _ _ _ g
        · exact g

end State

end Sys2Proof.Machine
end

