-- ==== Sys2Proof/Machine/Lands.lean ====
section
/-! DEFINITION. The lands of the package (R523–R529) and the ranges of the rails (R530, R531): which signal or supply each
land carries, and what a supply in range is. No command names a land: the commands of the pins name what the pins do. -/

namespace Sys2Proof.Machine

/-- The supplies that have lands (R530). -/
inductive Rail where
  | vinCore | vmCore | vmIo | vpp | vl | vlIo | vh | vk | vio (bank : Nat) | vbat
deriving DecidableEq, Repr

/-- The signals of the north-west corner (R525). -/
inductive CtlPin where
  | refclkP | refclkN | pwrOk | sysRstN | perstAN | perstBN | done | cfgErrN | tamperN | i3cScl | i3cSda | cspClk | cspCsN
  | cspD (k : Nat) | tck | tms | tdi | tdo | trstN | ptnHbOut | ptnHbIn | alertN | hotN | thermTripN
deriving DecidableEq, Repr

/-- The high-speed ports: a link die, a PCI Express port (0 A, 1 B), the partner link. -/
inductive LaneOf where
  | link (n : Nat) | pcie (p : Nat) | partner
deriving DecidableEq, Repr

/-- What a land carries. -/
inductive Land where
  | rail (r : Rail)
  | gnd
  | rsvd
  | lane (port : LaneOf) (k : Nat) (rx neg : Bool)
  | io (bank pair : Nat) (neg : Bool)
  | ctl (p : CtlPin)
  | sense (r : Rail) (neg : Bool)
deriving DecidableEq, Repr

/-- The letters of rows: A–H, J–N, P, T–W and Y (R523). -/
def rowLetters : List Char :=
  ['A', 'B', 'C', 'D', 'E', 'F', 'G', 'H', 'J', 'K', 'L', 'M', 'N', 'P', 'T', 'U', 'V', 'W', 'Y']

/-- The name of row `r`, 1 to 144 (R523). -/
def rowName (r : Nat) : List Char :=
  if r ≤ 19 then [nth rowLetters (r - 1) 'A']
  else [nth rowLetters ((r - 20) / 19) 'A', nth rowLetters ((r - 20) % 19) 'A']

/-- The place in a group list: entry `i` of groups given by their sizes, and GND beyond them. -/
def pick (gs : List (Nat × Land)) (i : Nat) : Land :=
  match gs with
  | [] => .gnd
  | (n, l) :: rest => if i < n then l else pick rest (i - n)

/-- The lands of lane group `i`: TX_P, TX_N, RX_P, RX_N of one lane after another, from lane `k0` on. -/
def laneLand (p : LaneOf) (k0 i : Nat) : Land := .lane p (k0 + i / 4) (2 ≤ i % 4) (i % 2 = 1)

/-- Land `i` of link die `n`'s block. -/
def linkLand (n i : Nat) : Land :=
  if i < 72 then laneLand (.link n) 0 i else pick [(28, .rail .vl), (4, .rail .vlIo)] (i - 72)

/-- Land `i` of host die `h`'s port block, and of its partner block. -/
def hostPortLand (h i : Nat) : Land := if i < 64 then laneLand (.pcie h) 0 i else pick [(32, .rail .vh)] (i - 64)
def hostPartnerLand (h i : Nat) : Land := if i < 32 then laneLand .partner (8 * h) i else pick [(32, .rail .vh)] (i - 32)

/-- Land `i` of the block of stack `b` and its bank. -/
def stackLand (b i : Nat) : Land :=
  if i < 32 then .io b (i / 2) (i % 2 = 1)
  else pick [(4, .rail (.vio b)), (40, .rail .vmCore), (12, .rail .vmIo), (4, .rail .vpp)] (i - 32)

/-- The signals of the north-west corner, in fill order. -/
def ctlLands : List Land :=
  [.ctl .refclkP, .ctl .refclkN, .ctl .pwrOk, .ctl .sysRstN, .ctl .perstAN, .ctl .perstBN, .ctl .done, .ctl .cfgErrN,
   .ctl .tamperN, .rail .vbat, .ctl .i3cScl, .ctl .i3cSda, .ctl .cspClk, .ctl .cspCsN]
  ++ [.ctl (.cspD 0), .ctl (.cspD 1), .ctl (.cspD 2), .ctl (.cspD 3), .ctl .tck, .ctl .tms, .ctl .tdi, .ctl .tdo, .ctl .trstN,
   .ctl .ptnHbOut, .ctl .ptnHbIn, .ctl .alertN, .ctl .hotN, .ctl .thermTripN]
  ++ [.vinCore, .vmCore, .vmIo, .vl, .vh, .vk].flatMap (fun r => [.sense r false, .sense r true])

/-- Land `i` of the north-west corner. -/
def keeperLand (i : Nat) : Land :=
  if i < 40 then nth ctlLands i .gnd else pick [(16, .rail .vk)] (i - 40)

/-- Land `i` of strip `k` of the west (`e = 0`) or the east (R524). -/
def stripLand (e k i : Nat) : Land :=
  if k = 4 then hostPortLand e i
  else if k = 5 then hostPartnerLand e i
  else linkLand (8 * e + if k < 4 then k else k - 2) i

/-- What the land in a row and a column carries, both 1 to 144 (R524–R526). -/
def land (row col : Nat) : Land :=
  let line (x : Nat) : Nat := min (x - 1) (144 - x)
  let inner (x : Nat) : Bool := 13 ≤ x && x ≤ 132
  if inner row && inner col then
    let hit (x : Nat) : Bool := (x - 13) % 5 = 0 || (x - 13) % 5 = 2
    if hit row && hit col then .rail .vinCore else .gnd
  else if inner row then stripLand (flag (132 < col)) ((row - 13) / 12) (12 * line col + (row - 13) % 12)
  else if inner col then stackLand (6 * flag (132 < row) + (col - 13) / 20) (20 * line row + (col - 13) % 20)
  else if 132 < row then .gnd
  else if col ≤ 12 then keeperLand (12 * (row - 1) + (col - 1))
  else pick [(32, .rsvd)] (12 * (row - 1) + (144 - col))

/-- Whether a land is connected inside the package of a variant (R528). -/
def State.landConnected (s : State) (row col : Nat) : Bool :=
  match land row col with
  | .lane (.link n) _ _ _ => s.linkOn n
  | .rail .vl | .rail .vlIo =>
    s.linkOn (8 * flag (132 < col) + (let k := (row - 13) / 12
                                     if k < 4 then k else k - 2))
  | .rail .vmCore | .rail .vmIo | .rail .vpp => s.stackOn (6 * flag (132 < row) + (col - 13) / 20)
  | _ => true

/-! ## Rails (R530, R531) -/

/-- The recommended range of a rail and its absolute maximum, in mV; `nominal` is what the static image declares of a bank. -/
def railRange (nominal : Nat) (r : Rail) : Nat × Nat × Nat :=
  match r with
  | .vinCore => (1746, 1854, 2100)
  | .vmCore => (922, 978, 1100)
  | .vmIo => (679, 721, 850)
  | .vpp => (1710, 1890, 2100)
  | .vl | .vh => (776, 824, 950)
  | .vlIo => (1164, 1236, 1400)
  | .vk => (808, 893, 1000)
  | .vio _ => ((95 * nominal + 99) / 100, 105 * nominal / 100, 2100)
  | .vbat => (1200, 3600, 4000)

/-- Whether a rail is in range (R530). -/
def railOk (nominal : Nat) (r : Rail) (mv : Nat) : Bool :=
  (railRange nominal r).1 ≤ mv && mv ≤ (railRange nominal r).2.1

/-- Whether power-on reset is in force for the keeper's supply, given whether it was: it begins below 0.780 V and ends above
0.790 V (R531). -/
def vkReset (was : Bool) (mv : Nat) : Bool := mv < 780 || (was && mv ≤ 790)

end Sys2Proof.Machine
end

