-- ==== Sys2Proof/Tests/Slice0.lean ====
section
/-! SUPPORT. Tests of this model: for each statement a state and operands that meet its hypotheses, the terms that
WellFormed refuses, and single steps whose results the spec gives. Expected results come from the rule each comment
names. -/

namespace Sys2Proof.Tests

open Sys2Proof Sys2Proof.Machine

set_option Elab.async false

/-! ## Small states -/

/-- The part with no reset in force. -/
def live : State := { State.reset with rst := {} }

/-- The part with port A's link up. -/
def linked : State := live.setPort 0 { up := true }

/-- The root PLL is in lock in the states built on these (R398): no witness below changes `rst` but where it says so. -/
theorem witness_locked : live.rst.pllLost = false ∧ linked.rst.pllLost = false ∧ live.watched = true ∧ live.portsUp = true := by
  decide +kernel

/-- A command of channel 1. -/
def h0 : Issuer := ⟨1, 7, false, false, true⟩

/-- Ensemble 1 with tile 0, stream engine 0 and memory-side engine 0, in a state. -/
def ensIn (st : EnsState) : State := linked.setEn 1 { st := st, members := BitVec.ofNat 1024 (1 + 2 ^ 512 + 2 ^ 768), length := 4096, entry := 64, next := 64, routesRead := true }

/-- That ensemble RUNNING. -/
def run1 : State := ensIn .running

/-- A step word of an opcode with operands. -/
def stepWord (op ops : Nat) : W128 := BitVec.ofNat 128 (op * 2 ^ 120 + ops)

/-- A fired step of ensemble 1. -/
def firedWord (w : W128) : Fired := { q := { word := w, ens := 1, dyn := 0, bar := 0, slot := 0, replayable := false } }

/-- Ensemble 1 RUNNING, with a step fired at a unit. -/
def firedAt (ub op ops : Nat) : State := run1.setBk ub { fired := [firedWord (stepWord op ops)] }

/-- A clean read whose outcome passes a test, as an existence statement. -/
theorem read_exists (x : State × Got) (f : State → List Byte → Bool)
    (h : (match x with | (u, .bytes l false) => f u l | _ => false) = true) :
    ∃ u l, x = (u, .bytes l false) ∧ f u l = true := by
  match x, h with
  | (u, .bytes l false), h => exact ⟨u, l, rfl, h⟩

/-- A leaf entry: a readable and writable page of port A's host memory from address 0 on (R179). -/
def hostPage : TlbEntry := ⟨0, false, 0, 30⟩

/-- A state whose requester `r` holds the translation of page 0 of address space 0 to host memory. -/
def withPage (r : Nat) (s : State) : State := s.setTlb r [hostPage]

/-- Bytes of a prologue of ensemble 1 with tile 0, entry 64, length 4,096 and the route section at 1,024; CHECK by a CRC-32C
computed outside the model. -/
def prologueBytes : List (Nat × Nat) :=
  [(0, 0x61), (1, 0x2E), (2, 0xC0), (3, 0xA8), (4, 1), (6, 1), (0x10, 64), (0x19, 4), (0x21, 16), (0x40, 1),
   (0xFFC, 0x69), (0xFFD, 0x3B), (0xFFE, 0x40), (0xFFF, 0xF9)]

/-- Host memory of port A with bytes given. -/
def hostBytes (l : List (Nat × Nat)) (s : State) : State :=
  { s with hostMem := l.map (fun p => (p.1, BitVec.ofNat 8 p.2)) }

/-! ## Witnesses: the machine as a whole, choreographies, units -/

theorem witness_MemoriesStayCanonical : live.memWf ∧ ∃ t, step live = .next t := ⟨by unfold State.memWf; decide +kernel, _, rfl⟩
theorem witness_FusesOnlyGoFromZeroToOne : ∃ t, step live = .next t := ⟨_, rfl⟩

theorem witness_EnsemblesRunAndEnd_start : (ensIn .loaded).mayBegin h0 = true ∧ ((ensIn .loaded).begin h0).mayCommand h0 1 = true
    ∧ (((ensIn .loaded).begin h0).en 1).st = .loaded := by decide +kernel
theorem witness_EnsemblesRunAndEnd_stop : (ensIn .done).accepts h0 ∧ ((ensIn .done).begin h0).mayCommand h0 1 = true
    ∧ (ensIn .done).partner.waitStand = none ∧ ((ensIn .done).en 1).st = .done := by unfold State.accepts; decide +kernel
theorem witness_EnsemblesRunAndEnd_cancel : run1.accepts h0 ∧ (run1.begin h0).mayCommand h0 1 = true
    ∧ (run1.en 1).st = .running := by unfold State.accepts; decide +kernel
theorem witness_EnsemblesRunAndEnd_end : ∃ s : State, (s.en 1).stopping = true ∧ (s.en 1).ubs.all s.unitIdle = true :=
  ⟨run1.setEn 1 { run1.en 1 with stopping := true }, by decide +kernel⟩
theorem witness_EnsemblesRunAndEnd_done : ∃ s : State, (s.en 1).st = .running ∧ (s.en 1).stopping = false
    ∧ (s.en 1).atEnd = true ∧ (s.en 1).live = [] ∧ (s.en 1).markAt = none ∧ (s.en 1).absentSeen = false :=
  ⟨run1.setEn 1 { run1.en 1 with atEnd := true }, by decide +kernel⟩

/-- Host memory with the prologue at 0, readable by port A's host commands. -/
def withPrologue : State := hostBytes prologueBytes (withPage 0x370 linked)

/-- The CRC-32C of a string with its value forced byte by byte, so that the kernel can compute it. -/
def crcForced (l : List Byte) (c : Nat) : Nat :=
  match l with
  | [] => c
  | b :: r => Nat.rec (crcForced r 0) (fun k _ => crcForced r (k + 1)) (crcByte c b.toNat)

theorem crcForced_eq (l : List Byte) (c : Nat) : l.foldl (fun c b => crcByte c b.toNat) c = crcForced l c := by
  induction l generalizing c with
  | nil => rfl
  | cons b l ih =>
    rw [List.foldl_cons, ih]
    show _ = Nat.rec (motive := fun _ => Nat) (crcForced l 0) (fun k _ => crcForced l (k + 1)) (crcByte c b.toNat)
    generalize crcByte c b.toNat = n
    cases n <;> rfl

/-- Check 3 of R30 with the CRC forced. -/
def prologueForced (p : List Byte) : Bool :=
  field p 0xFFC 4 == (crcForced (overlay p 0xFFC (zeros 4)) 0xFFFFFFFF ^^^ 0xFFFFFFFF)
    && field p 0 4 == 0xA8C02E61 && field p 4 2 == 1 && field p 6 1 < 8
    && !bit (field p 8 1) 3 && field p 9 1 == 0 && field p 0xA 2 == 0 && zeroAt p 0xC 4 && zeroAt p 0x28 24
    && zeroAt p 0xC0 3900 && bits (field p 0x40 128) 780 244 == 0

theorem prologueForced_eq (p : List Byte) : prologueOk p 0 = prologueForced p := by
  unfold prologueOk prologueForced checkOk crc32c; rw [crcForced_eq]

/-- Checks 4 to 7 of R30 as a program can run them. -/
def prologueRest (u : State) (p : List Byte) : Bool :=
  (u.en (field p 6 1)).st == .idle && !u.isVf 1
    && !(onesOf (field p 0x40 128) 780).any (fun k => !(u.unitOn k && u.unitServed k))
    && !(List.range 8).any (fun d => d != field p 6 1 && (u.en d).st != .idle && (u.en d).bank == u.loadBank (field p 6 1)
      && (onesOf (field p 0x40 128) 780).any (fun k => (u.en d).has k))
    && (u.chan 1).disabler == none && (u.chan 1).inflight.contains 7

theorem prologueFault_none (u : State) (p : List Byte) (ok : prologueForced p = true) (rest : prologueRest u p = true) :
    (u.chan 1).disabler = none ∧ (u.chan 1).inflight.contains 7 = true ∧ u.prologueFault h0 p 0 = none := by
  rw [← prologueForced_eq] at ok
  unfold prologueRest at rest
  rw [Bool.and_eq_true, Bool.and_eq_true, Bool.and_eq_true, Bool.and_eq_true, Bool.and_eq_true] at rest
  obtain ⟨⟨⟨⟨⟨h1, h2⟩, h3⟩, h4⟩, h5⟩, h6⟩ := rest
  rw [Bool.not_eq_true'] at h2 h3 h4
  refine ⟨eq_of_beq h5, h6, ?_⟩
  unfold State.prologueFault
  simp only [ok, h0, h2, h3, h4, eq_of_beq h1, Bool.not_true, Bool.false_and, bne_self_eq_false, Bool.false_eq_true, if_false]

theorem witness_LoadChoreographyMakesLoaded : withPrologue.accepts h0 ∧ withPrologue.prologueReady h0 0 0 = true
    ∧ (withPrologue.begin h0).isVf h0.chan = false
    ∧ ∃ u p, (withPrologue.begin h0).fetchVa ((withPrologue.begin h0).hostTlb h0.chan) 0 0 4096 = (u, .bytes p false)
      ∧ (u.chan 1).disabler = none ∧ (u.chan 1).inflight.contains 7 = true ∧ u.prologueFault h0 p 0 = none := by
  refine ⟨by unfold State.accepts; decide +kernel, by decide +kernel, by decide +kernel, ?_⟩
  obtain ⟨u, p, e, h⟩ := read_exists ((withPrologue.begin h0).fetchVa ((withPrologue.begin h0).hostTlb h0.chan) 0 0 4096)
    (fun u p => prologueForced p && prologueRest u p) (by decide +kernel)
  rw [Bool.and_eq_true] at h
  exact ⟨u, p, e, prologueFault_none u p h.1 h.2⟩

/-- Ensemble 1 RUNNING with the Caller's page mapped, its route section, of zeros, not read yet. -/
def routesToRead : State := withPage 0x340 (run1.setEn 1 { run1.en 1 with routesRead := false, members := 1 })

theorem witness_CallerFetchesDealsAndBranches_routes : (routesToRead.en 1).st = .running ∧ (routesToRead.en 1).stopping = false
    ∧ (routesToRead.en 1).routesRead = false ∧ (routesToRead.en 1).halt = none
    ∧ ∃ u l, routesToRead.callerRead 1 0 ((routesToRead.en 1).base + (routesToRead.en 1).routes) 512 = (u, .bytes l false)
      ∧ (chunks 512 (routesToRead.en 1).units.length l).all (recordOk (routesToRead.en 1)) = true :=
  ⟨by decide +kernel, by decide +kernel, by decide +kernel, by decide +kernel,
    read_exists _ (fun _ l => (chunks 512 (routesToRead.en 1).units.length l).all (recordOk (routesToRead.en 1))) (by decide +kernel)⟩

/-- A bar with one NOP for tile 0. -/
def bar0 : Bar := { off := 64, kind := 0, flags := 0, units64 := 4, epoch := 0, figDepth := 0, index := 5, figCount := 0, brSync := 0, brCond := 0, brValue := 0, brTarget := 64, steps := [(0, stepWord 0 0)] }

theorem witness_CallerFetchesDealsAndBranches_fetch : ∃ s : State, (s.en 1).mayFetch = true ∧ (s.en 1).next % 64 = 0
    ∧ (s.en 1).entry ≤ (s.en 1).next ∧ (s.en 1).next + 192 ≤ (s.en 1).length
    ∧ s.readBar 1 = (s, some (.ok (bar0, true))) ∧ (s.en 1).barFits bar0 = true :=
  ⟨run1.setEn 1 { run1.en 1 with figBuf := [bar0] }, by decide +kernel, by decide +kernel, by decide +kernel, by decide +kernel, rfl,
    by decide +kernel⟩
theorem witness_CallerFetchesDealsAndBranches_resume : ∃ (s : State) (hl : FetchHalt), (s.en 1).halt = some hl ∧ hl.released = true
    ∧ (s.en 1).st = .running :=
  ⟨run1.setEn 1 { run1.en 1 with halt := some ⟨1, 0, true⟩ }, ⟨1, 0, true⟩, by decide +kernel⟩

/-- Ensemble 1 with a bar of a kind fetched. -/
def fetchedBar (kind : Nat) : State := run1.setEn 1 { run1.en 1 with fetched := some { bar0 with kind := kind } }

theorem witness_CallerFetchesDealsAndBranches_deal : ((fetchedBar 0).en 1).fetched = some bar0 ∧ ((fetchedBar 0).en 1).st = .running
    ∧ ((fetchedBar 0).en 1).stopping = false ∧ ((fetchedBar 0).en 1).markAt = none ∧ bar0.kind = 0
    ∧ (fetchedBar 0).mayDeal 1 bar0 = true ∧ (bar0.steps.map Prod.fst).Nodup := by decide +kernel
theorem witness_CallerFetchesDealsAndBranches_end : ((fetchedBar 2).en 1).fetched = some { bar0 with kind := 2 }
    ∧ ((fetchedBar 2).en 1).st = .running ∧ ((fetchedBar 2).en 1).stopping = false ∧ ((fetchedBar 2).en 1).markAt = none := by
  decide +kernel
theorem witness_CallerFetchesDealsAndBranches_branch : ∃ s : State, (s.en 1).fetched = some { bar0 with kind := 1 }
    ∧ (s.en 1).st = .running ∧ (s.en 1).stopping = false ∧ (s.en 1).markAt = none
    ∧ (s.obj (bar0.brSync % 2 ^ 15)).openTo 1 = true ∧ bit bar0.brSync 15 = false :=
  ⟨(fetchedBar 1).setObj 0 { owner := 8 }, by decide +kernel⟩

/-- Ensemble 1 with a NOP at the head of tile 0's queue. -/
def queuedNop : State := run1.setBk 0 { queue := [(firedWord (stepWord 0 0)).q] }

theorem witness_StepsFireCompleteAndEmit_fire : (queuedNop.bk 0).queue = [(firedWord (stepWord 0 0)).q] ∧ queuedNop.runs 0 = true
    ∧ queuedNop.unitServed (unitOf 0) = true ∧ queuedNop.heldUnit (unitOf 0) = false ∧ bitOf (queuedNop.bk 0).cancelled (groupOf (stepWord 0 0)) = false
    ∧ queuedNop.malformed 0 (firedWord (stepWord 0 0)).q = false ∧ queuedNop.inputsReady 0 (stepWord 0 0) = true
    ∧ queuedNop.resourceFree 0 (stepWord 0 0) = true ∧ queuedNop.canFire (unitOf 0 + 1024 * (1 - bankOf 0)) = false
    ∧ queuedNop.fireStop 0 (stepWord 0 0) = .none ∧ queuedNop.walkFirst 0 (stepWord 0 0) = false := by decide +kernel
theorem witness_StepsFireCompleteAndEmit_complete :
    ∃ (s : State) (f : Fired), s.firedStep 0 timed = some f :=
  ⟨run1.setBk 0 { fired := [{ firedWord (stepWord 0x20 0) with acted := true }] }, { firedWord (stepWord 0x20 0) with acted := true },
    by decide +kernel⟩
theorem witness_StepsFireCompleteAndEmit_acts : (firedAt 0 0x00 0).firedStep 0 (unacted 0x00) = some (firedWord (stepWord 0 0))
    ∧ (firedAt 0 0x03 0).firedStep 0 (unacted 0x03) = some (firedWord (stepWord 3 0)) ∧ (syncOf (opnd (stepWord 3 0) 0 80)).op = 0
    ∧ (firedAt 0 0x03 (2 ^ 16)).firedStep 0 (unacted 0x03) = some (firedWord (stepWord 3 (2 ^ 16)))
    ∧ (syncOf (opnd (stepWord 3 (2 ^ 16)) 0 80)).op ≠ 0
    ∧ (firedAt 0 0x04 0).firedStep 0 (unacted 0x04) = some (firedWord (stepWord 4 0)) := by decide +kernel

theorem witness_ModeStepsEndAndPacketsReachUnits_steps :
    (firedAt 0 0x01 0).committing = false ∧ (firedAt 0 0x01 0).firedStep 0 (unacted 0x01) = some (firedWord (stepWord 1 0))
    ∧ (firedAt 0 0x02 0).firedStep 0 (unacted 0x02) = some (firedWord (stepWord 2 0)) := by decide +kernel
theorem witness_ModeStepsEndAndPacketsReachUnits_adopt : ∃ (s : State) (f : Fired),
    s.firedStep 0 (fun f => opOf f.q.word == 0x01 && f.acted) = some f ∧ (s.obj (opnd f.q.word 0 15)).wtk.toNat < 16
    ∧ 0 < (s.bk 0).tk.get 0 (s.obj (opnd f.q.word 0 15)).wtk.toNat :=
  ⟨(run1.setBk 0 { fired := [{ firedWord (stepWord 1 0) with acted := true }], tk := [(3, 1)] }).setObj 0 { wtk := 3 },
    { firedWord (stepWord 1 0) with acted := true }, by decide +kernel⟩
/-- A state with a token of counter 15 and a credit return of `n` to pool 7 on their way from unit 5 to a unit. -/
def onTheWay (ub n : Nat) (s : State) : State := s.sendAll [.token 5 ub 15, .credit 6 ub 7 n]

theorem witness_ModeStepsEndAndPacketsReachUnits_packets : ∃ s : State,
    s.tokenSource 512 15 = some 5 ∧ gwOfSource 5 = none ∧ s.takesTokens 512 = true ∧ s.frozenCounts 512 = false
    ∧ (s.bk 512).tk.get 0 15 < 255 ∧ s.creditSource 512 7 3 = some 6 ∧ (s.bk 512).cp.get 0 7 + 3 ≤ (s.bk 512).ceil.get 0 7
    ∧ s.runs 512 = true ∧ s.ensOf 512 = 1 ∧ s.unitHere (unitOf 512) = true ∧ s.heldUp (.cancelled 512 1 9 true) = false :=
  ⟨onTheWay 512 3 (run1.setBk 512 { ceil := [(7, 9)] }), by decide +kernel⟩
theorem witness_ModeStepsEndAndPacketsReachUnits_frozen : ∃ s : State,
    s.takesTokens 512 = true ∧ s.frozenCounts 512 = true ∧ s.tokenSource 512 15 = some 5 ∧ s.creditSource 512 7 3 = some 6 :=
  ⟨onTheWay 512 3 (ensIn .done), by decide +kernel⟩
theorem witness_ModeStepsEndAndPacketsReachUnits_refused : ∃ s : State,
    s.takesTokens 2 = false ∧ s.tokenSource 2 15 = some 5 ∧ s.creditSource 2 7 3 = some 6 :=
  ⟨onTheWay 2 3 run1, by decide +kernel⟩
theorem witness_SaturationAndOverflowStopTheEnsemble : ∃ s : State,
    s.tokenSource 0 15 = some 5 ∧ gwOfSource 5 = none ∧ s.creditSource 0 7 65535 = some 6
    ∧ s.takesTokens 0 = true ∧ s.runs 0 = true
    ∧ Map.get (s.bk 0).tk 0 15 = 255 ∧ Map.get (s.bk 0).ceil 0 7 < Map.get (s.bk 0).cp 0 7 + 65535 :=
  ⟨onTheWay 0 65535 (run1.setBk 0 { tk := [(15, 255)], ceil := [(7, 65534)] }), by decide +kernel⟩


/-! ## Witnesses: tiles -/

/-- A step of tile 0 in ensemble 1 that fired, with its opcode, operands and mode. -/
def firedOf (op ops : Nat) (mode : Byte) : Fired := { firedWord (stepWord op ops) with mode := mode }

/-- Tile 0 of ensemble 1 with that step fired. -/
def tileAt (op ops : Nat) (mode : Byte := 0) : State := run1.setBk 0 { fired := [firedOf op ops mode] }

/-- Operands of a loading pass: activations in tile-store units 0 to 3, weights in unit 4. -/
def mxpOps (fmt : Nat) : Nat := fmt * 33 + 2 ^ 44 + 4 * 2 ^ 54

theorem witness_ArraysMultiplyAndDrain_int : (tileAt 0x11 (mxpOps 4)).firedStep 0 (unacted 0x11) = some (firedOf 0x11 (mxpOps 4) 0)
    ∧ ((tileAt 0x11 (mxpOps 4)).passLoad (unitOf 0) (mxpOf (stepWord 0x11 (mxpOps 4))) (firedOf 0x11 (mxpOps 4) 0).mask.rows).passBad
        (unitOf 0) (mxpOf (stepWord 0x11 (mxpOps 4))) (firedOf 0x11 (mxpOps 4) 0).mask.rows = false
    ∧ isIntFmt 4 = true ∧ mxpBad (stepWord 0x11 (mxpOps 4)) = false := by decide +kernel
theorem witness_ArraysMultiplyAndDrain_strict : (tileAt 0x11 (mxpOps 0) 1).firedStep 0 (unacted 0x11) = some (firedOf 0x11 (mxpOps 0) 1)
    ∧ ((tileAt 0x11 (mxpOps 0) 1).passLoad (unitOf 0) (mxpOf (stepWord 0x11 (mxpOps 0))) (firedOf 0x11 (mxpOps 0) 1).mask.rows).passBad
        (unitOf 0) (mxpOf (stepWord 0x11 (mxpOps 0))) (firedOf 0x11 (mxpOps 0) 1).mask.rows = false
    ∧ isIntFmt 0 = false ∧ strict 1 = true := by decide +kernel
theorem witness_ArraysMultiplyAndDrain_tcfg : (tileAt 0x12 3).firedStep 0 (unacted 0x12) = some (firedOf 0x12 3 0)
    ∧ ((tileAt 0x12 3).tsLoadLine (unitOf 0) true .clean (tcfgOf (stepWord 0x12 3)).src).tsBad (unitOf 0)
        (64 * (tcfgOf (stepWord 0x12 3)).src) 64 = false := by decide +kernel
theorem witness_ArraysMultiplyAndDrain_drain : (tileAt 0x13 0xF8).firedStep 0 (unacted 0x13) = some (firedOf 0x13 0xF8 0) := by
  decide +kernel

/-- A pass of tile 0 that has run and waits for its verdict. -/
def passRun : Fired := { firedOf 0x11 0 0 with acted := true }

/-- One whose mask leaves every row and column out. -/
def passMasked : Fired := { passRun with mask := { rows := -1, cols := -1 } }

/-- Tile 0 with that pass. -/
def awaiting : State := run1.setBk 0 { fired := [passRun], window := [passRun] }

theorem witness_VerdictsAndRepairs_verdict : awaiting.firedStep 0 awaitsVerdict = some passRun ∧ (awaiting.tile (unitOf 0)).repair = .none
    ∧ ((awaiting.tile (unitOf 0)).block (mxpOf passRun.q.word).acc).failed = false ∧ passRun.disagree ||| 0 = 0
    ∧ passRun.disagree ||| 8 ≠ 0 := by decide +kernel
theorem witness_VerdictsAndRepairs_failed : ∃ s : State, s.firedStep 0 awaitsVerdict = some passRun
    ∧ ((s.tile (unitOf 0)).block (mxpOf passRun.q.word).acc).failed = true :=
  ⟨awaiting.setTile 0 { blocks := [(0, { failed := true })] }, by decide +kernel⟩
/-- A second failed pass while the tile is under repair. -/
theorem witness_VerdictsAndRepairs_failedAgain : ∃ s : State, s.firedStep 0 awaitsVerdict = some passRun
    ∧ ((s.tile (unitOf 0)).block (mxpOf passRun.q.word).acc).failed = true ∧ (s.tile (unitOf 0)).repair ≠ .none :=
  ⟨awaiting.setTile 0 { blocks := [(0, { failed := true })], repair := .replay 0 }, by decide +kernel⟩
theorem witness_VerdictsAndRepairs_locate : ∃ s : State, (s.tile (unitOf 0)).repair = .locate 1 (some 0) false
    ∧ (s.firedAll (unitOf 0)).any (fun f => opOf f.q.word == 0x11 && !f.replay) = false :=
  ⟨run1.setTile 0 { repair := .locate 1 (some 0) false }, by decide +kernel⟩
theorem witness_VerdictsAndRepairs_replay : ∃ s : State, (s.tile (unitOf 0)).repair = .replay 0 ∧ s.holder 0 0 = 0 ∧ s.runs 0 = true
    ∧ (s.en (s.ensOf 0)).stopping = false ∧ replayList (s.bk 0).window 0 = some [passMasked]
    ∧ (s.passLoad 0 (mxpOf passMasked.q.word) (-1)).passBad 0 (mxpOf passMasked.q.word) (-1) = false
    ∧ ((s.passLoad 0 (mxpOf passMasked.q.word) (-1)).replayAll 0 0 [passMasked]).2.bad ||| 0 = 0 :=
  ⟨(run1.setBk 0 { window := [passMasked] }).setTile 0 { repair := .replay 0 }, by decide +kernel⟩

/-- That ensemble after three seconds with no walk-through. -/
def walkDue : State := { run1 with beats := (List.range 45).map (fun d => (d, 2 ^ 40)) }

theorem witness_WalkThroughsAndScrubsEnd_tile : (run1.tile 511).repair = .none ∧ (run1.tserv.get {} 511).settling = false
    ∧ (walkDue.tile 0).repair = .none ∧ (walkDue.tserv.get {} 0).settling = false ∧ walkDue.tileDue 0 = true
    ∧ walkDue.otherDue 2 0 = true ∧ walkDue.otherDue 3 0 = true ∧ walkDue.otherDue 5 0 = true
    ∧ (walkDue.sserv.get {} 0).settling = false ∧ walkDue.restoring 0 = true := by decide +kernel
theorem witness_WalkThroughsAndScrubsEnd_units : healthIdx 2 511 = some 3071 ∧ healthIdx 3 255 = some 3327 ∧ healthIdx 5 95 = some 3423 := by
  decide +kernel
theorem witness_WalkThroughsAndScrubsEnd_scrub : run1.tpoison.contains (tsKey 511 (64 * 65535) / 64) = false := by decide +kernel

/-- Operands of a vector step from register 2 with register 3 into register 1, one vector, all lanes. -/
def regOps : Nat := 1 + 2 * 2 ^ 20 + 3 * 2 ^ 40 + 2 ^ 60

theorem witness_VectorStepsAct : ∀ p ∈ vectorCommands, (tileAt p.1 regOps 1).firedStep 0 (unacted p.1) = some (firedOf p.1 regOps 1)
    ∧ (tileAt p.1 regOps 1).readsPoison (unitOf 0) p.1 (vstepOf (firedOf p.1 regOps 1).q.word) = false
    ∧ ((tileAt p.1 regOps 1).loadSources (unitOf 0) p.1 (vstepOf (firedOf p.1 regOps 1).q.word)).readsPoison (unitOf 0) p.1
        (vstepOf (firedOf p.1 regOps 1).q.word) = false := by decide +kernel

theorem regStep_stands (op : Nat) (h : (tileAt op regOps 1).firedStep 0 (unacted op) = some (firedOf op regOps 1))
    (hv : (vstepOf (stepWord op regOps)).count = 1 ∧ vop (vstepOf (stepWord op regOps)).srca = .reg 2 false
      ∧ vop (vstepOf (stepWord op regOps)).srcb = .reg 3 false ∧ vop (vstepOf (stepWord op regOps)).dst = .reg 1 false) :
    RegisterStep (tileAt op regOps 1) 0 op (firedOf op regOps 1) 2 3 1 :=
  ⟨h, hv.1, ⟨_, hv.2.1⟩, ⟨_, hv.2.2.1⟩, ⟨_, hv.2.2.2⟩⟩

theorem regOps_read : ∀ p ∈ vectorCommands, (vstepOf (stepWord p.1 regOps)).count = 1
    ∧ vop (vstepOf (stepWord p.1 regOps)).srca = .reg 2 false ∧ vop (vstepOf (stepWord p.1 regOps)).srcb = .reg 3 false
    ∧ vop (vstepOf (stepWord p.1 regOps)).dst = .reg 1 false := by decide +kernel

theorem witness_VectorLanesAct : ∀ p ∈ vectorCommands, RegisterStep (tileAt p.1 regOps 1) 0 p.1 (firedOf p.1 regOps 1) 2 3 1 :=
  fun p hp => regStep_stands p.1 (witness_VectorStepsAct p hp).1 (regOps_read p hp)
theorem witness_VectorLanesAct_strict : strict (firedOf 0x24 regOps 1).mode = true := by decide +kernel
/-- Lane mask 0 sets every lane, the lane AUX names among them. -/
theorem witness_VectorLanesAct_lane : laneOn ((tileAt 0x33 regOps 1).stepMask 0 (firedOf 0x33 regOps 1)) 0 = true := by decide +kernel
theorem witness_VectorGroupsReduce : RegisterStep (tileAt 0x2D regOps 1) 0 0x2D (firedOf 0x2D regOps 1) 2 3 1
    ∧ RegisterStep (tileAt 0x2E regOps 1) 0 0x2E (firedOf 0x2E regOps 1) 2 3 1
    ∧ RegisterStep (tileAt 0x2F regOps 1) 0 0x2F (firedOf 0x2F regOps 1) 2 3 1 :=
  ⟨witness_VectorLanesAct (0x2D, .vred) (by simp [vectorCommands]), witness_VectorLanesAct (0x2E, .vsmx) (by simp [vectorCommands]),
    witness_VectorLanesAct (0x2F, .vcmb) (by simp [vectorCommands])⟩

/-! ## Witnesses: stream engines and translation -/

/-- A READ descriptor of 64 FP32 elements from address 0 into one ring slot (R163); CHECK by a CRC-32C computed outside the
model. -/
def readDesc : List Byte := (List.range 128).map (fun k => BitVec.ofNat 8 (Map.get
  [(1, 0x1C), (4, 64), (8, 1), (12, 1), (16, 1), (0x46, 1), (0x48, 1), (0x4A, 1), (0x7C, 0x52), (0x7D, 0x56), (0x7E, 0x0F), (0x7F, 0xEA)] 0 k))

/-- The same stream as a WRITE. -/
def writeDesc : List Byte := 1 :: readDesc.drop 1

theorem test_readDesc_total : descTotal readDesc = 1 := by decide +kernel

/-- Stream engine 0 of ensemble 1 with a step fired and page 0 mapped. -/
def seAt (f : Fired) : State := withPage 0x200 (run1.setBk 512 { fired := [f] })

theorem witness_StreamsLoadStartAndFree_dload : ∃ (s u : State) (f : Fired) (l : List Byte) (p : Bool),
    s.firedStep 512 (fun f => unacted 0x60 f && !f.waiting) = some f
    ∧ s.fetchVa (seInit (unitOf 512 - 512)) (s.en f.q.ens).asid (opnd f.q.word 7 41 * 128) 128 = (u, .bytes l p) := by
  obtain ⟨u, l, h, -⟩ := read_exists ((seAt (firedOf 0x60 0 0)).fetchVa (seInit 0) 0 0 128) (fun _ _ => true) (by decide +kernel)
  exact ⟨seAt (firedOf 0x60 0 0), u, firedOf 0x60 0 0, l, false, by decide +kernel, h⟩

/-- A DLOAD that waited for its page, which has come. -/
def dloadWaits : Fired := { firedOf 0x60 0 0 with waiting := true, released := true }

theorem witness_StreamsLoadStartAndFree_resume : ∃ (s u : State) (f : Fired) (l : List Byte) (p : Bool),
    s.firedStep 512 (fun f => unacted 0x60 f && f.waiting && f.released) = some f
    ∧ s.fetchVa (seInit (unitOf 512 - 512)) (s.en f.q.ens).asid (opnd f.q.word 7 41 * 128) 128 = (u, .bytes l p) := by
  obtain ⟨u, l, h, -⟩ := read_exists ((seAt dloadWaits).fetchVa (seInit 0) 0 0 128) (fun _ _ => true) (by decide +kernel)
  exact ⟨seAt dloadWaits, u, dloadWaits, l, false, by decide +kernel, h⟩

/-- A DLOAD into slot 63 whose bytes have come. -/
def dloadRead : Fired := { firedOf 0x60 63 0 with acted := true, data := readDesc }

theorem crc_readDesc : crcForced (overlay readDesc 0x7C (zeros 4)) 0xFFFFFFFF ^^^ 0xFFFFFFFF = field readDesc 0x7C 4 := by decide +kernel

theorem checkOk_readDesc : checkOk readDesc 0x7C = true := by
  unfold checkOk crc32c
  rw [crcForced_eq, crc_readDesc]
  exact beq_self_eq_true _

theorem descOk_readDesc : descOk readDesc = true := by
  unfold descOk
  rw [checkOk_readDesc]
  decide +kernel

theorem witness_StreamsLoadStartAndFree_complete :
    (seAt dloadRead).firedStep 512 (fun f => opOf f.q.word == 0x60 && f.acted && opnd f.q.word 0 6 == (63 : BitVec 6).toNat) = some dloadRead
    ∧ dloadRead.poisoned = false ∧ descOk dloadRead.data = true :=
  ⟨by decide +kernel, rfl, descOk_readDesc⟩
theorem witness_StreamsLoadStartAndFree_stream : (seAt (firedOf 0x61 0 0)).firedStep 512 (unacted 0x61) = some (firedOf 0x61 0 0) := by
  decide +kernel
theorem witness_StreamsLoadStartAndFree_rfree : ∃ s : State, s.firedStep 512 (unacted 0x62) = some (firedOf 0x62 16 0)
    ∧ (s.ctx 0 0).tailLanded 1 = true ∧ opnd (stepWord 0x62 16) 4 14 = 1 :=
  ⟨(seAt (firedOf 0x62 16 0)).setCtx 0 0 { ringSlots := 1, slots := [(0, .landed)] }, by decide +kernel⟩

/-- An ACTIVE context of engine 0 on a descriptor. -/
def ctxOn (d : List Byte) : Ctx := { st := .active, ub := 512, desc := d, ringSlots := 1 }

/-- Engine 0 with context 0 so. -/
def streaming (d : List Byte) : State := (seAt (firedOf 0x61 0 0)).setCtx 0 0 (ctxOn d)

/-- A plan that a test accepts, as an existence statement. -/
theorem plan_exists (x : State × Plan) (f : State → List Part → Bool)
    (h : (match x with | (u, .ok l) => f u l | _ => false) = true) : ∃ u l, x = (u, .ok l) ∧ f u l = true := by
  match x, h with
  | (u, .ok l), h => exact ⟨u, l, rfl, h⟩

/-- Engine 0's state as context 0's turn has passed. -/
def turned (s : State) : State := s.setSe 0 { s.se 0 with turn := 1 }

theorem witness_TransactionsAreTranslatedAndIssued_issue : ∃ (s u : State) (parts : List Part),
    s.turnOf 0 = some 0 ∧ s.candidate 0 (s.ctx 0 0) = some (0, true) ∧ accSource (s.ctx 0 0).desc = false ∧ (s.ctx 0 0).began = false
    ∧ (turned s).plan 0 (s.ctx 0 0) 0 = (u, .ok parts) ∧ (∀ p ∈ parts, p.stack < 64) := by
  obtain ⟨u, l, h, e⟩ := plan_exists ((turned ((streaming readDesc).setTlb 0x200 [⟨0, false, 0, 29⟩])).plan 0 (ctxOn readDesc) 0)
    (fun _ l => l.all (fun p => decide (p.stack < 64))) (by decide +kernel)
  rw [List.all_eq_true] at e
  exact ⟨(streaming readDesc).setTlb 0x200 [⟨0, false, 0, 29⟩], u, l, by decide +kernel, by decide +kernel, by decide +kernel,
    by decide +kernel, h, fun p hp => of_decide_eq_true (e p hp)⟩
theorem witness_TransactionsAreTranslatedAndIssued_acc : ∃ s : State, s.turnOf 0 = some 0 ∧ s.candidate 0 (s.ctx 0 0) = some (0, true)
    ∧ accSource (s.ctx 0 0).desc = true ∧ (s.ctx 0 0).began = false ∧ s.readStart 0 (s.ctx 0 0) = .go false :=
  ⟨(streaming (1 :: 0x1C :: 1 :: readDesc.drop 3)).setTile 0 { blocks := [(0, { empty := false })] }, by decide +kernel⟩
/-- A walk of address space 0 from the entry at 0, which names the table at 0 for every level, to the leaf at 8. -/
theorem witness_TransactionsAreTranslatedAndIssued_walk : ∃ s : State, (s.walk (walkerOf 0x200) 0 0x10000).2 = .leaf 29 false :=
  ⟨{ run1.setPc 0 0 { st := .serving } with hbm := [(0, 1), (8, 29)] }, by decide +kernel⟩
/-- Without tables every walk ends in a cause. -/
theorem witness_TransactionsAreTranslatedAndIssued_noWalk : ((run1.setPc 0 0 { st := .serving }).walk 0 0 0).2 = .bad causePermission := by
  decide +kernel

/-- A part of a transaction: block 0 of stack 0, its first piece at the start. -/
def onePart : Part := { stack := 0, block := 0, pieces := [(0, 0)] }

/-- The transaction 0 that waits for it. -/
def oneOut : Out := { t := 0, parts := [onePart] }

/-- The response to it, and the acknowledgement of a write of engine 255. -/
def oneResp : Resp := { init := 0x200, sub := 0, seq := 0, stack := 0, block := 0, mask := 1, data := List.replicate 256 7, vstate := 0, epoch := 1 }
def oneAck : Ack := { init := 0x2FF, sub := 7, seq := 0, stack := 0, block := 0, status := .ok }

theorem witness_AnswersRetireTransactions_read : ∃ s : State, oneResp.sub ≠ voidSub ∧ oneOut.failed = false ∧ oneOut.parts = [onePart]
    ∧ onePart.pieces = [(0, 0)] ∧ s.overtakes (s.sameWay (.resp oneResp)) (.resp oneResp) = false ∧ engineOf 0x200 = some 0 ∧ (s.ctx 0 0).st = .active
    ∧ landsInRing (s.ctx 0 0).desc = true ∧ s.epochFits (s.ctx 0 0).ub 1 = true
    ∧ (s.ctx 0 0).outs.find? (fun o => o.awaits 0 0 0) = some oneOut ∧ oneOut.part? 0 0 = some onePart :=
  ⟨(streaming readDesc).setCtx 0 0 { ctxOn readDesc with outs := [oneOut], next := 1 }, by decide +kernel⟩
theorem witness_AnswersRetireTransactions_ack : ∃ s : State, oneAck.sub ≠ voidSub
    ∧ s.overtakes (s.sameWay (.ack oneAck)) (.ack oneAck) = false ∧ engineOf 0x2FF = some 255 ∧ (s.ctx 255 7).st = .active
    ∧ landsInRing (s.ctx 255 7).desc = false ∧ (s.ctx 255 7).outs.find? (fun o => o.awaits 0 0 0) = some oneOut
    ∧ oneOut.part? 0 0 = some onePart :=
  ⟨run1.setCtx 255 7 { ctxOn writeDesc with outs := [oneOut], next := 1 }, by decide +kernel⟩
theorem witness_AnswersRetireTransactions_retry : ∃ (s : State) (o : Out), engineOf 0x200 = some 0 ∧ (s.ctx 0 0).st = .active
    ∧ (s.ctx 0 0).outs.find? (fun o => o.t == 0 && o.parts.any (·.retry)) = some o :=
  ⟨run1.setCtx 0 0 { ctxOn readDesc with outs := [{ t := 0, parts := [{ onePart with retry := true }] }], next := 1 },
    { t := 0, parts := [{ onePart with retry := true }] }, by decide +kernel⟩

theorem witness_StreamsFlushResumeAndStall_flush : ∃ s : State, (s.ctx 0 7).st = .active ∧ (s.ctx 0 7).low = descTotal (s.ctx 0 7).desc
    ∧ (s.ctx 0 7).outs = [] ∧ (s.ctx 0 7).redo = [] ∧ (s.ctx 0 7).flushTs ≠ [] ∧ (s.ctx 0 7).resuming = false :=
  ⟨run1.setCtx 0 7 { ctxOn writeDesc with low := 1, next := 1, flushTs := [(0, [0])] }, by decide +kernel⟩
theorem witness_StreamsFlushResumeAndStall_resume : ∃ s : State, s.accepts h0 ∧ unitKind 767 = .stream ∧ (s.sserv.get {} (767 - 512)).unserved = false
    ∧ (s.begin h0).mayTouch h0 ((s.begin h0).ctx 255 7).ub = true ∧ (s.ctx 255 7).st = .halted
    ∧ (s.ctx 255 7).halting = false ∧ (s.ctx 255 7).resumed.ended = false :=
  ⟨run1.setCtx 255 7 { ctxOn readDesc with st := .halted }, by unfold State.accepts; decide +kernel⟩
/-- One whose transactions are all done, and one whose halt is not complete. -/
theorem witness_StreamsFlushResumeAndStall_ended : ({ ctxOn readDesc with st := .halted, low := 1, next := 1 } : Ctx).resumed.ended = true
    ∧ ({ ctxOn readDesc with st := .halted, halting := true } : Ctx).halting = true := by decide +kernel
theorem witness_StreamsFlushResumeAndStall_job : ∃ s : State, s.accepts h0 ∧ unitKind 768 = .memory ∧ s.stackOn 0 = true
    ∧ (s.begin h0).mayTouch h0 ((s.begin h0).job 0 3).ub = true ∧ (s.job 0 3).state = 2 :=
  ⟨run1.setJob 0 3 { state := 2, ub := 768 }, by unfold State.accepts; decide +kernel⟩
theorem witness_StreamsFlushResumeAndStall_stall : ((streaming readDesc).ctx 0 0).st = .active ∧ ((streaming readDesc).ctx 0 0).stalled = false := by
  decide +kernel

/-! ## Witnesses: sync objects -/

/-- Ensemble 1's object 32,767, TARGET 4, COUNT 3. -/
def syncAt (o : SyncObj) : State := run1.setObj 32767 o

/-- The ensemble by which an arrival is judged. -/
def judge (s : State) (a : Agent) (k n : Nat) : Nat :=
  if (s.arrivalStep a k n).ens < 8 then (s.arrivalStep a k n).ens else s.agentEns a

/-- An arrival that nothing is ahead of and that its source may make. -/
def comes (s : State) (a : Agent) (n : Nat) : Bool :=
  !s.overtakes (operates a 32767 true) (.arrive a 32767 n (s.arrivalStep a 32767 n)) && s.mayOp a (judge s a 32767 n) 32767 0

theorem witness_ArrivalsCountOrAreRefused_below : ∃ s : State, comes s (.unit 0 false) 1 = true ∧ isModeArrival (.unit 0 false) = false
    ∧ (s.obj 32767).tree = false ∧ (s.obj 32767).complete = false ∧ (s.obj 32767).count.toNat + 1 < (s.obj 32767).target.toNat :=
  ⟨syncAt { owner := 8, target := 4, count := 2 }, by decide +kernel⟩
theorem witness_ArrivalsCountOrAreRefused_tree : ∃ s : State, comes s (.unit 0 true) 1 = true
    ∧ (s.obj 32767).modeBarrier (judge s (.unit 0 true) 32767 1) = true ∧ (s.obj 32767).tree = true
    ∧ (s.en (s.obj 32767).owner.toNat).st = .running ∧ (s.obj 32767).complete = false
    ∧ (s.obj 32767).target.toNat ≤ (s.obj 32767).count.toNat + 1 ∧ (s.obj 32767).auto = false :=
  ⟨syncAt { owner := 1, tree := true, wtk := 15, target := 4, count := 3 }, by decide +kernel⟩
theorem witness_ArrivalsCountOrAreRefused_auto : ∃ s : State, comes s (.unit 0 false) (0xFFFFFFFF - 3) = true ∧ (s.obj 32767).tree = false
    ∧ (s.obj 32767).complete = false ∧ (s.obj 32767).target.toNat ≤ (s.obj 32767).count.toNat + 0xFFFFFFFF - 3
    ∧ (s.obj 32767).count.toNat + (0xFFFFFFFF - 3) < 2 ^ 32 ∧ (s.obj 32767).auto = true ∧ (s.obj 32767).target ≠ 0 :=
  ⟨syncAt { owner := 1, auto := true, target := 4, count := 3 }, by decide +kernel⟩
theorem witness_ArrivalsCountOrAreRefused_refused :
    run1.overtakes (operates (.unit 0 false) 32767 true) (.arrive (.unit 0 false) 32767 1 (run1.arrivalStep (.unit 0 false) 32767 1)) = false
    ∧ run1.mayOp (.unit 0 false) (judge run1 (.unit 0 false) 32767 1) 32767 0 = false ∧ run1.runs 0 = true := by decide +kernel

theorem witness_ArrivalsCountOrAreRefused_overflow : ∃ s : State, comes s (.unit 0 false) 0xFFFFFFFF = true
    ∧ (s.obj 32767).tree = false ∧ 2 ^ 32 ≤ (s.obj 32767).count.toNat + 0xFFFFFFFF ∧ (s.obj 32767).complete = true :=
  ⟨syncAt { owner := 8, target := 4, count := 4, complete := true }, by decide +kernel⟩
/-- An arrival at an object of another ensemble, one of a MODE step at an object that is no barrier of its ensemble, and one at a
TREE object whose owner does not run: the arriving ensemble, 1, runs. -/
theorem witness_ArrivalsCountOrAreRefused_stops : (run1.en 1).st = .running ∧ judge run1 (.unit 0 false) 32767 1 = 1
    ∧ (∃ s : State, (s.en 1).st = .running ∧ judge s (.unit 0 true) 32767 1 = 1 ∧ s.mayOp (.unit 0 true) 1 32767 0 = true
        ∧ (s.obj 32767).modeBarrier 1 = false)
    ∧ ∃ s : State, (s.en 1).st = .running ∧ judge s (.unit 0 false) 32767 1 = 1 ∧ s.mayOp (.unit 0 false) 1 32767 0 = true
        ∧ (s.obj 32767).tree = true ∧ (s.en (s.obj 32767).owner.toNat).st ≠ .running :=
  ⟨by decide +kernel, by decide +kernel, ⟨syncAt { owner := 8 }, by decide +kernel⟩, ⟨syncAt { owner := 8, tree := true }, by decide +kernel⟩⟩
/-- A SET that a step of tile 0 has sent, to an object that its ensemble may not set. -/
theorem witness_ArrivalsCountOrAreRefused_set : ∃ (s : State) (f : Fired),
    s.overtakes (operates (.unit 0 false) 32767 false) (.syncOp (.unit 0 false) 32767 2 9 false) = false
    ∧ s.allowed (.unit 0 false) 32767 2 = false ∧ s.firedStep 0 (waitsAt 32767) = some f
    ∧ (s.waitingStep (.unit 0 false)).ens = 1 ∧ (s.en 1).st = .running :=
  ⟨run1.setBk 0 { fired := [{ firedOf 3 (0x20000 + 32767) 0 with acted := true }] }, { firedOf 3 (0x20000 + 32767) 0 with acted := true },
    by decide +kernel⟩

theorem witness_SyncOperationsAreDoneAndAnswered_complete : ∃ s : State,
    (∀ op ∈ [1, 2, 3], s.allowed (.caller 1) 32767 op = true ∧ s.overtakes (operates (.caller 1) 32767 false) (.syncOp (.caller 1) 32767 op 0 false) = false)
    ∧ (s.obj 32767).complete = true :=
  ⟨syncAt { owner := 8, complete := true }, by decide +kernel⟩
theorem witness_SyncOperationsAreDoneAndAnswered_read : ∃ s : State, s.allowed (.host h0) 32767 4 = true
    ∧ s.overtakes (operates (.host h0) 32767 false) (.syncOp (.host h0) 32767 4 0 false) = false :=
  ⟨syncAt { owner := 8 }, by decide +kernel⟩
theorem witness_SyncOperationsAreDoneAndAnswered_slot : ∃ s : State, s.allowed (.caller 1) 32767 1 = true ∧ (s.obj 32767).complete = false
    ∧ s.overtakes (operates (.caller 1) 32767 false) (.syncOp (.caller 1) 32767 1 0 false) = false ∧ (s.obj 32767).waiters.length = 3 :=
  ⟨syncAt { owner := 8, waiters := [.caller 1, .caller 1, .caller 1] }, by decide +kernel⟩
theorem witness_SyncOperationsAreDoneAndAnswered_full : ∃ s : State, s.allowed (.caller 1) 32767 1 = true ∧ (s.obj 32767).complete = false
    ∧ s.allowed (.host h0) 32767 1 = true ∧ (s.chan h0.chan).disabler = none ∧ h0.tag ∈ (s.chan h0.chan).inflight
    ∧ s.overtakes (operates (.caller 1) 32767 false) (.syncOp (.caller 1) 32767 1 0 false) = false
    ∧ s.overtakes (operates (.host h0) 32767 false) (.syncOp (.host h0) 32767 1 0 false) = false ∧ (s.obj 32767).waiters.length = 4 :=
  ⟨(syncAt { owner := 8, waiters := [.caller 1, .caller 1, .caller 1, .caller 1] }).begin h0, by decide +kernel⟩
theorem witness_SyncOperationsAreDoneAndAnswered_step : ∃ (s : State) (f : Fired), s.imageFor (.unit 0 false) 0 = none
    ∧ s.overtakes (answersOf (.unit 0 false) 0) (.syncResp (.unit 0 false) 0) = false
    ∧ s.net.contains (.syncResp (.unit 0 false) 0) = true ∧ s.firedStep 0 (waitsAt 0) = some f :=
  ⟨{ run1.setBk 0 { fired := [{ firedOf 3 0x10000 0 with acted := true }] } with net := [.syncResp (.unit 0 false) 0] },
    { firedOf 3 0x10000 0 with acted := true }, by decide +kernel⟩
theorem witness_SyncOperationsAreDoneAndAnswered_caller : ∃ s : State, s.imageFor (.caller 1) 0 = none
    ∧ s.overtakes (answersOf (.caller 1) 0) (.syncResp (.caller 1) 0) = false ∧ s.net.contains (.syncResp (.caller 1) 0) = true :=
  ⟨{ run1 with net := [.syncResp (.caller 1) 0] }, by decide +kernel⟩
theorem witness_SyncOperationsAreDoneAndAnswered_stream : ∃ s : State, s.imageFor (.stream 0 7) 0 = none
    ∧ s.overtakes (answersOf (.stream 0 7) 0) (.syncResp (.stream 0 7) 0) = false ∧ s.net.contains (.syncResp (.stream 0 7) 0) = true
    ∧ (s.ctx 0 7).st = .halted ∧ (s.ctx 0 7).halting = false ∧ (s.ctx 0 7).resumed.ended = false :=
  ⟨{ run1.setCtx 0 7 { ctxOn readDesc with st := .halted } with net := [.syncResp (.stream 0 7) 0] }, by decide +kernel⟩
theorem witness_SyncOperationsAreDoneAndAnswered_released : ∃ s : State, s.imageFor (.host h0) 0 = none
    ∧ s.overtakes (answersOf (.host h0) 0) (.syncResp (.host h0) 0) = false ∧ s.net.contains (.syncResp (.host h0) 0) = true
    ∧ (s.chan h0.chan).disabler = none ∧ h0.tag ∈ (s.chan h0.chan).inflight :=
  ⟨{ run1.begin h0 with net := [.syncResp (.host h0) 0] }, by decide +kernel⟩
theorem witness_SyncOperationsAreDoneAndAnswered_host : ∃ s : State, s.imageFor (.host h0) 0 = some 5 ∧ (s.chan h0.chan).disabler = none
    ∧ s.overtakes (answersOf (.host h0) 0) (.image (.host h0) 0 5) = false ∧ h0.tag ∈ (s.chan h0.chan).inflight :=
  ⟨{ run1.begin h0 with net := [.image (.host h0) 0 5] }, by decide +kernel⟩
theorem witness_SyncOperationsAreDoneAndAnswered_retry : ∃ s : State, s.slotWaits.contains (.caller 1, 0) = true :=
  ⟨{ run1 with slotWaits := [(.caller 1, 0)] }, by decide +kernel⟩
theorem witness_SyncOperationsAreDoneAndAnswered_send : run1.accepts h0 ∧ syncBad 0x10000 true = false ∧ syncBad 0x100000 true = false := by
  unfold State.accepts; decide +kernel

theorem witness_SyncObjectsAreConfigured_config : run1.accepts h0 ∧ (run1.begin h0).isVf h0.chan = false ∧ (run1.obj 0).owner.toNat = 15 := by
  unfold State.accepts; decide +kernel
/-- An entry for object 5, inbound from device 3. -/
theorem witness_SyncObjectsAreConfigured_map : bitOf (0x400000030005 : W64) 30 = false ∧ fld (0x400000030005 : W64) 47 17 = 0
    ∧ mapValid (0x400000030005 : W64) = true ∧ ∀ out, run1.mapEntry (mapLocal (0x400000030005 : W64)) out = none := by decide +kernel

/-! ## Witnesses: memory-side engines -/

/-- A descriptor of 128 bytes, given by the bytes that are not zero. -/
def descOf (l : List (Nat × Nat)) : List Byte := (List.range 128).map (fun k => BitVec.ofNat 8 (Map.get l 0 k))

/-- A FILL of 64 bytes at address 0 (R215); CHECK by a CRC-32C computed outside the model. -/
def fillBytes : List (Nat × Nat) := [(0, 6), (4, 64), (0x7C, 0x8B), (0x7D, 0x8F), (0x7E, 0x99), (0x7F, 0x1E)]

theorem workOk_fill : workOk (descOf fillBytes) = true := by
  have h : checkOk (descOf fillBytes) 0x7C = true := by
    unfold checkOk crc32c
    rw [crcForced_eq, show crcForced (overlay (descOf fillBytes) 0x7C (zeros 4)) 0xFFFFFFFF ^^^ 0xFFFFFFFF
      = field (descOf fillBytes) 0x7C 4 by decide +kernel]
    exact beq_self_eq_true _
  unfold workOk
  rw [h]
  decide +kernel

/-- Memory-side engine 0 with an MLOAD fired, its page in host memory. -/
def mload0 : State := hostBytes fillBytes (withPage 0x330 (run1.setBk 768 { fired := [firedOf 0x90 0 0] }))

theorem witness_WorkIsLoadedAndRun_mload : ∃ u l, mload0.firedStep 768 (fun f => unacted 0x90 f && !f.waiting) = some (firedOf 0x90 0 0)
    ∧ mload0.fetchVa (mseInit 0) (mload0.en 1).asid (opnd (stepWord 0x90 0) 7 41 * 128) 128 = (u, .bytes l false) ∧ workOk l = true
    ∧ ∀ g ∈ (mload0.bk 768).fired, opOf g.q.word = 0x90 → g.acted = false := by
  obtain ⟨u, l, e, h⟩ := read_exists (mload0.fetchVa (mseInit 0) (mload0.en 1).asid (opnd (stepWord 0x90 0) 7 41 * 128) 128)
    (fun _ l => decide (l = descOf fillBytes)) (by decide +kernel)
  exact ⟨u, l, by decide +kernel, e, (of_decide_eq_true h) ▸ workOk_fill, by decide +kernel⟩
/-- The same MLOAD after a wait that a command released. -/
def mloadAgain : Fired := { firedOf 0x90 0 0 with waiting := true, released := true }
def mload1 : State := mload0.setBk 768 { fired := [mloadAgain] }

theorem witness_WorkIsLoadedAndRun_resume : ∃ u l, mload1.firedStep 768 (fun f => unacted 0x60 f && f.waiting && f.released) = none
    ∧ mload1.firedStep 768 (fun f => unacted 0x90 f && f.waiting && f.released) = some mloadAgain
    ∧ mload1.fetchVa (mseInit 0) (mload1.en 1).asid (opnd (stepWord 0x90 0) 7 41 * 128) 128 = (u, .bytes l false) ∧ workOk l = true
    ∧ ∀ g ∈ (mload1.bk 768).fired, opOf g.q.word = 0x90 → g.acted = false := by
  obtain ⟨u, l, e, h⟩ := read_exists (mload1.fetchVa (mseInit 0) (mload1.en 1).asid (opnd (stepWord 0x90 0) 7 41 * 128) 128)
    (fun _ l => decide (l = descOf fillBytes)) (by decide +kernel)
  exact ⟨u, l, by decide +kernel, by decide +kernel, e, (of_decide_eq_true h) ▸ workOk_fill, by decide +kernel⟩
theorem witness_WorkIsLoadedAndRun_mrun : (run1.setBk 768 { fired := [firedOf 0x91 0 0] }).firedStep 768 (unacted 0x91) = some (firedOf 0x91 0 0) := by
  decide +kernel

/-- Engine 0 with job 3 running a descriptor; all of each stack is local, the job's pages are mapped. -/
def jobOn (l : List (Nat × Nat)) : State :=
  { ((run1.setJob 0 3 { state := 1, ub := 768, desc := descOf l }).setPc 0 0 { st := .serving }).setTlb 0x330 [⟨0, false, 0, 29⟩] with memRegion := 64 }

/-- Job 3 stands on an operation and each of its reads brings bytes. -/
theorem jobReads_stand (op : Nat) (s : State) (rs : List (Nat × Nat))
    (h : (s.job 0 3).state = 1 ∧ (s.job 0 3).read = false ∧ workOp (s.job 0 3).desc = op ∧ s.stackRuns 0 = true)
    (hr : (match s.jobReads 0 3 rs with | (_, .bytes _ [], ls) => ls.length == rs.length | _ => false) = true) :
    s.jobStands 0 3 op ∧ ∃ u ls, JobReads s u 0 3 rs ls ∧ ls.length = rs.length := by
  refine ⟨h, ?_⟩
  generalize e : s.jobReads 0 3 rs = x at hr
  match x, hr with
  | (u, .bytes l [], ls), hr => exact ⟨u, ls, ⟨l, e⟩, eq_of_beq hr⟩

/-- Reads that a test accepts, as an existence statement. -/
theorem jobReads_exists (s : State) (rs : List (Nat × Nat)) (f : State → List (List Byte) → Bool)
    (h : (match s.jobReads 0 3 rs with | (u, .bytes _ [], ls) => f u ls | _ => false) = true) :
    ∃ u ls, JobReads s u 0 3 rs ls ∧ f u ls = true := by
  generalize e : s.jobReads 0 3 rs = x at h
  match x, h with
  | (u, .bytes l [], ls), h => exact ⟨u, ls, ⟨l, e⟩, h⟩

/-- Whether reads bring one range's bytes, and then those that it names. -/
def thenReads (g : List Byte → List (Nat × Nat)) (v : State) (ls : List (List Byte)) : Bool :=
  ls.length == 1 && (match v.jobReads 0 3 (g (ls.headD [])) with | (_, .bytes _ [], _) => true | _ => false)

/-- A job whose first read names the ranges of a second. -/
theorem jobReads_twice (op : Nat) (s : State) (r : Nat × Nat) (g : List Byte → List (Nat × Nat))
    (h : (s.job 0 3).state = 1 ∧ (s.job 0 3).read = false ∧ workOp (s.job 0 3).desc = op ∧ s.stackRuns 0 = true)
    (hr : (match s.jobReads 0 3 [r] with | (v, .bytes _ [], ls) => thenReads g v ls | _ => false) = true) :
    s.jobStands 0 3 op ∧ ∃ v u i ms, JobReads s v 0 3 [r] [i] ∧ JobReads v u 0 3 (g i) ms := by
  obtain ⟨v, ls, hv, h1⟩ := jobReads_exists s [r] (thenReads g) hr
  unfold thenReads at h1
  rw [Bool.and_eq_true, beq_iff_eq, List.length_eq_one_iff] at h1
  obtain ⟨⟨i, rfl⟩, h2⟩ := h1
  obtain ⟨u, ms, hu, -⟩ := jobReads_exists v (g i) (fun _ _ => true) h2
  exact ⟨h, v, u, i, ms, hv, hu⟩

/-- The descriptor of job 3. -/
def descIn (s : State) : List Byte := (s.job 0 3).desc

/-- GATHER of one row of 64 bytes. -/
def gather0 : State := jobOn [(0, 1), (4, 1), (0xC, 64), (0x21, 0x20)]
theorem witness_JobsCompute_gather : gather0.jobStands 0 3 0x01 ∧ ∃ v u i rows,
    JobReads gather0 v 0 3 [(workAuxA (descIn gather0), 4 * workN (descIn gather0))] [i]
    ∧ JobReads v u 0 3 ((indices i).map (fun k => (workSrc (descIn gather0) + k * workRow (descIn gather0), workRow (descIn gather0)))) rows :=
  jobReads_twice 0x01 gather0 _ (fun i => (indices i).map (fun k => (workSrc (descIn gather0) + k * workRow (descIn gather0), workRow (descIn gather0))))
    (by decide +kernel) (by decide +kernel)
/-- SCATTER_ADD of one row of FP32. -/
def scatter0 : State := jobOn [(0, 2), (1, 0x1C), (4, 1), (0xC, 64), (0x21, 0x20)]
theorem witness_JobsCompute_scatterAdd : scatter0.jobStands 0 3 0x02 ∧ ∃ v u i rows,
    JobReads scatter0 v 0 3 [(workAuxA (descIn scatter0), 4 * workN (descIn scatter0))] [i]
    ∧ JobReads v u 0 3 ((List.range (workN (descIn scatter0))).map
        (fun k => (workSrc (descIn scatter0) + k * workRow (descIn scatter0), workRow (descIn scatter0)))) rows :=
  jobReads_twice 0x02 scatter0 _ (fun _ => (List.range (workN (descIn scatter0))).map
    (fun k => (workSrc (descIn scatter0) + k * workRow (descIn scatter0), workRow (descIn scatter0)))) (by decide +kernel) (by decide +kernel)
/-- A copy of 64 bytes to 0x2000, and one that overlaps. -/
def copy0 (dst : Nat) : State := jobOn [(0, 5), (4, 64), (0x20, dst % 256), (0x21, dst / 256)]
theorem witness_JobsCompute_copy : (copy0 0x2000).jobStands 0 3 0x05 ∧ ∃ u ls,
    JobReads (copy0 0x2000) u 0 3 [(workSrc (descIn (copy0 0x2000)), workN (descIn (copy0 0x2000)))] ls ∧ ls.length = 1 :=
  jobReads_stand 0x05 (copy0 0x2000) _ (by decide +kernel) (by decide +kernel)
theorem witness_JobsCompute_copy_apart : overlaps (workSrc (descIn (copy0 0x2000))) (workDst (descIn (copy0 0x2000))) 64 = false
    ∧ overlaps (workSrc (descIn (copy0 32))) (workDst (descIn (copy0 32))) 64 = true := by decide +kernel
theorem witness_JobsCompute_fill : (jobOn fillBytes).jobStands 0 3 0x06 := by unfold State.jobStands; decide +kernel
/-- REDUCE by addition of two vectors of 16 FP32. -/
def reduce0 : State := jobOn [(0, 3), (1, 0x1C), (4, 16), (8, 2), (0xC, 64), (0x21, 0x20)]
theorem witness_JobsCompute_reduce : reduce0.jobStands 0 3 0x03 ∧ ∃ u ls, JobReads reduce0 u 0 3 (reduceRanges (descIn reduce0)) ls ∧ ls.length = 2 :=
  jobReads_stand 0x03 reduce0 (reduceRanges (descIn reduce0)) (by decide +kernel) (by decide +kernel)
/-- CONVERT of 16 FP32 to BF16. -/
def convert0 : State := jobOn [(0, 4), (1, 0x1C), (2, 0x18), (4, 32), (0x21, 0x20), (0x29, 0x10), (0x31, 0x30)]
theorem witness_JobsCompute_convert : convert0.jobStands 0 3 0x04 ∧ ∃ u ls,
    JobReads convert0 u 0 3 [(workSrc (descIn convert0), workN (descIn convert0) * elemBits (workFmt (descIn convert0)) / 8),
       (workAuxA (descIn convert0), if blockLen (workFmt (descIn convert0)) = 0 then 0 else workN (descIn convert0) / blockLen (workFmt (descIn convert0)))] ls
    ∧ ls.length = 2 :=
  jobReads_stand 0x04 convert0 _ (by decide +kernel) (by decide +kernel)
theorem witness_JobsCompute_convert_placed :
    convert0.unplaced 0 (convert0.en (convert0.ensOf (convert0.job 0 3).ub)).asid
      (blockFuel (workN (descIn convert0) * elemBits (workFmt2 (descIn convert0)) / 8)) (workDst (descIn convert0))
      (workN (descIn convert0) * elemBits (workFmt2 (descIn convert0)) / 8) = none := by decide +kernel
/-- TOPK, the best of 16 FP32. -/
def topk0 : State := jobOn [(0, 7), (1, 0x1C), (4, 16), (8, 1), (0x21, 0x20), (0x29, 0x10)]
theorem witness_JobsCompute_topk : topk0.jobStands 0 3 0x07 ∧ ∃ u ls,
    JobReads topk0 u 0 3 [(workSrc (descIn topk0), (workN (descIn topk0) * elemBits (workFmt (descIn topk0)) + 7) / 8)] ls ∧ ls.length = 1 :=
  jobReads_stand 0x07 topk0 _ (by decide +kernel) (by decide +kernel)
/-- GEMV of one row of 64 E4M3 with an FP32 vector. -/
def gemv0 : State := jobOn [(0, 9), (2, 0x1C), (4, 64), (8, 1), (0xC, 64), (0x21, 0x20)]
theorem witness_JobsCompute_gemv : gemv0.jobStands 0 3 0x09 ∧ ∃ u ls, JobReads gemv0 u 0 3 (gemvRanges (descIn gemv0)) ls ∧ ls.length = 3 :=
  jobReads_stand 0x09 gemv0 (gemvRanges (descIn gemv0)) (by decide +kernel) (by decide +kernel)
/-- ADEC of one query over one token of 64 BF16. -/
def adec0 : State := jobOn [(0, 10), (1, 0x18), (2, 0x18), (4, 1), (8, 1), (0x21, 0x20), (0x3C, 64)]
theorem witness_JobsCompute_adec : adec0.jobStands 0 3 0x0A ∧ ∃ v u i ls,
    JobReads adec0 v 0 3 [(workAuxA (descIn adec0), 4 * ((workN (descIn adec0) + 63) / 64))] [i]
    ∧ JobReads v u 0 3 (adecRanges (descIn adec0) (indices i)) ls :=
  jobReads_twice 0x0A adec0 _ (fun i => adecRanges (descIn adec0) (indices i)) (by decide +kernel) (by decide +kernel)

/-- SCRUB of the line at 0. -/
def scrub0 : State := jobOn [(0, 8), (4, 64)]
theorem witness_JobPiecesAreWritten_scrub : scrub0.jobStands 0 3 0x08 ∧ ∃ u l b va,
    scrub0.scrubRange 0 3 [(0, .corrected)] (workN (descIn scrub0) / 64 + 2) (workSrc (descIn scrub0) + (scrub0.job 0 3).bytes)
      (workN (descIn scrub0) - (scrub0.job 0 3).bytes) = (u, .bytes l b, va) := by
  refine ⟨by unfold State.jobStands; decide +kernel, ?_⟩
  have h : (match scrub0.scrubRange 0 3 [(0, .corrected)] (workN (descIn scrub0) / 64 + 2) (workSrc (descIn scrub0) + (scrub0.job 0 3).bytes)
      (workN (descIn scrub0) - (scrub0.job 0 3).bytes) with
    | (_, .bytes _ _, _) => true | _ => false) = true := by decide +kernel
  match scrub0.scrubRange 0 3 [(0, .corrected)] (workN (descIn scrub0) / 64 + 2) (workSrc (descIn scrub0) + (scrub0.job 0 3).bytes)
      (workN (descIn scrub0) - (scrub0.job 0 3).bytes), h with
  | (u, .bytes l b, va), _ => exact ⟨u, l, b, va, rfl⟩

/-- Job 3 with a piece of four bytes to write at the end of line 0. -/
def pieceJob (p : Piece) : State :=
  { ((run1.setJob 0 3 { state := 1, ub := 768, read := true, pieces := [p] }).setPc 0 0 { st := .serving }).setTlb 0x330 [⟨0, false, 0, 29⟩] with
    memRegion := 64 }

/-- Four bytes, written, or added as FP32, at 60. -/
def piece4 (add : Bool) : Piece := { va := 60, data := [0, 0, 0x80, 0x3F], add := add }

/-- Whether the piece is written where it is placed. -/
def pieceGoes (p : Piece) : Bool :=
  match (pieceJob p).jobPlace 0 3 60 true with
  | (u, .here o) => o == 60 && (u.writePiece 0 3 (u.clusterFor 0 (u.servingPc 0 60)) p false 60).2
      && !(linesOf 60 p.data.length).any (u.hbmBad 0) && !u.hbmBad 0 60
  | _ => false

/-- The piece is placed, and written. -/
theorem pieceJob_goes (p : Piece) (h : pieceGoes p = true) : ∃ u v, (pieceJob p).jobPlace 0 3 60 true = (u, .here 60)
    ∧ u.writePiece 0 3 (u.clusterFor 0 (u.servingPc 0 60)) p false 60 = (v, true)
    ∧ (linesOf 60 p.data.length).any (u.hbmBad 0) = false ∧ u.hbmBad 0 60 = false := by
  unfold pieceGoes at h
  generalize (pieceJob p).jobPlace 0 3 60 true = x at h
  match x, h with
  | (u, .here o), h =>
    rw [Bool.and_eq_true, Bool.and_eq_true, Bool.and_eq_true, beq_iff_eq, Bool.not_eq_true', Bool.not_eq_true'] at h
    exact ⟨u, _, by rw [h.1.1.1], Prod.ext rfl h.1.1.2, h.1.2, h.2⟩

theorem witness_JobPiecesAreWritten_piece : ∀ add : Bool, (pieceJob (piece4 add)).pieceFor 0 3 (0 : BitVec 3).toNat = some (piece4 add)
    ∧ ((pieceJob (piece4 add)).job 0 3).state = 1 ∧ (pieceJob (piece4 add)).stackRuns 0 = true
    ∧ (pieceJob (piece4 add)).otherDue 5 (8 * 0 + (0 : BitVec 3).toNat) = false ∧ 0 < (piece4 add).data.length
    ∧ (piece4 add).va % 64 + (piece4 add).data.length ≤ 64 := by decide +kernel
theorem witness_JobPiecesAreWritten_goes (add : Bool) : ∃ u v, (pieceJob (piece4 add)).jobPlace 0 3 (piece4 add).va true = (u, .here 60)
    ∧ u.writePiece 0 3 (u.clusterFor 0 (u.servingPc 0 60)) (piece4 add) false 60 = (v, true)
    ∧ (linesOf 60 (piece4 add).data.length).any (u.hbmBad 0) = false ∧ u.hbmBad 0 60 = false :=
  pieceJob_goes (piece4 add) (by cases add <;> decide +kernel)
theorem witness_JobPiecesAreWritten_complete : ∃ s : State, (s.job 0 3).state = 1 ∧ (s.job 0 3).read = true ∧ (s.job 0 3).pieces = []
    ∧ (s.job 0 3).spoiled = false ∧ s.firedStep (s.job 0 3).ub (isRunOf 3) = some { firedOf 0x91 0xC0 0 with acted := true } :=
  ⟨(run1.setBk 768 { fired := [{ firedOf 0x91 0xC0 0 with acted := true }] }).setJob 0 3 { state := 1, ub := 768, read := true }, by decide +kernel⟩

/-! ## Witnesses: registers of the floor, HBM controllers -/

theorem witness_RegistersStoreWhatTheirFieldsTake_region : min (fld (64 : W32) 0 7) 64 ≠ live.localGib ∧ live.allQuiet = true ∧ run1.allQuiet = false := by
  decide +kernel
theorem witness_RegistersStoreWhatTheirFieldsTake_ast : fld (0x4000 : W64) 14 26 ≠ live.astBase := by decide +kernel
theorem witness_RegistersStoreWhatTheirFieldsTake_div : divOk 8 = true ∧ divOk 1 = false := by decide +kernel
theorem witness_RegistersStoreWhatTheirFieldsTake_here : linked.portsUp = true ∧ linked.portHere (0 / 64) = true ∧ linked.portHere (63 / 64) = true := by
  decide +kernel
theorem witness_RegistersStoreWhatTheirFieldsTake_bar : (linked.port (0 / 64)).up = true ∧ (linked.port (63 / 64)).up = true
    ∧ bitOf (linked.fn 0).summary 0 = false ∧ barReg 0 0x0004 = none ∧ barReg 1 0x10000 = none := by decide +kernel
theorem witness_RegistersStoreWhatTheirFieldsTake_polling : ∃ s : State, (s.port 0).up = true ∧ bitOf (s.fn 0).summary 0 = true :=
  ⟨linked.setFn 0 { summary := 1 }, by decide +kernel⟩

/-- A request of stream engine 0 for the first piece of block 0 of stack 0. -/
def reqOf (kind : ReqKind) : Req :=
  { stack := 0, block := 0, kind := kind, mask := 1, cls := 1, vcrit := false, init := 0x200, sub := 0, seq := 0, epoch := 0,
    poisoned := false, first := 0, last := 255, data := [], xform := .none }

/-- That request, queued. -/
def queuedOf (kind : ReqKind) : Queued := { req := reqOf kind, order := 0, promoted := false }

/-- Pseudo-channel 0 of stack 0 in a state. -/
def pcIn (v : Pc) : State := linked.setPc 0 0 v

theorem witness_RequestsAreQueuedAndPerformed_states : ∀ st : PcState, st ∈ [.training, .serving, .retraining, .frozen, .evacuating] →
    let s := pcIn { st := st }
    let u := s.takeReq (reqOf .read)
    s.overtakes (s.sameSource (reqOf .read)) (.req (reqOf .read)) = false ∧ (reqOf .read).poisoned = false
    ∧ u.stackOn 0 = true ∧ (u.stk 0).accepted = 0 ∧ (u.homeOf 0 0).1 = 0
    ∧ (u.pc 0 0).st = st ∧ (u.pc 0 0).full (reqOf .read) = false ∧ u.resetting 2 0 = false := by
  intro st h
  fin_cases h <;> decide +kernel
/-- A full write queue: 64 writes. -/
theorem witness_RequestsAreQueuedAndPerformed_full : ∃ s : State, (s.pc 0 0).st = .serving ∧ (s.pc 0 0).full (reqOf .write) = true
    ∧ (s.homeOf 0 0).1 = 0 :=
  ⟨pcIn { st := .serving, writes := List.replicate 64 (queuedOf .write) }, by decide +kernel⟩
/-- An earlier request of the same source; a stack that the variant leaves out; a refuge once a retirement is accepted. -/
theorem witness_RequestsAreQueuedAndPerformed_aside : ∃ s : State,
    s.overtakes (s.sameSource (reqOf .write)) (.req (reqOf .write)) = true
    ∧ (({ linked with variant := .m8l16 } : State).takeReq (reqOf .read)).stackOn 0 = false
    ∧ (((pcIn {}).setStk 0 { accepted := 1 }).takeReq (reqOf .read)).stackOn 0 = true
    ∧ 0 < ((((pcIn {}).setStk 0 { accepted := 1 }).takeReq (reqOf .read)).stk 0).accepted ∧ inRefuge (60 * 2 ^ 30) = true :=
  ⟨{ linked with net := [.req (reqOf .read), .req (reqOf .write)] }, by decide +kernel⟩

/-- A serving pseudo-channel with one request queued. -/
def holding (q : Queued) : State :=
  pcIn (if isRead q.req.kind then { st := .serving, reads := [q] } else { st := .serving, writes := [q] })

/-- A write of a whole block of zeros. -/
def writeReq : Queued := { queuedOf .write with req := { reqOf .write with data := List.replicate 256 0, mask := 15 } }

/-- What it reads is sound, or cannot be corrected. -/
theorem witness_RequestsAreQueuedAndPerformed_checked : ∀ q ∈ [queuedOf .read, queuedOf .scrub, queuedOf .write, queuedOf .add, writeReq],
    (holding q).stackRuns 0 = true ∧ (holding q).pickReq 0 0 (-1) = some q ∧ ((holding q).checkedFor 0 0 q .clean).2 = true
    ∧ ((holding q).checkedFor 0 0 q .clean).1.mirrors = false ∧ (holding q).hbmBad 0 0 = false := by decide +kernel
theorem witness_RequestsAreQueuedAndPerformed_spoiled :
    ((holding (queuedOf .read)).checkedFor 0 0 (queuedOf .read) (.uncorrectable 5)).2 = false := by decide +kernel
/-- A SCATTER_ADD of FP32, which the cluster of pseudo-channel 0 applies. -/
def addXf : Queued := { queuedOf .add with req := { reqOf .add with xform := .scatterAdd 0x1C 0, data := List.replicate 64 0 } }
theorem witness_RequestsAreQueuedAndPerformed_transform : xfOn addXf.req.xform = true ∧ (holding addXf).otherDue 5 ((holding addXf).clusterFor 0 0) = false
    ∧ (holding addXf).stackRuns 0 = true ∧ (holding addXf).pickReq 0 0 (-1) = some addXf ∧ piecesOf addXf.req = [0]
    ∧ ((holding addXf).checkedFor 0 0 addXf .clean).2 = true ∧ ((holding addXf).checkedFor 0 0 addXf .clean).1.mirrors = false
    ∧ (∀ o ∈ checkedLines (queuedOf .scrub).req, (holding (queuedOf .scrub)).hbmBad 0 o = false) := by decide +kernel
theorem witness_RequestsAreQueuedAndPerformed_piece : piecesOf (reqOf .read) = [0] ∧ piecesOf (reqOf .write) = [0]
    ∧ (reqOf .write).first ≤ 64 * 0 ∧ 64 * 0 + 63 ≤ (reqOf .write).last ∧ writeReq.req.data.length = 256
    ∧ piecesOf writeReq.req = [0, 1, 2, 3] := by decide +kernel

theorem witness_ControllersKeepRowsAndErrors_rows : (pcIn { st := .serving, reads := [queuedOf .read] }).stackRuns 0 = true
    ∧ ((pcIn { st := .serving, reads := [queuedOf .read] }).pc 0 0).reads.any (fun q => q.req.init == 0x200 && q.req.seq == 0 && !q.promoted) = true
    ∧ ∀ q ∈ ((pcIn { st := .serving, reads := [queuedOf .read] }).pc 0 0).reads ++ ((pcIn { st := .serving, reads := [queuedOf .read] }).pc 0 0).writes,
        dbankOf q.req.block = 63 → (pcIn { st := .serving, reads := [queuedOf .read] }).rowHit 0 0 q = false := by decide +kernel
/-- Both sides of the refresh rule: the eighth postponed is the last. -/
theorem witness_ControllersKeepRowsAndErrors_refresh : ((pcIn { owed := 7, firstWindow := false }).pc 0 0).owed < 8
    ∧ ¬ ((pcIn { owed := 8, firstWindow := false }).pc 0 0).owed < 8 ∧ ((pcIn { owed := 7, firstWindow := false }).pc 0 0).firstWindow = false := by
  decide +kernel
theorem witness_ControllersKeepRowsAndErrors_scrub : ((pcIn { st := .serving }).pc 0 ((pcIn { st := .serving }).homeOf 0 0).1).st = .serving
    ∧ ((pcIn { st := .serving }).pc 0 0).owed < 8 ∧ ((pcIn { st := .serving }).pc 0 0).reads ++ ((pcIn { st := .serving }).pc 0 0).writes = []
    ∧ (∀ e ∈ [Ecc.clean, .corrected, .uncorrectable 5], (pcIn { st := .serving }).lineFinds 0 0 e = e)
    ∧ (pcIn { st := .serving }).hbmBad 0 0 = false ∧ (pcIn { st := .serving }).hfixed.contains (hbmLine 0 0) = false := by decide +kernel
theorem witness_ControllersKeepRowsAndErrors_waits : (pcIn { st := .serving }).keepsWaiting (0x3A0 + 0) 0 (64 * 0) 3 false = false := by decide +kernel
theorem witness_ControllersKeepRowsAndErrors_parity : ((pcIn { st := .retraining }).pc 0 0).st = .retraining
    ∧ ((pcIn { st := .evacuating }).pc 0 0).st = .evacuating ∧ (pcIn { st := .evacuating }).stackRuns 0 = true ∧ inRefuge 0 = false := by decide +kernel

theorem witness_PseudoChannelsAreTrainedAndRecovered_unfreeze : ∀ cause ∈ [1, 2, 3, 4], (pcIn { st := .frozen, cause := cause }).mayBegin h0 = true
    ∧ ((pcIn { st := .frozen, cause := cause }).chan 1).disabler = none
    ∧ (pcIn { st := .frozen, cause := cause }).stackOn 0 = true ∧ ((pcIn { st := .frozen, cause := cause }).begin h0).isVf h0.chan = false ∧ (pcIn { st := .frozen, cause := cause }).acceptedPc 0 0 = false
    ∧ ((pcIn { st := .frozen, cause := cause }).pc 0 0).st = .frozen ∧ ((pcIn { st := .frozen, cause := cause }).pc 0 0).cause = cause := by decide +kernel
theorem witness_PseudoChannelsAreTrainedAndRecovered_retire : ((pcIn { st := .frozen }).stk 0).accepted < 3 ∧ (pcIn { st := .frozen }).evacuates 0 = none
    ∧ ∀ q ∈ ((pcIn { st := .frozen }).stk 0).retires, ((pcIn { st := .frozen }).pc 0 q).st ≠ .frozen := by decide +kernel
/-- A second retirement while the first evacuates. -/
theorem witness_PseudoChannelsAreTrainedAndRecovered_second : ∃ s : State, s.accepts h0 ∧ s.evacuates 0 = some 1 ∧ (s.pc 0 0).st = .frozen
    ∧ s.acceptedPc 0 0 = false ∧ (s.begin h0).isVf h0.chan = false ∧ (s.stk 0).accepted < 3 :=
  ⟨(pcIn { st := .frozen }).setPc 0 1 { st := .evacuating }, by unfold State.accepts; decide +kernel⟩
theorem witness_PseudoChannelsAreTrainedAndRecovered_evacuated : ∃ s : State, s.evacuates 0 = some 0 ∧ ∀ q ∈ s.dealTo 0 0, (s.pc 0 q).st ≠ .frozen :=
  ⟨pcIn { st := .evacuating }, by decide +kernel⟩
/-- A drift of 10 °C, and three refreshes owed. -/
theorem witness_PseudoChannelsAreTrainedAndRecovered_retrain : ∃ s : State, (s.pc 0 0).st = .serving ∧ 160 ≤ ((s.pc 0 0).curTemp - (s.pc 0 0).temp).natAbs
    ∧ (s.pc 0 0).owed < 4 ∧ ((List.range 64).filter (fun q => (s.pc 0 q).st == .retraining)).length < 8 ∧ (s.pc 0 (0 ^^^ 1)).st ≠ .retraining :=
  ⟨pcIn { st := .serving, curTemp := -160, owed := 3 }, by decide +kernel⟩
/-- A retraining begun that goes on when the temperature has moved back, and a pseudo-channel to be trained. -/
theorem witness_PseudoChannelsAreTrainedAndRecovered_goesOn : ∃ s : State, (s.pc 0 0).st = .serving ∧ 0 < (s.pc 0 0).retrains
    ∧ s.rst.level = .none ∧ s.rst.loading = false ∧ (s.pc 0 1).st = .training :=
  ⟨pcIn { st := .serving, retrains := 3 }, by decide +kernel⟩
theorem witness_PseudoChannelsAreTrainedAndRecovered_repaired : ∃ s : State, (s.pc 0 0).st = .retraining ∧ (s.pc 0 0).repairing = some 7 :=
  ⟨pcIn { st := .retraining, repairing := some 7 }, by decide +kernel⟩
/-- No drift, and a row whose errors recur. -/
theorem witness_PseudoChannelsAreTrainedAndRecovered_repair : ∃ s : State, (s.pc 0 0).st = .serving ∧ ¬ 160 ≤ ((s.pc 0 0).curTemp - (s.pc 0 0).temp).natAbs
    ∧ (s.pc 0 0).badRow ≠ none ∧ (s.pc 0 0).owed < 4 ∧ (s.pc 0 (0 ^^^ 1)).st ≠ .retraining :=
  ⟨pcIn { st := .serving, rowErrs := [(7, 2)] }, by decide +kernel⟩
theorem witness_PseudoChannelsAreTrainedAndRecovered_pieces : ((pcIn { st := .retraining, retrains := 31 }).pc 0 0).retrains < 32
    ∧ 32 ≤ ((pcIn { st := .retraining, retrains := 32 }).pc 0 0).retrains ∧ ((pcIn { st := .retraining, retrains := 32 }).pc 0 0).st = .retraining := by
  decide +kernel

/-! ## Witnesses: verdicts, spares, records -/

theorem witness_NetworkCountersRunInWindows : isLink 416 = true ∧ bitOf live.sample 8 = false ∧ bitOf ({ live with sample := 0x100 } : State).sample 8 = true ∧ bitOf (0x200 : W32) 9 = true ∧ bitOf (0x100 : W32) 8 = true := by decide +kernel

/-- Engine 255's context 7 receiving one block with a PENDING slot. -/
def receiving : State := run1.setCtx 255 7 { ctxOn (4 :: readDesc.drop 1) with slots := [(0, .pending)], next := 1 }

theorem witness_VerdictsSettleSlots : (receiving.ctx 255 7).st = .active ∧ descDir (receiving.ctx 255 7).desc = 4
    ∧ 0 < descTotal (receiving.ctx 255 7).desc ∧ (receiving.ctx 255 7).slotOf 0 = .pending ∧ (receiving.ctx 255 7).low = 0
    ∧ (receiving.ctx 255 7).slotFor 0 = 0 ∧ (receiving.ctx 255 7).done.contains 0 = false ∧ (receiving.ctx 255 7).resuming = false
    ∧ (receiving.ctx 255 7).slots.get .free 0 = .pending := by decide +kernel

/-- Tile 511 and engine 255 wait for a spare, which is promised to them or not. -/
def awaitingSpare (next : Option Nat) (dropped : Bool := false) : State :=
  { run1 with tserv := [(511, { awaiting := true, next, dropped })], sserv := [(255, { awaiting := true, next })] }

theorem witness_PositionsMoveToSpares_tile : ∀ p ∈ [(some 1, false), (none, false), (none, true)],
    ((awaitingSpare p.1 p.2).tserv.get {} 511).awaiting = true ∧ ((awaitingSpare p.1 p.2).tile 511).locating = false
    ∧ (awaitingSpare p.1 p.2).sendsEarly 511 = false
    ∧ (awaitingSpare p.1 p.2).mayMigrate 511 ((awaitingSpare p.1 p.2).tserv.get {} 511).settling = true
    ∧ ((awaitingSpare p.1 p.2).tserv.get {} 511).next = p.1 ∧ ((awaitingSpare p.1 p.2).tserv.get {} 511).dropped = p.2 := by decide +kernel
theorem witness_PositionsMoveToSpares_engine : ∀ n ∈ [some 1, none], ((awaitingSpare n).sserv.get {} 255).awaiting = true
    ∧ ((awaitingSpare n).se 255).atRest = true
    ∧ (awaitingSpare n).atSparing (512 + 255) ((awaitingSpare n).sserv.get {} 255).settling = true
    ∧ (awaitingSpare n).atSparing (1536 + 255) ((awaitingSpare n).sserv.get {} 255).settling = true
    ∧ ((awaitingSpare n).sserv.get {} 255).next = n := by decide +kernel

/-- A period of one COUNTED code with a count. -/
def counting (n : Nat) : State := { live with keeper := { live.keeper with folds := [(1, 2, 3, { count := n })] } }

theorem witness_RecordsReachLogAndRings_count : (counting 1).keeper.folds.any (fun f => f.1 == 1 && f.2.1 == 2 && f.2.2.1 == 3) = true
    ∧ (counting 1).keeper.folds.find? (fun f => f.1 == 1 && f.2.1 == 2 && f.2.2.1 == 3) = some (1, 2, 3, { count := 1 })
    ∧ (counting 0).keeper.folds.find? (fun f => f.1 == 1 && f.2.1 == 2 && f.2.2.1 == 3) = some (1, 2, 3, {}) := by decide +kernel
/-- An event ring of 16 entries with one entry free. -/
theorem witness_RecordsReachLogAndRings_deliver : ∃ s : State, s.eqRoom 1 = true ∧ (s.port (s.chanPort 1)).up = true ∧ (s.chan 1).events = [{}] :=
  ⟨linked.setChan 1 { events := [{}], eqTail := 14, entry := (List.range 64).map (fun k => if k = 0x2A then 4 else 0) }, by decide +kernel⟩

theorem witness_RecordsReachLogAndRings_dropped : ∃ s : State, s.eqRoom 1 = true ∧ (s.port (s.chanPort 1)).up = true ∧ (s.chan 1).events = []
    ∧ 0 < (s.chan 1).dropped :=
  ⟨linked.setChan 1 { dropped := 9, eqTail := 14, entry := (List.range 64).map (fun k => if k = 0x2A then 4 else 0) }, by decide +kernel⟩
theorem witness_RecordsReachLogAndRings_packet : recInit 0 0 ≠ none ∧ recInit 11 0 = none := by decide +kernel


/-! ## Witnesses: the logic fabric -/

/-- Gateway 27 of region 44, enabled, with tile-store access and tokens for ensemble 1. -/
def gwOn : State :=
  (({ run1 with gws := [(27, { ctl := BitVec.ofNat 32 (1 + 2 ^ 11 + 2 ^ 14 + 2 ^ 15), region := 44 })] } : State).setRegion 44
    { st := .active, isolated := false, held := false }).setTlb (gwInit 27) [⟨0, false, 0, 29⟩]

/-- A command word of a gateway: operation, mask, class, and operands from bit 20. -/
def gwWord (op mask cls addr : Nat) : W128 := BitVec.ofNat 128 (op + mask * 16 + cls * 2 ^ 16 + addr * 2 ^ 20)

theorem witness_GatewaysReachMemoryTilesAndUnits_on : gwOn.regionAbsent 27 = false ∧ gwOn.resetting 3 (gwOn.gw 27).region = false
    ∧ bitOf (gwOn.gw 27).ctl 0 = true ∧ (gwOn.gw 27).cmds = [] := by decide +kernel
/-- It with a command taken. -/
def gwGiven (w : W128) : State := gwOn.setGw 27 { gwOn.gw 27 with cmds := [gwTaken (gwOn.gw 27) w []], seq := 1 }

theorem witness_GatewaysReachMemoryTilesAndUnits_memory : ∀ op ∈ [0, 1, 2], fld (gwWord op 1 1 0) 0 3 = op ∧ gwBad (gwWord op 1 1 0) [] = false
    ∧ (gwOn.locate (gwInit 27) (fld (gwOn.gw 27).ctl 1 10) (gwAddr (gwWord op 1 1 0)) (op != 0)).2 = some (.hbm 0 0)
    ∧ ((gwGiven (gwWord op 1 1 0)).locate (gwInit 27) (fld (gwOn.gw 27).ctl 1 10) (gwAddr (gwWord op 1 1 0)) (op != 0)).2 = some (.hbm 0 0) := by
  decide +kernel
/-- Tile 511, its last aligned group of lines. -/
theorem witness_GatewaysReachMemoryTilesAndUnits_tile : ∀ op ∈ [3, 4], fld (gwWord op 15 0 (511 + 57340 * 512)) 0 3 = op
    ∧ gwBad (gwWord op 15 0 (511 + 57340 * 512)) [] = false ∧ bitOf (gwOn.gw 27).ctl 15 = true
    ∧ fld (gwWord op 15 0 (511 + 57340 * 512)) 29 16 = 57340 ∧ gwOn.unitHere (fld (gwWord op 15 0 (511 + 57340 * 512)) 20 9) = true := by
  decide +kernel
theorem witness_GatewaysReachMemoryTilesAndUnits_token : fld (gwWord 5 0 0 0) 0 3 = 5 ∧ gwBad (gwWord 5 0 0 0) [] = false
    ∧ bitOf (gwOn.gw 27).ctl 14 = true ∧ (gwOn.en (fld (gwOn.gw 27).ctl 11 3)).st = .running
    ∧ (gwOn.en (fld (gwOn.gw 27).ctl 11 3)).has 0 = true ∧ gwOn.unitHere 0 = true ∧ gwMask (gwWord 5 1 0 0) ≠ 0
    ∧ gwOn.netRuns 0 = true := by decide +kernel
/-- The TOKEN of gateway 27 on its way to unit 0, a member, and to unit 2, which is none. -/
def gwSent (ub : Nat) : GwCmd := { gwTaken (gwOn.gw 27) (gwWord 5 0 0 ub) [] with sent := true }
def gwTokenOut (ub : Nat) : State := (gwOn.setGw 27 { gwOn.gw 27 with cmds := [gwSent ub], seq := 1 }).send (.token (gwSource 27) ub 0)
theorem witness_GatewaysReachMemoryTilesAndUnits_arrives : ∀ ub ∈ [0, 2], (gwTokenOut ub).tokenSource ub 0 = some (gwSource 27)
    ∧ ((gwTokenOut ub).gw 27).cmds.find? (fun c => c.sent && c.status.isNone && fld c.word 20 10 == unitOf ub && fld c.word 30 4 == 0)
        = some (gwSent ub)
    ∧ ((gwTokenOut ub).runs ub = true ∧ (gwTokenOut ub).ensOf ub = fld (gwSent ub).ctl 11 3 ∧ (gwTokenOut ub).unitHere (unitOf ub) = true ↔ ub = 0)
    ∧ ((gwTokenOut ub).bk ub).tk.get 0 0 < 255 := by decide +kernel
theorem witness_GatewaysReachMemoryTilesAndUnits_response : ∀ st ∈ [1, 2], ∃ (s : State) (c : GwCmd),
    (s.gw 0).cmds.find? (fun c => c.tag == 0 && c.status.isSome) = some c ∧ c.status = some st := by
  intro st _
  exact ⟨live.setGw 0 { cmds := [{ tag := 0, op := 0, word := 0, status := some st }] }, { tag := 0, op := 0, word := 0, status := some st }, rfl, rfl⟩

/-- The static region and region 1 run, every global net runs, and net 0 has a divisor. -/
def fabricOn (d : Nat) : State :=
  (({ live with pins := { live.pins with outputs := true },
                loader := { phase := 4, fclks := (List.range 32).map (fun k => (k, BitVec.ofNat 32 (2 ^ 13 + d) ^^^ fclkReset k)) } } : State).setRegion 0
    { st := .active, isolated := false, held := false }).setRegion 1 { st := .active, isolated := false, held := false }

theorem fabricOn_nets (net : BitVec 5) : (fabricOn 24).netRuns net.toNat = true := by revert net; decide +kernel

/-- Whatever the frames choose, a net that the cluster has runs, and one that does not run stands. -/
theorem witness_TheFabricRunsItsCellsAndDspBlocks_flop : ∃ net : BitVec 5, (fabricOn 24).netRuns net.toNat = true
    ∧ (fabricOn 24).clusterHas 0 net.toNat = true ∧ (fabricOn 24).logicRuns (cellRegion 0) = true ∧ live.logicRuns 0 = false := by
  refine ⟨BitVec.ofNat 5 (fld (Config.clusterNets ((fabricOn 24).regionFrames (cellRegion 0)) 0) 0 5), fabricOn_nets _, ?_, by decide +kernel, by decide +kernel⟩
  unfold State.clusterHas
  simp only [List.any_eq_true, beq_iff_eq]
  exact ⟨0, by simp, by simp [fld, bits]⟩
/-- Both ports' nets run, whichever they are. -/
theorem witness_TheFabricRunsItsCellsAndDspBlocks_bram : (fabricOn 24).logicRuns (bramRegion 0) = true
    ∧ ∀ net : BitVec 5, (fabricOn 24).netRuns net.toNat = true := ⟨by decide +kernel, fabricOn_nets⟩
theorem witness_TheFabricRunsItsCellsAndDspBlocks_pads : (fabricOn 24).padsOn 11 = true ∧ live.padsOn 0 = false := by decide +kernel

/-- Border signal 4,095 of region 44, isolated and not, and a flip-flop of the static region. -/
theorem witness_TheFabricRunsItsCellsAndDspBlocks_border : (fabricOn 24).staticFlop 98303 1 = true ∧ ((fabricOn 24).region 44).isolated = true
    ∧ ((fabricOn 24).region 1).isolated = false := by decide +kernel

/-- Block 6,143 of a region that runs, with one program word. -/
def dspOn (word : Nat) (d : Dsp) : State :=
  ({ live with dsps := [(6143, d)], logic := { live.logic with programs := [(6143, [BitVec.ofNat 24 word])] } } : State).setRegion
    (dspRegion 6143) { st := .active, isolated := false, held := false }

/-- What the fabric presents: RUN, and no coefficient. -/
def dspIn (run : Bool := true) : DspIn := ⟨1, 1, run, true, none⟩

/-- Every instruction with all its operand bits set. -/
theorem witness_TheFabricRunsItsCellsAndDspBlocks : ∀ op ∈ List.range 12,
    (dspOn (op * 2 ^ 20 + (dspUsed op).toNat) { a0 := 1 }).dspRuns 6143 op (dspUsed op) (dspIn) := by
  simp only [State.dspRuns]; decide +kernel
/-- The third repetition of a MAC, with RUN low. -/
theorem witness_TheFabricRunsItsCellsAndDspBlocks_repeat : (dspOn 0x300000 { left := some 3 }).dspRuns 6143 3 0 (dspIn false) := by
  simp only [State.dspRuns]; decide +kernel
/-- A product that arrives in this cycle, and one that does not. -/
theorem witness_TheFabricRunsItsCellsAndDspBlocks_arrives : ∀ w ∈ [1, 3],
    (dspOn 0 { pipe := [⟨w, true, 1, 5⟩] }).dspRuns 6143 0 0 (dspIn) ∧ ((dspOn 0 { pipe := [⟨w, true, 1, 5⟩] }).dsp 6143).pipe = [⟨w, true, 1, 5⟩] := by
  simp only [State.dspRuns]; decide +kernel
/-- RUN low before an instruction; a block stopped by ERR or HALT. -/
theorem witness_TheFabricRunsItsCellsAndDspBlocks_stands : (dspOn 0 {}).dspClocked 6143 = true
    ∧ ((dspOn 0 {}).dspNow 6143 (dspIn false)).samples ((dspOn 0 {}).dspWord 6143) = true ∧ dspOk ((dspOn 0 {}).dspWord 6143) = true
    ∧ ((dspOn 0 { err := true }).dspNow 6143 (dspIn)).err = true ∧ ((dspOn 0 { done := true }).dspNow 6143 (dspIn)).done = true := by decide +kernel
/-- A reserved opcode, and a MOV after REPEAT. -/
theorem witness_TheFabricRunsItsCellsAndDspBlocks_err : dspOk ((dspOn 0xC00000 {}).dspWord 6143) = false
    ∧ ((dspOn 0xC00000 {}).dspNow 6143 (dspIn)).err = false ∧ dspOp ((dspOn 0x600000 { left := some 3 }).dspWord 6143) = 6
    ∧ dspOk ((dspOn 0x600000 { left := some 3 }).dspWord 6143) = true
    ∧ ((dspOn 0x600000 { left := some 3 }).dspNow 6143 (dspIn)).left ≠ none
    ∧ ((dspOn 0x600000 { left := some 3 }).dspNow 6143 (dspIn)).samples ((dspOn 0x600000 { left := some 3 }).dspWord 6143) = false := by decide +kernel
theorem witness_TheFabricRunsItsCellsAndDspBlocks_restart : (dspOn 0 { done := true }).dspClocked 6143 = true
    ∧ ((dspOn 0 { done := true }).dsp 6143).samples ((dspOn 0 { done := true }).dspWord 6143) = true := by decide +kernel

/-! ## Witnesses: personalities -/

theorem witness_LoadsAreRequested : linked.accepts h0 ∧ (linked.begin h0).isVf h0.chan = false
    ∧ (linked.port ((linked.begin h0).chanPort h0.chan)).up = true ∧ linked.hostLost.contains keeperInit = false
    ∧ ({ linked with hostLost := [keeperInit] } : State).accepts h0
    ∧ ({ linked with hostLost := [keeperInit] } : State).hostLost.contains keeperInit = true := by unfold State.accepts; decide +kernel

/-- The slave port taking an image. -/
def imaging : State := { live with loader := { live.loader with cspOn := true } }

theorem witness_TheSlavePortTakesImagesAndFrames_image : live.portsUp = true ∧ live.loader.cspOn = false ∧ imaging.portsUp = true ∧ imaging.loader.cspOn = true
    ∧ imaging.loader.cspImage.length + imaging.loader.cspBytes.length + [(0 : Byte)].length < 512 ∧ bitOf live.keeper.cfg 2 = true := by decide +kernel

/-- Request frames of every operation, REG_WRITE of both widths, and of none; FCRC by a CRC-32C computed outside the model. -/
def frames : List (List Byte) := [
  [1, 0, 0, 0, 0, 0, 1, 0, 218, 87, 182, 214],
  [2, 0, 4, 0, 0, 0, 1, 0, 0, 0, 0, 0, 163, 3, 222, 133],
  [2, 0, 8, 0, 8, 0, 0, 1, 0, 0, 0, 0, 0, 0, 0, 0, 12, 177, 58, 114],
  [3, 0, 0, 0, 16, 0, 0, 1, 221, 7, 99, 76],
  [4, 0, 8, 0, 1, 0, 0, 0, 0, 0, 0, 0, 0, 0, 0, 0, 227, 165, 231, 30],
  [5, 0, 4, 0, 0, 0, 0, 0, 0, 0, 0, 0, 42, 68, 187, 252],
  [6, 0, 8, 0, 0, 0, 0, 0, 20, 0, 0, 0, 1, 0, 0, 0, 191, 61, 76, 182],
  [7, 0, 64, 0, 0, 0, 0, 0] ++ zeros 64 ++ [186, 199, 115, 26],
  [8, 0, 1, 0, 3, 0, 0, 0, 1, 11, 133, 205, 209],
  [16, 0, 33, 0, 0, 0, 0, 0, 1] ++ List.replicate 32 7 ++ [203, 108, 84, 175],
  [17, 0, 1, 0, 0, 0, 0, 0, 3, 8, 242, 131, 65],
  [18, 0, 2, 0, 0, 0, 0, 0, 1, 0, 245, 197, 242, 124],
  [19, 0, 0, 0, 0, 0, 0, 0, 87, 60, 26, 211],
  [20, 0, 0, 0, 0, 0, 0, 0, 83, 57, 67, 41],
  [21, 0, 2, 0, 0, 0, 0, 0, 15, 64, 90, 197, 41, 178],
  [22, 0, 64, 0, 3, 0, 0, 0] ++ zeros 64 ++ [18, 171, 132, 148],
  [23, 0, 0, 0, 1, 0, 0, 0, 130, 20, 66, 47],
  [24, 0, 33, 0, 0, 0, 0, 0] ++ List.replicate 32 9 ++ [255, 79, 19, 112, 196],
  [32, 0, 0, 0, 0, 0, 0, 0, 19, 215, 40, 129]]

/-- The check of a frame with the CRC forced. -/
def frameForced (l : List Byte) : Bool :=
  12 ≤ l.length && l.length == 12 + field l 2 2 && field l 2 2 ≤ 4096
    && field l (l.length - 4) 4 == (crcForced (l.take (l.length - 4)) 0xFFFFFFFF ^^^ 0xFFFFFFFF)

theorem frameForced_eq (l : List Byte) : frameOk l = frameForced l := by
  unfold frameOk frameForced crc32c; rw [crcForced_eq]

theorem frames_forced : ∀ l ∈ frames, frameForced l = true := by decide +kernel

theorem witness_TheSlavePortTakesImagesAndFrames_ok : ∀ l ∈ frames, frameOk l = true := fun l h => (frameForced_eq l).trans (frames_forced l h)
theorem witness_TheSlavePortTakesImagesAndFrames_ops : frames.map (fun l => (field l 0 1, field l 4 4, ((l.drop 8).take (l.length - 12)).length))
    = [(0x01, 0x10000, 0), (0x02, 0x10000, 4), (0x02, 0x1000008, 8), (0x03, 0x1000010, 0), (0x04, 1, 8), (0x05, 0, 4), (0x06, 0, 8), (0x07, 0, 64),
       (0x08, 3, 1), (0x10, 0, 33), (0x11, 0, 1), (0x12, 0, 2), (0x13, 0, 0), (0x14, 0, 0), (0x15, 0, 2), (0x16, 3, 64), (0x17, 1, 0), (0x18, 0, 33),
       (0x20, 0, 0)] := by
  decide +kernel
theorem witness_TheSlavePortTakesImagesAndFrames_bad : frameOk [] = false := by decide
theorem witness_TheSlavePortTakesImagesAndFrames_port : live.mgmtUp .csp = true ∧ live.keeper.cspPort.busy = false ∧ live.keeper.i3cPort.busy = false
    ∧ live.keeper.stopped = false := by
  decide +kernel

/-- A load of a kind, for region 44 where it names one, from host memory behind port A. -/
def loadOf (kind : Nat) : Load :=
  { source := .host 0 0 512, header := (List.range 512).map (fun k => if k = 6 then BitVec.ofNat 8 kind else if k = 0xC ∧ kind = 2 then 44 else 0),
    issuer := some h0, asid := 0, dest := 0, key := 0 }

/-- The loader with that load at its head. -/
def loading (kind : Nat) : State := { linked.begin h0 with loader := { queue := [loadOf kind], phase := 5 } }

theorem witness_PartialTablesAndModelLoads_kinds : ∀ k ∈ [1, 2, 3, 4], (loading k).loader.queue = [loadOf k] ∧ hdrKind (loadOf k).header = k
    ∧ (loadOf k).ended = false := by decide +kernel
theorem witness_PartialTablesAndModelLoads_release : ∃ s u v : State, (s.region 44).release = true ∧ s.releasing 44 = false
    ∧ (s.region 44).st ≠ .active ∧ (u.region 44).release = true ∧ u.releasing 44 = false ∧ (u.region 44).st = .active
    ∧ (v.region 44).release = true ∧ v.releasing 44 = true ∧ (v.region 44).st = .loading
    ∧ v.loader.queue = [{ loadOf 2 with ended := true }] ∧ (v.chan 1).disabler = none ∧ h0.tag ∈ (v.chan 1).inflight :=
  ⟨live.setRegion 44 { st := .loading, release := true }, live.setRegion 44 { st := .active, release := true },
    ({ loading 2 with loader := { queue := [{ loadOf 2 with ended := true }] } } : State).setRegion 44 { st := .loading, release := true },
    by decide +kernel⟩
theorem witness_PartialTablesAndModelLoads_commit : ∃ s : State, s.loader.commit = true ∧ s.modeInBarrier = false ∧ s.ensOf 511 = 8
    ∧ s.ensOf (511 + 1024) = 8 ∧ s.ensOf 0 ≠ 8 :=
  ⟨{ run1 with loader := { run1.loader with commit := true } }, by decide +kernel⟩
/-- A model load whose port is down, and the one who asked still in flight. -/
theorem witness_PartialTablesAndModelLoads_lost : ∃ s : State, s.loader.queue = [loadOf 4]
    ∧ (((s.modHead (fun l => { l with begun := true })).cspPull).payload (loadOf 4)).2.2 = true
    ∧ (((s.modHead (fun l => { l with begun := true })).cspPull).chan 1).disabler = none
    ∧ h0.tag ∈ (((s.modHead (fun l => { l with begun := true })).cspPull).chan 1).inflight :=
  ⟨(loading 4).setPort 0 {}, by decide +kernel⟩

theorem witness_StaticImagesBootAndRelease_boot : ∃ s : State, s.loader.phase = 1 ∧ (s.slot 0).valid = false ∧ (s.slot 1).valid = false :=
  ⟨{ live with loader := { phase := 1 } }, by decide +kernel⟩
theorem witness_StaticImagesBootAndRelease_done : ∃ s u : State, s.loader.phase = 2 ∧ s.loader.doneHigh = 30 ∧ u.loader.phase = 2 ∧ u.loader.doneHigh = 31 :=
  ⟨{ live with loader := { phase := 2, doneHigh := 30 } }, { live with loader := { phase := 2, doneHigh := 31 } }, by decide +kernel⟩
theorem witness_StaticImagesBootAndRelease_stages : ∀ n ∈ [0, 1, 2], ∃ s : State, s.loader.phase = 3 ∧ s.loader.relStage = n ∧ 44 ∈ s.loader.bootRegions := by
  intro n _
  exact ⟨{ live with loader := { phase := 3, relStage := n, bootRegions := [0, 44] } }, rfl, rfl, by simp⟩

/-! ## Witnesses: resets -/

theorem witness_ResetsClearKeepAndLoadOptions_levels : live.rst.level = .none ∧ live.rst.loading = false ∧ live.rst.pllLost = false
    ∧ State.reset.rst.level = .power ∧ State.reset.rst.tripped = none := by decide +kernel
theorem witness_ResetsClearKeepAndLoadOptions_load : ∃ s : State, s.rst.level = .none ∧ s.rst.loading = true ∧ s.sec.present = true :=
  ⟨{ live with rst := { loading := true }, sec := { present := true } }, by decide +kernel⟩

/-! ## Witnesses: block and port resets, governance -/

/-- Tile 511 RESET_BLOCK of ensemble 1; a serving pseudo-channel; an active region. -/
def blocks : State := (linked.setPc 0 0 { st := .serving }).setRegion 44 { st := .active, isolated := false, held := false }

theorem witness_BlocksAndPortsAreReset_host : blocks.accepts h0 ∧ (blocks.begin h0).isVf h0.chan = false
    ∧ (∀ b ∈ [(0, 511), (1, 255), (2, 0), (3, 44)], blocks.resetRefusal ⟨b.1, b.2⟩ = none)
    ∧ blocks.resetRefusal ⟨4, 3⟩ = none ∧ 3 / 2 ≠ (blocks.begin h0).chanPort h0.chan / 2 := by
  unfold State.accepts; decide +kernel
theorem witness_BlocksAndPortsAreReset_fault : ∀ st ∈ [EnsState.running, .loaded, .done], ((ensIn st).en 1).has (blockUnit ⟨0, 0⟩) = true
    ∧ ((ensIn st).en 1).st = st ∧ (ensIn st).resetRefusal ⟨0, 0⟩ = none := by decide +kernel
theorem witness_BlocksAndPortsAreReset_port : live.mgmtQuiet .i3c ∧ live.mgmtQuiet .csp := by unfold State.mgmtQuiet State.mgmtFree; decide +kernel
theorem witness_BlocksAndPortsAreReset_idle : ∀ b ∈ [(0, 511), (1, 255), (2, 0), (3, 44), (4, 3)], ∀ p ∈ [Option.none, some (MPort.csp, (7 : Byte))],
    ({ blocks.begin h0 with rst := { waits := [⟨⟨b.1, b.2⟩, some h0, p⟩] } } : State).rst.waits.find? (fun w => w.block == ⟨b.1, b.2⟩)
      = some ⟨⟨b.1, b.2⟩, some h0, p⟩
    ∧ ({ blocks.begin h0 with rst := { waits := [⟨⟨b.1, b.2⟩, some h0, p⟩] } } : State).blockIdle ⟨b.1, b.2⟩ = true := by decide +kernel
theorem witness_BlocksAndPortsAreReset_issuer : ((blocks.begin h0).chan h0.chan).disabler = none ∧ h0.tag ∈ ((blocks.begin h0).chan h0.chan).inflight := by
  decide +kernel
theorem witness_BlocksAndPortsAreReset_forced : ∃ (s : State) (w : BlockWait), s.rst.waits.find? (fun w => w.block == ⟨2, 0⟩) = some w
    ∧ s.blockIdle ⟨2, 0⟩ = false :=
  ⟨{ pcIn { st := .serving, reads := [queuedOf .read] } with rst := { waits := [⟨⟨2, 0⟩, none, none⟩] } }, ⟨⟨2, 0⟩, none, none⟩, by decide +kernel⟩
theorem witness_BlocksAndPortsAreReset_training : live.portsUp = true ∧ live.split 1 = false
    ∧ ({ live with keeper := { live.keeper with splitNow := 3 } } : State).split 1 = true := by decide +kernel

theorem witness_IntervalsSensorsAndRailsGovern_watched : live.watched = true ∧ live.keeperRuns = true ∧ live.gov.hot = false ∧ live.gov.current ≤ 1
    ∧ State.reset.watched = false := by decide +kernel
theorem witness_IntervalsSensorsAndRailsGovern_hold : ∃ s : State, s.watched = true ∧ s.keeperRuns = true ∧ 1 < s.gov.current :=
  ⟨{ live with gov := { live.gov with current := 2 } }, by decide +kernel⟩
theorem witness_IntervalsSensorsAndRailsGovern_rising : ∃ s : State, (s.dom 24).rising = true := ⟨live.setDom 24 { rising := true }, by decide +kernel⟩
/-- T_HOT itself is hot, 1/16 °C below it is not. -/
theorem witness_IntervalsSensorsAndRailsGovern_hot : 16 * (live.limit 0x04 : Int) ≤ 16 * live.limit 0x04 ∧ (16 * live.limit 0x04 - 1 : Int) < 16 * live.limit 0x04 := by
  decide +kernel
/-- Sensor 0 hot, and a reading below the limit of a hot part. -/
theorem witness_IntervalsSensorsAndRailsGovern_cools : ∃ s : State, s.watched = true ∧ s.gov.hot = true ∧ s.gov.temps = [(0, 1700)]
    ∧ (0 : Int) < 16 * s.limit 0x04 :=
  ⟨{ live with gov := { live.gov with hot := true, temps := [(0, 1700)] } }, by decide +kernel⟩
/-- A trip in a power-on reset, and a reset that a trip holds. -/
theorem witness_IntervalsSensorsAndRailsGovern_reset : State.reset.rst.level = .power ∧ ∃ s : State, s.rst.level = .system ∧ s.rst.tripped ≠ none :=
  ⟨by decide +kernel, { live with rst := { level := .system, tripped := some 0 } }, by decide +kernel⟩
theorem witness_IntervalsSensorsAndRailsGovern_trip : tripPoint 1023 ≤ 2000 ∧ live.rst.level ≠ .power := by decide +kernel
theorem witness_IntervalsSensorsAndRailsGovern_rail : ∃ s : State, s.rst.level = .none ∧ s.pins.outputs = true :=
  ⟨{ live with pins := { live.pins with outputs := true } }, rfl, rfl⟩

/-! ## Witnesses: the host interface -/

/-- Function 0 polled. -/
def polled : State := linked.setFn 0 { summary := 0x41 }

theorem witness_DoorbellsCompletionsAndInterrupts_poll : bitOf (polled.fn 0).summary 0 = true ∧ (polled.port (0 / 64)).up = true
    ∧ polled.portHere (0 / 64) = true ∧ polled.rst.pllLost = false ∧ polled.portHere 0 = true ∧ bitOf (polled.fn (64 * 0)).summary 0 = true := by decide +kernel

/-- A channel-table entry with rings of 16; CHECK by a CRC-32C computed outside the model. -/
def chanEntryBytes : List (Nat × Nat) := [(0, 1), (0x28, 4), (0x29, 4), (0x7C, 0x69), (0x7D, 0xDC), (0x7E, 0xCE), (0x7F, 0x4C)]

/-- A completion. -/
def complOf : Compl := { tag := 7, opcode := 0, status := 0, result := 0, detail := 0, irq := true }

/-- Channel 5 enabled, with completions that wait and its ring one short of full. -/
def chan5 : State := linked.setChan 5 { enabled := true, entry := descOf chanEntryBytes, compls := [complOf, complOf], cqTail := 14, signalNow := true }

theorem witness_DoorbellsCompletionsAndInterrupts_reread : (chan5.chan 5).compls ≠ [] ∧ (chan5.chan 5).enabled = true
    ∧ (chan5.port (chan5.ownerOf 5)).up = true := by decide +kernel
theorem witness_DoorbellsCompletionsAndInterrupts_doorbell : chan5.badDoorbell 5 [15, 0, 14, 0, 0, 0] = false ∧ chan5.badDoorbell 5 [16, 0, 14, 0, 0, 0] = true
    ∧ chan5.badDoorbell 5 [15, 0, 15, 0, 0, 0] = true := by decide +kernel
theorem witness_DoorbellsCompletionsAndInterrupts_write : (chan5.chan 5).compls = [complOf, complOf] ∧ chan5.cqRoom 5 = true
    ∧ (chan5.chan 5).disabler = none := by decide +kernel
theorem witness_DoorbellsCompletionsAndInterrupts_interrupt : (chan5.chan 5).signalNow = true
    ∧ ((chan5.fn (chan5.chanFn 5)).vectors.get {} (chan5.chanVector 5)).masked = true := by decide +kernel
/-- Read data of host memory behind another answer. -/
theorem witness_DoorbellsCompletionsAndInterrupts_timeout : ∃ (s : State) (r : Resp) (pre post : List Packet), s.net = pre ++ .resp r :: post
    ∧ 64 ≤ r.stack ∧ r.stack < 68 ∧ ∀ x, Packet.resp x ∈ pre → x.init ≠ r.init ∨ x.sub ≠ r.sub ∨ x.seq ≠ r.seq :=
  ⟨{ live with net := [.absent 0, .resp ⟨0x200, 0, 0, 64, 0, 1, 0, 0, [], 15⟩] }, ⟨0x200, 0, 0, 64, 0, 1, 0, 0, [], 15⟩, [.absent 0], [], rfl,
    by decide, by decide, by intro x h; simp at h⟩

/-- A host access of function 0's initiator, which no answer is on its way to. -/
theorem witness_DoorbellsCompletionsAndInterrupts_lost : live.mayLose 0x370 = true ∧ live.hostLost.contains 0x370 = false ∧ live.net = [] := by decide +kernel

/-- The admin ring of port A. -/
def adm : Issuer := ⟨4096, 9, false, false, true⟩

/-- The channel table of port A, at 0, with the entry of channel 5. -/
def tabled : State := hostBytes (chanEntryBytes.map (fun p => (p.1 + 640, p.2))) linked

/-- An entry's rules with the CRC forced. -/
def entryForced (s : State) (e : List Byte) : Bool :=
  decide (crcForced (overlay e 0x7C (zeros 4)) 0xFFFFFFFF ^^^ 0xFFFFFFFF = field e 0x7C 4)
    && (let w := field e 0 4
        bit w 0 && (!s.split (5 / 2048) || bits w 1 6 < 32) && (bits w 1 6 == 0 || bits w 21 11 < 64)
          && field e 8 8 % 4096 == 0 && field e 0x10 8 % 4096 == 0 && field e 0x18 8 % 4096 == 0 && field e 0x20 8 % 8 == 0
          && logOk (field e 0x28 1) && logOk (field e 0x29 1) && (field e 0x2A 1 == 0 || logOk (field e 0x2A 1)) && zeroAt e 0x2B 81)

theorem entryForced_ok (s : State) (e : List Byte) (h : entryForced s e = true) : s.entryOk 5 e = true := by
  unfold entryForced at h
  rw [Bool.and_eq_true] at h
  have c : checkOk e 0x7C = true := by
    unfold checkOk crc32c
    rw [crcForced_eq, of_decide_eq_true h.1]
    exact beq_self_eq_true _
  simpa [State.entryOk, c] using h.2

theorem witness_HostCommandsActAndComplete_enable : tabled.accepts adm ∧ (tabled.begin adm).mayControl adm 5 = true ∧ (tabled.chan 5).enabled = false
    ∧ (tabled.chan 5).disabler = none ∧ tabled.entryOk 5 (tabled.readChanEntry 5) = true := by
  refine ⟨by unfold State.accepts; decide +kernel, by decide +kernel, by decide +kernel, by decide +kernel, entryForced_ok _ _ (by decide +kernel)⟩
theorem witness_HostCommandsActAndComplete_disable : (tabled.chan 5).fetched = [] ∧ (tabled.chan 5).inflight = [] ∧ (tabled.chan 5).compls = []
    ∧ tabled.sync = [] := by decide +kernel
/-- T_TARGET at the low end of its range. -/
theorem witness_HostCommandsActAndComplete_limits : linked.accepts h0 ∧ (linked.begin h0).isVf h0.chan = false
    ∧ linked.limitsOk (usedPairs [(0x03, 70), (0, 0)]) = true := by unfold State.accepts; decide +kernel
theorem witness_HostCommandsActAndComplete_query : (linked.begin h0).mayQuery h0 2 1 = true
    ∧ ∃ l, (linked.begin h0).queryItem 2 1 = .ok l ∧ l.length ≤ 4096 ∧ (linked.port ((linked.begin h0).chanPort h0.chan)).up = true :=
  ⟨by decide +kernel, _, rfl, by decide +kernel, by decide +kernel⟩

/-- A COPY of four bytes within host memory reads and writes. -/
theorem witness_HostCommandsActAndComplete_copy : linked.accepts h0 ∧ (linked.begin h0).copyRefusal h0 64 4 0 0 0 = none
    ∧ ∃ u v g b l, (linked.begin h0).copyRead h0 0 0 (blockFuel 4) 0 4 = (u, .bytes g b, l)
      ∧ u.copyWrite h0 0 0 (4 / 64 + 2) 64 l = (v, .done) := by
  refine ⟨by unfold State.accepts; decide +kernel, by decide +kernel, ?_⟩
  have h : (match (linked.begin h0).copyRead h0 0 0 (blockFuel 4) 0 4 with
    | (u, .bytes _ _, l) => decide ((u.copyWrite h0 0 0 (4 / 64 + 2) 64 l).2 = .done) | _ => false) = true := by decide +kernel
  generalize (linked.begin h0).copyRead h0 0 0 (blockFuel 4) 0 4 = x at h
  match x, h with
  | (u, .bytes g b, l), h => exact ⟨u, _, g, b, l, rfl, Prod.ext rfl (of_decide_eq_true h)⟩
/-- The longest copy within one block of 64 bytes. -/
theorem witness_HostCommandsActAndComplete_copyHost : linked.accepts h0
    ∧ linked.hostLost.contains ((linked.begin h0).hostTlb h0.chan) = false ∧ 64 % 4 = 0 ∧ 128 % 64 + 64 ≤ 64 := by
  unfold State.accepts; decide +kernel

/-- A pair with its second part known. -/
theorem second_exists {α β : Type} (x : α × β) (b : β) (h : x.2 = b) : ∃ u, x = (u, b) := ⟨x.1, Prod.ext rfl h⟩

/-- A MAP_PAGES of one entry, which writes eight zero bytes at device address 0. -/
theorem witness_HostCommandsActAndComplete_map : (pcIn { st := .serving }).accepts h0 ∧ ((pcIn { st := .serving }).begin h0).isVf h0.chan = false
    ∧ (pcIn { st := .serving }).mapWaits = [] ∧ ((pcIn { st := .serving }).port (((pcIn { st := .serving }).begin h0).chanPort h0.chan)).up = true
    ∧ (pcIn { st := .serving }).rangeBusy { issuer := h0, asid := 0, all := true, va := 0, len := 0 } = false := by
  unfold State.accepts; decide +kernel
theorem witness_HostCommandsActAndComplete_mapped : ∃ x bytes u,
    ((pcIn { st := .serving }).begin h0).hostFetch (((pcIn { st := .serving }).begin h0).hostTlb h0.chan)
      (((pcIn { st := .serving }).begin h0).chanPort h0.chan) 0 16 = (x, some bytes)
    ∧ x.writeEntries (x.hostTlb h0.chan) (chunks 16 1 bytes) = (u, .done) := by
  have h : (match ((pcIn { st := .serving }).begin h0).hostFetch (((pcIn { st := .serving }).begin h0).hostTlb h0.chan)
      (((pcIn { st := .serving }).begin h0).chanPort h0.chan) 0 16 with
    | (x, some bytes) => decide ((x.writeEntries (x.hostTlb h0.chan) (chunks 16 1 bytes)).2 = .done) | _ => false) = true := by decide +kernel
  generalize ((pcIn { st := .serving }).begin h0).hostFetch (((pcIn { st := .serving }).begin h0).hostTlb h0.chan)
      (((pcIn { st := .serving }).begin h0).chanPort h0.chan) 0 16 = y at h
  match y, h with
  | (x, some bytes), h => exact ⟨x, bytes, _, rfl, Prod.ext rfl (of_decide_eq_true h)⟩
theorem witness_HostCommandsActAndComplete_busy : (streaming readDesc).rangeBusy { issuer := h0, asid := 0, all := true, va := 0, len := 0 } = false
    ∧ ((streaming readDesc).setCtx 0 0 { ctxOn readDesc with outs := [oneOut] }).rangeBusy { issuer := h0, asid := 0, all := false, va := 0, len := 65536 } = true := by
  decide +kernel

/-! ## Witnesses: Zegus links -/

/-- Link die 15 UP, its translation of page 0 to HBM that peers may reach, and the device's ports enabled for peers. -/
def peerUp : State :=
  ({ (linked.setPc 0 0 { st := .serving }).setLink 15 { st := .up } with
    zegus := { ((linked.setPc 0 0 { st := .serving }).setLink 15 { st := .up }).zegus with ctl := 1 } } : State).setTlb (linkInit 15) [⟨0, false, 0, 61⟩]

/-- A read that answers with bytes. -/
theorem got_exists (x : State × Got) (h : (match x.2 with | .bytes _ b => !b | _ => false) = true) : ∃ v l, x = (v, .bytes l false) := by
  match x, h with
  | (v, .bytes l false), _ => exact ⟨v, l, rfl⟩

/-- A frame for the device from device 3. -/
def frameOf (type : BitVec 4) (vc : BitVec 2) : Frame :=
  { dst := 0x3FFF, src := 3, vc := vc, type := type, ttl := 15, len := 15, vstate := 0, epoch := 0, lseq := 0, lack := 0, cred := 0, sid := 0,
    tseq := 0, addr := 0, data := [] }

theorem witness_FramesOfPeersAreDelivered_received : ∀ p ∈ [((0x0 : BitVec 4), (0 : BitVec 2)), (0x3, 1), (0x2, 0), (0x4, 1), (0x1, 0), (0x5, 1), (0x6, 1), (0x8, 3)],
    (peerUp.link 15).st = .up ∧ (frameOf p.1 p.2).lseq = (peerUp.link 15).rxSeq ∧ peerUp.isHere (frameOf p.1 p.2).dst = true := by decide +kernel
theorem frameOf_received (s : State) (type : BitVec 4) (vc : BitVec 2)
    (h : s.rst.pllLost = false ∧ (s.link 15).st = .up ∧ (0 : BitVec 16) = (s.link 15).rxSeq ∧ s.isHere 0x3FFF = true) : s.receives 15 (frameOf type vc) type.toNat vc.toNat :=
  ⟨by decide, h.1, h.2.1, h.2.2.1, rfl, rfl, h.2.2.2⟩
/-- A pair whose second part is known and whose first has a property. -/
theorem split_exists {α β : Type} (x : α × β) {b : β} (P : α → Prop) (h : x.2 = b) (hp : P x.1) : ∃ u, x = (u, b) ∧ P u := by
  subst h; exact ⟨x.1, rfl, hp⟩
/-- The writes of a PUT of four pieces, from the state in which its address is placed. -/
def putRuns (u : State) : State × Put :=
  (pieceRuns (frameOf 0 0).len (frameOf 0 0).data).foldl (fun (x : State × Put) (j : Nat × List Byte) => match x with
    | (s, .done) => s.writePlace (linkInit 15) (.hbm 0 (0 + j.1)) j.2 ((frameOf 0 0).vstate == 2) ((frameOf 0 0).addr.toNat / 256 * 256)
    | x => x) (u, Put.done)
/-- Where it is placed. -/
def putPlaced : State × Option (Except Nat (Nat × Nat)) := (peerUp.accepted 15 (frameOf 0 0)).remotePlace 15 0 true
theorem witness_FramesOfPeersAreDelivered_put : peerUp.receives 15 (frameOf 0 0) 0 0 ∧ bitOf peerUp.zegus.ctl 0 = true
    ∧ ∃ u, putPlaced = (u, some (.ok (0, 0))) ∧ ∃ v, putRuns u = (v, Put.done) :=
  ⟨frameOf_received peerUp 0 0 (by decide +kernel), by decide +kernel, split_exists putPlaced (fun u => ∃ v, putRuns u = (v, Put.done))
    (by decide +kernel) (second_exists _ _ (by decide +kernel))⟩
theorem witness_FramesOfPeersAreDelivered_get : peerUp.receives 15 (frameOf 3 1) 3 1 ∧ bitOf peerUp.zegus.ctl 0 = true
    ∧ ∃ u, (peerUp.accepted 15 (frameOf 3 1)).remotePlace 15 0 false = (u, some (.ok (0, 0)))
      ∧ ∃ v l, u.readPlace (linkInit 15) (.hbm 0 0) 256 0 = (v, .bytes l false) :=
  ⟨frameOf_received peerUp 3 1 (by decide +kernel), by decide +kernel, _, Prod.ext rfl (by rfl), got_exists _ (by decide +kernel)⟩

/-- A transaction of engine 255's context 7 that waits for a peer. -/
def peerPart : Part := { stack := atPeer, block := 0, pieces := [(3, 192)] }
def peerOut : Out := { t := 0, parts := [peerPart] }
/-- That context on a descriptor, over the link. -/
def peerCtxOn (d : List Byte) : State := peerUp.setCtx 255 7 { ctxOn d with outs := [peerOut], next := 1 }

theorem witness_FramesOfPeersAreDelivered_answers : ∀ d ∈ [readDesc, writeDesc], sidEngine 2047 = some (255, 7) ∧ ((peerCtxOn d).ctx 255 7).st = .active
    ∧ landsInRing ((peerCtxOn d).ctx 255 7).desc = (d == readDesc) ∧ ((peerCtxOn d).ctx 255 7).outs.find? (fun o => o.awaits 0 atPeer 0) = some peerOut
    ∧ peerOut.part? atPeer 0 = some peerPart ∧ ((peerCtxOn d).link 15).st = .up ∧ (2047 : BitVec 16).toNat ≠ adoptSid := by decide +kernel
/-- What those two statements ask of the transaction beyond that. -/
theorem witness_FramesOfPeersAreDelivered_whole : (frameOf 2 0).len = 15 ∧ peerOut.failed = false ∧ peerOut.parts = [peerPart] ∧ peerPart.pieces = [(3, 192)]
    ∧ (peerCtxOn readDesc).epochFits ((peerCtxOn readDesc).ctx 255 7).ub (frameOf 2 0).epoch = true := by decide +kernel
/-- The same context receiving from engine 0, context 0 of device 3. -/
def ringDesc : List Byte := overlay (overlay (4 :: readDesc.drop 1) 0x52 [3, 0]) 0x58 [0, 2]
def ringCtx : State := peerUp.setCtx 255 7 { ctxOn ringDesc with slots := [(0, .reserved)], next := 1 }
theorem witness_FramesOfPeersAreDelivered_ring : (ringCtx.ctx 255 7).takesFrom 3 0 0 = true ∧ (ringCtx.ctx 255 7).notArrived 0 = true
    ∧ ringCtx.unitHere (512 + 255) = true ∧ bitOf ringCtx.zegus.ctl 0 = true
    ∧ frameCtx { frameOf 1 0 with addr := 0x1EFF } = some (255, 7) := by decide +kernel
theorem witness_FramesOfPeersAreDelivered_arrive : peerUp.receives 15 (frameOf 6 1) 6 1 := frameOf_received peerUp 6 1 (by decide +kernel)

/-- A BARRIER frame of a kind about device 5. -/
def barrierOf (kind : Byte) : Frame := { frameOf 8 3 with data := [kind, 0, 5, 0] }

/-- Device 3 is the understudy of device 5, and every route leads to link die 15. -/
def routed : State := { peerUp with zegus := { peerUp.zegus with routes := [(5, BitVec.ofNat 64 (2 ^ 30 + 3 * 2 ^ 16 + 2 ^ 15)), (7, BitVec.ofNat 64 (2 ^ 30 + 2 ^ 15))] } }

theorem witness_BarriersRedirectAndFramesGoOn : ∀ k ∈ [(0 : Byte), 1, 2], routed.receives 15 (barrierOf k) 8 3 ∧ barrierKind (barrierOf k) = k.toNat := by
  unfold State.receives; decide +kernel
theorem witness_BarriersRedirectAndFramesGoOn_adopt : bitOf (Map.get routed.zegus.routes 0 (barrierDev (barrierOf 1))) 30 = true
    ∧ BitVec.ofNat 14 (fld (Map.get routed.zegus.routes 0 (barrierDev (barrierOf 1))) 16 14) = (barrierOf 1).src ∧ (barrierOf 1).src ≠ 0x3FFF
    ∧ Map.get routed.zegus.redirects 0x3FFF (barrierOf 1).src.toNat = 0x3FFF := by decide +kernel
theorem witness_BarriersRedirectAndFramesGoOn_forward : typeVc 0 = some 0 ∧ routed.isHere 7 = false
    ∧ (routed.linkFor { frameOf 0 0 with dst := 7 }).isSome = true := by decide +kernel

/-- Link die 15 in a state. -/
def linkIn (l : Link) : State := linked.setLink 15 l

theorem witness_LinksTrainRetryAndRecover_nack : ((linkIn { st := .up }).link 15).st = .up
    ∧ ((linkIn { st := .up, nackSeq := some 3, nacks := 6 }).link 15).absorbLack 3 = { st := .up, nackSeq := some 3, nacks := 6 }
    ∧ ((linkIn { st := .up, nackSeq := some 3, nacks := 7 }).link 15).absorbLack 3 = { st := .up, nackSeq := some 3, nacks := 7 } := by decide +kernel
theorem witness_LinksTrainRetryAndRecover_states : ∀ st ∈ [LinkState.training, .recovery, .ident, .refused, .up], ((linkIn { st := st }).link 15).st = st := by
  decide +kernel
/-- The second and the third failed retraining. -/
theorem witness_LinksTrainRetryAndRecover_failed : ((linkIn { st := .recovery, failed := 1 }).link 15).failed < 2 ∧ 2 ≤ ((linkIn { st := .recovery, failed := 2 }).link 15).failed := by
  decide +kernel
theorem witness_LinksTrainRetryAndRecover_ident : ((linkIn { st := .ident, mapDev := 3, mapDie := 2 }).link 15).mapDev = 3 ∧ ((linkIn { st := .ident, mapDev := 3, mapDie := 2 }).link 15).mapDie = 2 := by
  decide +kernel
theorem witness_LinksTrainRetryAndRecover_lane : ((linkIn { st := .up, active := List.range 16 }).link 15).active.contains 15 = true
    ∧ ((linkIn { st := .up, active := List.range 16 }).link 15).spares.contains 17 = true
    ∧ ∀ k ∈ ((linkIn { st := .up, active := List.range 16 }).link 15).active, ((linkIn { st := .up, active := List.range 16 }).hl (4192 + 18 * 15 + k)).st ≠ .retired := by
  decide +kernel
theorem witness_StalledChannelsAreRecordedAndWait : ∃ s : State, (s.link 15).st = .up ∧ Map.get (s.link 15).credits 0 3 = 0
    ∧ (s.link 15).waiting.any (fun f => f.vc == 3) = true :=
  ⟨linkIn { st := .up, waiting := [frameOf 8 3] }, by decide +kernel⟩

/-! ## Witnesses: the partnership -/

/-- The partnership in a state, its link up, device 9 the partner. -/
def pairIn (p : Partner) : State := { pcIn { st := .serving } with partner := { p with id := 9, link := .up } }

theorem witness_ThePairJoinsPartsAndDecides_link : ({ live with partner := { link := .training } } : State).partner.link = .training
    ∧ ({ live with partner := { link := .ident, id := 9, st := .linking } } : State).partner.link = .ident := by decide +kernel
theorem witness_ThePairJoinsPartsAndDecides_states : ∀ st ∈ [PairState.linking, .paired, .partitioned, .severed, .takenOver],
    (pairIn { st := st }).partner.st = st ∧ (pairIn { st := st }).partner.linkUp = true ∧ (pairIn { st := st }).portsUp = true
    ∧ (pairIn { st := st }).rst.pllLost = false
    ∧ (pairIn { st := st }).partner.st ≠ .bench ∧ (pairIn { st := st }).partner.st ≠ .fenced ∧ (pairIn { st := st }).partner.releasing = false
    ∧ (pairIn { st := st }).partner.admission ≠ .handingBack := by decide +kernel

/-- A device that asks three peers, with one answer of each kind so far. -/
def asking : State := { peerUp with partner := { st := .severed, id := 9, asked := [3, 4, 5], oks := [4], refusals := [5] } }

theorem witness_ThePairJoinsPartsAndDecides_asked : asking.receives 15 { frameOf 4 1 with sid := 0x1000 } 4 1
    ∧ ({ frameOf 4 1 with sid := 0x1000 } : Frame).sid.toNat = adoptSid ∧ asking.partner.st = .severed
    ∧ 3 ∈ asking.partner.asked ∧ 3 ∉ asking.partner.oks ∧ 3 ∉ asking.partner.refusals ∧ asking.partner.asked ≠ []
    ∧ asking.partner.asked.length < 2 * (asking.partner.oks.length + 1) ∧ asking.partner.asked.length ≤ 2 * (asking.partner.refusals.length + 1)
    ∧ 2 * asking.partner.oks.length ≤ asking.partner.asked.length := by
  unfold State.receives; decide +kernel

/-- Ensemble 1 at a MARK bar, in a pair. -/
def marking (p : Partner) : State := { run1.setEn 1 { run1.en 1 with markAt := some 128 } with partner := p }

theorem witness_MarkMakesACheckpoint : ∀ p ∈ [({ } : Partner), { st := .paired }, { st := .takenOver, admission := .handingBack, adopted := [1] }],
    ((marking p).en 1).st = .running ∧ ((marking p).en 1).stopping = false ∧ ((marking p).en 1).markAt ≠ none ∧ ((marking p).en 1).live = []
    ∧ (marking p).partner = p := by decide +kernel

theorem witness_ThePartnersMemoryIsKeptAndServed_place : (pairIn { st := .paired }).partner.linkUp = true
    ∧ (pairIn { st := .paired }).place 63 = some (0, 63) ∧ (pairIn { st := .paired }).availFor partnerInit 0 63 true = .ok
    ∧ [(1 : Byte)] ≠ [] ∧ [(1 : Byte)].length ≤ 64 - 63 % 64 := by decide +kernel
/-- A range the partner's shadow has room for, and one that finds the stack's memory taken. -/
def shadowRange (n : Nat) : MirrorRange := { entry := 0, addr := 0, len := n, partner := 0 }
theorem witness_PartnerFramesWriteMemory_shadow : (pairIn { st := .paired }).shadowFits (pairIn { st := .paired }).partner.inn (shadowRange 65536) = true
    ∧ (pairIn { st := .paired }).shadowFits (pairIn { st := .paired }).partner.inn (shadowRange (2 ^ 40)) = false
    ∧ (shadowRange (2 ^ 40)).entry < 64 := by decide +kernel
theorem witness_ThePartnersMemoryIsKeptAndServed_read : ∃ u l, (pairIn { st := .paired }).readPlace partnerInit (.hbm 0 (63 / 256 * 256)) 256 0
    = (u, .bytes l false) := got_exists _ (by decide +kernel)
theorem witness_ThePartnersMemoryIsKeptAndServed_write : ∃ u, (pairIn { st := .paired }).writePlace partnerInit (.hbm 0 63)
    ([(1 : Byte), 2].take (64 - 63 % 64)) true 0 = (u, .done) := second_exists _ _ (by decide +kernel)
theorem witness_ThePartnersMemoryIsKeptAndServed_response : ∃ (s : State) (o : Out) (p : Part), s.partner.linkUp = true ∧ sidEngine 0 = some (0, 0)
    ∧ (s.ctx 0 0).st = .active ∧ landsInRing (s.ctx 0 0).desc = false ∧ o.failed = false
    ∧ (s.ctx 0 0).outs.find? (fun o => o.awaits 0 atPartner 0) = some o ∧ o.part? atPartner 0 = some p ∧ o.parts = [p] :=
  ⟨(pairIn { st := .paired }).setCtx 0 0 { ctxOn writeDesc with outs := [{ t := 0, parts := [{ stack := atPartner, block := 0, pieces := [(0, 0)] }] }] },
    { t := 0, parts := [{ stack := atPartner, block := 0, pieces := [(0, 0)] }] }, { stack := atPartner, block := 0, pieces := [(0, 0)] },
    by decide +kernel⟩

/-- Ensemble 1 running in a pair. -/
def pairRun (p : Partner) : State := { run1 with partner := { p with id := 9, link := .up } }

theorem witness_ThePairMovesWork_release : (pairRun { st := .paired }).partner.st = .paired
    ∧ (1 < 8 ∧ ((pairRun { st := .paired }).en 1).st = .running ∧ ((pairRun { st := .paired }).en 1).stopping = false)
    ∧ ∀ e < 8, ((pairIn { st := .paired }).en e).st ≠ .running := by decide +kernel
theorem witness_ThePairMovesWork_released : (pairIn { st := .paired, waitRelease := some h0 }).partner.waitRelease = some h0 := by decide +kernel

/-- A checkpoint of ensemble 1 whose choreography stands in host memory at 0. -/
def ckpt1 : Ckpt := { ens := 1, number := 1, base := 0, asid := 0, dyn := 0, next := 64, epoch := 0, figs := [], units := [], syncs := [], remote := [], halted := [], chans := [] }

/-- The state that takes it back. -/
def handedTo : State := { hostBytes prologueBytes (withPage 0x340 linked) with partner := { st := .paired, id := 9, link := .up } }

theorem witness_ThePairMovesWork_handback : ∃ u, handedTo.restore handedTo.ownBank handedTo.ownBank ckpt1 = (u, true) := by
  obtain ⟨u, p, e, h⟩ := read_exists (handedTo.fetchVa callerTlb 0 0 4096) (fun _ p => prologueForced p && field p 6 1 == 1) (by decide +kernel)
  rw [Bool.and_eq_true] at h
  refine second_exists _ _ ?_
  unfold State.restore
  rw [if_neg (by decide +kernel)]
  show (match handedTo.fetchVa callerTlb 0 0 4096 with
    | (s, .bytes p false) => if prologueOk p 0 && field p 6 1 == 1 then (s.restoreFrom handedTo.ownBank ckpt1 p, true) else (s, false)
    | (s, _) => (s, false)).2 = true
  rw [e]
  simp only [prologueForced_eq, h.1, h.2, Bool.and_self, if_true]

/-- An admission that hands ensembles 1 and 2 back. -/
def admitting (a : Admission) : State :=
  { (run1.begin h0).setEn 2 { st := .running } with
    partner := { st := .takenOver, id := 9, link := .up, admission := a, adopted := [1, 2], handed := [ckpt1], waitAdmit := some h0 } }

theorem witness_ThePairMovesWork_confirm : (admitting .handingBack).partner.linkUp = true ∧ (admitting .handingBack).partner.admission = .handingBack
    ∧ (∃ c ∈ (admitting .handingBack).partner.handed, c.ens = 1)
    ∧ ∃ d ∈ (admitting .handingBack).partner.adopted, d ≠ 1 ∧ ((admitting .handingBack).en d).st = .running := by decide +kernel
theorem witness_ThePairMovesWork_phases : (admitting .phaseOne).partner.admission = .phaseOne ∧ (admitting .phaseTwo).partner.admission = .phaseTwo
    ∧ (admitting .phaseTwo).partner.waitAdmit = some h0 ∧ ((admitting .phaseTwo).chan h0.chan).disabler = none
    ∧ h0.tag ∈ ((admitting .phaseTwo).chan h0.chan).inflight := by decide +kernel
theorem witness_ThePairMovesWork_commands : ∀ st ∈ [PairState.paired, .severed, .partitioned, .takenOver], (pairIn { st := st }).mayBegin h0 = true
    ∧ ((pairIn { st := st }).chan h0.chan).disabler = none ∧ ((pairIn { st := st }).begin h0).isVf h0.chan = false
    ∧ (pairIn { st := st }).partner.st ≠ .bench ∧ (pairIn { st := st }).partner.waitRelease = none
    ∧ (pairIn { st := st }).partner.waitAdmit = none ∧ (pairIn { st := st }).partner.admission = .none
    ∧ ∀ e < 8, ((pairIn { st := st }).en e).st = .idle := by decide +kernel
/-- An entry of 384 GiB fits, one of 64 KiB more does not. -/
theorem witness_ThePairMovesWork_mirror : ((pairIn { st := .paired }).begin h0).mirrorFits 63 (384 * 2 ^ 30) 0 = true
    ∧ ((pairIn { st := .paired }).begin h0).mirrorFits 63 (384 * 2 ^ 30 + 65536) 0 = false := by decide +kernel

/-- All of stack 0 serves, its memory without holes between stacks, for a map of device 5 with partner 9 at 0 of host memory. -/
def mapping : State :=
  { linked with pcs := (List.range 64).map (fun p => (p, { st := .serving })), memRegion := 64, hostMem := [(0, 5), (2, 9)] }

theorem witness_MapsAreInstalled : mapping.accepts h0 ∧ (mapping.begin h0).isVf h0.chan = false := by unfold State.accepts; decide +kernel
theorem witness_MapsAreInstalled_table : ∃ x m u l,
    (mapping.begin h0).hostFetch ((mapping.begin h0).hostTlb h0.chan) ((mapping.begin h0).chanPort h0.chan) 0 80 = (x, some m)
    ∧ x.mapRefusal m = none ∧ x.readDev (x.hostTlb h0.chan) 2049 x.zegus.rtBase.toNat 131072 = (u, .bytes l false) := by
  have h : (match (mapping.begin h0).hostFetch ((mapping.begin h0).hostTlb h0.chan) ((mapping.begin h0).chanPort h0.chan) 0 80 with
    | (x, some m) => decide (x.mapRefusal m = none)
        && (match (x.readDev (x.hostTlb h0.chan) 2049 x.zegus.rtBase.toNat 131072).2 with | .bytes _ b => !b | _ => false)
    | _ => false) = true := by decide +kernel
  generalize (mapping.begin h0).hostFetch ((mapping.begin h0).hostTlb h0.chan) ((mapping.begin h0).chanPort h0.chan) 0 80 = y at h
  match y, h with
  | (x, some m), h =>
    rw [Bool.and_eq_true] at h
    obtain ⟨u, l, e⟩ := got_exists _ h.2
    exact ⟨x, m, u, l, rfl, of_decide_eq_true h.1, e⟩

/-! ## Witnesses: management, security, debug -/

theorem witness_ManagementPortsAndI3cCodesAct_free : live.mgmtQuiet .i3c ∧ live.mgmtQuiet .csp := by unfold State.mgmtQuiet State.mgmtFree; decide +kernel
/-- SEC_STATUS at its offset of management space, and the log's own status register. -/
theorem witness_ManagementPortsAndI3cCodesAct_register : (live.mgmtReg (0x2000010 : W32).toNat).isSome = true ∧ (live.mgmtReg (0x2000000 : W32).toNat).isSome = true := by decide +kernel
theorem witness_ManagementPortsAndI3cCodesAct_telemetry : ∃ u l, live.telemetryItem (3 : Byte).toNat (0 : BitVec 16).toNat false = (u, .ok l) := ⟨_, _, rfl⟩
theorem witness_ManagementPortsAndI3cCodesAct_limits : live.limitsOk (usedPairs [(0x03, 70), (0, 0)]) = true
    ∧ (1 : BitVec 2).toNat < 2 ∧ (1 : Byte).toNat < 2 := by decide +kernel
theorem witness_ManagementPortsAndI3cCodesAct_i3c : live.watched = true ∧ live.keeper.i3c.addr = none
    ∧ ({ live with keeper := { i3c := { addr := some 8 } } } : State).keeper.i3c.addr ≠ none
    ∧ ({ live with keeper := { i3c := { addr := some 8 } } } : State).portsUp = true := by decide +kernel

/-- HOT_N is asserted, and the I3C port executes a write while the CSP port is free. -/
def hotPart : State := { live with gov := { live.gov with hot := true } }

/-- What counting beats leaves as it is. -/
theorem countBeats_keeps (s : State) (c u : Nat) : (∀ p, (s.countBeats c u).mport p = s.mport p) ∧ (s.countBeats c u).gov = s.gov := by
  have set : ∀ (s : State) (st : HealthState), (∀ p, (s.setHealth c u st).mport p = s.mport p) ∧ (s.setHealth c u st).gov = s.gov := by
    intro s st
    unfold State.setHealth
    simp only
    split
    · exact ⟨fun _ => rfl, rfl⟩
    · split
      · exact ⟨fun _ => rfl, rfl⟩
      · exact ⟨fun p => by rw [State.raise_mport]; rfl, by rw [State.raise_frame]; rfl⟩
  have settled : ∀ s : State, (∀ p, (s.settle c u).mport p = s.mport p) ∧ (s.settle c u).gov = s.gov := by
    intro s
    unfold State.settle
    simp only
    split
    · exact ⟨fun _ => rfl, rfl⟩
    · split
      · split
        · exact set _ _
        · exact ⟨fun _ => rfl, rfl⟩
      · split
        · exact set _ _
        · exact ⟨fun _ => rfl, rfl⟩
      · exact ⟨fun _ => rfl, rfl⟩
  unfold State.countBeats
  simp only
  split
  · exact ⟨fun _ => rfl, rfl⟩
  · split
    · exact ⟨fun _ => rfl, rfl⟩
    · exact settled _

theorem countAllBeats_keeps (s : State) : (∀ p, s.countAllBeats.mport p = s.mport p) ∧ s.countAllBeats.gov = s.gov := by
  refine State.foldl_frame _ (fun a b => (∀ p, b.mport p = a.mport p) ∧ b.gov = a.gov) (fun _ => ⟨fun _ => rfl, rfl⟩)
    (fun _ _ _ h k => ⟨fun p => (k.1 p).trans (h.1 p), k.2.trans h.2⟩) (fun s x => ?_) _ s
  exact State.foldl_frame _ (fun a b => (∀ p, b.mport p = a.mport p) ∧ b.gov = a.gov) (fun _ => ⟨fun _ => rfl, rfl⟩)
    (fun _ _ _ h k => ⟨fun p => (k.1 p).trans (h.1 p), k.2.trans h.2⟩) (fun s u => countBeats_keeps s x.1 u) _ s

/-- While HOT_N is asserted and no write waits, an interval leaves the ports as they are. -/
theorem interval_hot_ports (s : State) (w tw : Nat) (h : s.gov.hot = true) (q : s.keeper.limitQ = []) (p : MPort) :
    (s.interval w tw).mport p = s.mport p := by
  unfold State.interval State.takeLimits
  simp only [q, List.isEmpty_nil, if_true, (countAllBeats_keeps _).2, h, Bool.true_or]
  exact (countAllBeats_keeps _).1 p

theorem witness_ManagementPortsAndI3cCodesAct_held :
    (live.setMport .i3c { live.mport .i3c with busy := true }).mgmtFree .csp
    ∧ ((live.setMport .i3c { live.mport .i3c with busy := true }).mport (otherPort .csp)).busy = true
    ∧ hotPart.watched = true ∧ hotPart.keeperRuns = true ∧ hotPart.keeper.held = []
    ∧ ((hotPart.interval 0 0).mport (otherPort .csp)).busy = false :=
  ⟨by unfold State.mgmtFree; decide +kernel, by decide +kernel, by decide +kernel, by decide +kernel, by decide +kernel,
    by rw [interval_hot_ports hotPart 0 0 (by decide +kernel) (by decide +kernel)]; decide +kernel⟩

/-- The part with boot slot A and the firmware slot that is not active owned by the I3C port. -/
def owning : State :=
  { live with loader := { slots := [(0, { owner := some .i3c })] }, sec := { fw := [(1, { owner := some .i3c }), (3, { owner := some .i3c })] } }

theorem witness_SlotsAndFirmwareAreWrittenAndRun_slot : owning.mgmtQuiet .i3c ∧ owning.loader.phase ≠ 1
    ∧ chunkRefusal (owning.slot (flag false)) .i3c 0 64 = none ∧ chunkRefusal (owning.slot (flag false)) .i3c (2 ^ 20 - 1) 64 = none
    ∧ chunkRefusal (owning.slot (flag true)) .csp 0 4096 = none := by
  unfold State.mgmtQuiet State.mgmtFree; decide +kernel
theorem witness_SlotsAndFirmwareAreWrittenAndRun_stage : owning.sec.stTrial = false ∧ owning.sec.fwTrial = false
    ∧ chunkRefusal (owning.fwSlotOf (1 - owning.sec.activeFw)) .i3c (2 ^ 20 - 1) 64 = none
    ∧ chunkRefusal (owning.fwSlotOf (5 - owning.sec.activeSt)) .i3c (2 ^ 20 - 1) 64 = none := by decide +kernel
/-- Both inactive slots hold a staged image. -/
def staged : State := { live with sec := { fw := [(1, { valid := true }), (3, { valid := true })] } }
theorem witness_SlotsAndFirmwareAreWrittenAndRun_activate : staged.mgmtQuiet .csp ∧ staged.sec.stTrial = false ∧ staged.sec.fwTrial = false
    ∧ (staged.fwSlotOf (1 - staged.sec.activeFw)).valid = true ∧ (staged.fwSlotOf (5 - staged.sec.activeSt)).valid = true := by
  unfold State.mgmtQuiet State.mgmtFree; decide +kernel
theorem witness_SlotsAndFirmwareAreWrittenAndRun_trial : ({ live with sec := { fwTrial := true, stTrial := true } } : State).sec.fwTrial = true
    ∧ ({ live with sec := { fwTrial := true, stTrial := true } } : State).sec.stTrial = true := by decide +kernel
/-- A mismatch one tick less than a second after the last, and one a second after it. -/
theorem witness_SlotsAndFirmwareAreWrittenAndRun_restart : live.watched = true ∧ live.keeper.stopped = false
    ∧ (∀ x, live.keeper.lockstep = some x → x + secondTicks ≤ live.ltc.toNat)
    ∧ ({ live with ltc := 300000004, keeper := { lockstep := some 5 } } : State).ltc.toNat < 5 + secondTicks
    ∧ 4 + secondTicks ≤ ({ live with ltc := 300000004, keeper := { lockstep := some 4 } } : State).ltc.toNat :=
  ⟨by decide +kernel, by decide +kernel, fun x h => absurd h (by simp [show live.keeper.lockstep = none by decide +kernel]), by decide +kernel, by decide +kernel⟩

/-- Two owners live, class 1 at value 3. -/
def fused : State := { live with sec := { fuses := { owners := [(0, 1), (1, 2)], arb := [(1, 7)] } } }

theorem witness_FusesAndKeysAreWritten_owner : fused.mgmtQuiet .csp ∧ Map.get fused.sec.fuses.owners 0 (2 : Byte).toNat = 0
    ∧ (∃ k < 4, k ≠ (0 : Byte).toNat ∧ fused.sec.fuses.ownerLive k = true) ∧ (∃ k < 4, k ≠ (3 : Byte).toNat ∧ fused.sec.fuses.ownerLive k = true) := by
  unfold State.mgmtQuiet State.mgmtFree; decide +kernel
theorem witness_FusesAndKeysAreWritten_rollback : fused.sec.fuses.arbValue (1 : Byte).toNat < (64 : Byte).toNat ∧ (64 : Byte).toNat ≤ 64
    ∧ (∀ n, fused.runningSvn (1 : Byte).toNat = some n → (64 : Byte).toNat ≤ n)
    ∧ fused.sec.fuses.arbValue (15 : Byte).toNat < (1 : Byte).toNat ∧ (∀ n, fused.runningSvn (15 : Byte).toNat = some n → (1 : Byte).toNat ≤ n) :=
  ⟨by decide +kernel, by decide, fun n h => absurd (h.symm.trans (show fused.runningSvn (1 : Byte).toNat = none by decide +kernel)) (by intro x; cases x), by decide +kernel,
    fun n h => absurd (h.symm.trans (show fused.runningSvn (15 : Byte).toNat = none by decide +kernel)) (by intro x; cases x)⟩
theorem witness_FusesAndKeysAreWritten_key : fused.mgmtQuiet .i3c ∧ fused.pins.tamperN = true
    ∧ fused.loader.queue.any (fun l => l.usesBbk && !l.ended) = false := by
  unfold State.mgmtQuiet State.mgmtFree; decide +kernel

/-- What chunks, fuse writes and firmware requests are refused on. -/
theorem witness_BootSlotsAreWritten_refused : owning.mgmtQuiet .i3c ∧ ({ owning with loader := { phase := 1 } } : State).mgmtQuiet .i3c
    ∧ chunkRefusal (owning.slot (flag false)) .i3c 0 63 = some stMalformed ∧ chunkRefusal (owning.slot (flag false)) .i3c (2 ^ 20) 64 = some stRange
    ∧ chunkRefusal (owning.slot (flag false)) .csp 0 64 = some stBusy ∧ chunkRefusal (owning.slot (flag true)) .csp 1 64 = some stMalformed := by
  unfold State.mgmtQuiet State.mgmtFree; decide +kernel
theorem witness_FuseWritesActOnce_refused : Map.get fused.sec.fuses.owners 0 (1 : Byte).toNat ≠ 0 ∧ 4 ≤ (4 : Byte).toNat
    ∧ ((∀ k < 4, k ≠ (0 : Byte).toNat → ({ live with sec := { fuses := { owners := [(0, 1)] } } } : State).sec.fuses.ownerLive k = false)
      ∧ ({ live with sec := { fuses := { owners := [(0, 1)] } } } : State).mgmtQuiet .csp)
    ∧ (16 ≤ (16 : Byte).toNat ∧ 64 < (65 : Byte).toNat ∧ (3 : Byte).toNat ≤ fused.sec.fuses.arbValue (1 : Byte).toNat)
    ∧ (∃ n, ({ live with sec := { fw := [(2, { valid := true }), (3, { valid := true })] } } : State).runningSvn (1 : Byte).toNat = some n ∧ n < (64 : Byte).toNat) := by
  refine ⟨by decide +kernel, by decide, ⟨by decide +kernel, by unfold State.mgmtQuiet State.mgmtFree; decide +kernel⟩, by decide +kernel, ?_⟩
  exact ⟨0, by decide +kernel, by decide⟩
/-- A load by the sealed key that is in the queue. -/
def keyedLoad : State := { fused with loader := { queue := [{ loadOf 1 with header := zeros 7 ++ [1] ++ zeros 504 }] } }
theorem witness_KeysAreWrittenAndErased_busy : keyedLoad.mgmtQuiet .i3c ∧ keyedLoad.pins.tamperN = true
    ∧ keyedLoad.loader.queue.filter (fun l => l.usesBbk && !l.ended) ≠ []
    ∧ ({ fused with pins := { tamperN := false } } : State).mgmtQuiet .csp ∧ State.reset.rst.level = .power
    ∧ State.reset.loader.queue.filter (fun l => l.usesBbk && !l.ended) = [] := by
  unfold State.mgmtQuiet State.mgmtFree; decide +kernel
theorem witness_FirmwareIsStagedAndRun_refused : ({ live with sec := { fwTrial := true, stTrial := true } } : State).mgmtQuiet .csp
    ∧ live.sec.fwTrial = false ∧ live.sec.stTrial = false ∧ (live.fwSlotOf (1 - live.sec.activeFw)).valid = false
    ∧ (live.fwSlotOf (5 - live.sec.activeSt)).valid = false ∧ live.mgmtQuiet .csp
    ∧ chunkRefusal (owning.fwSlotOf (1 - owning.sec.activeFw)) .csp 0 64 = some stBusy := by
  unfold State.mgmtQuiet State.mgmtFree; decide +kernel

/-- Port A up, in each state of its session. -/
theorem witness_TheDeviceAttests : linked.mgmtQuiet .csp ∧ ∀ v ∈ [0, 1, 2],
    ((linked.setSession 0 v).port 0).up = true ∧ (linked.setSession 0 v).rst.pllLost = false ∧ ((linked.setSession 0 v).port 1).up = false ∧ Map.get (linked.setSession 0 v).sec.sessions 0 0 = v := by
  unfold State.mgmtQuiet State.mgmtFree; decide +kernel

/-- The part at a debug level, in bench mode and installed. -/
def locked (lock : BitVec 2) (id : BitVec 14) : State := { live with sec := { fuses := { debugLock := lock } }, partner := { id := id } }

theorem witness_TapInstructionsStand : ∀ x ∈ [((0 : BitVec 2), 0), ((2 : BitVec 2), 1), ((3 : BitVec 2), 2)],
    (locked x.1 0x3FFF).rst.level ≠ .power ∧ (locked x.1 0x3FFF).debugLevel = x.2 := by decide +kernel
theorem witness_TapInstructionsStand_instruments :
    (∀ i ∈ [Instrument.sensor 1023, .callerTrace, .linkResends 0], (locked 2 9).debugLevel ≤ (instrumentRights i).1 ∧ (locked 2 9).debugLevel < 2
      ∧ ((instrumentRights i).2 = true → (locked 2 9).installed = false))
    ∧ (∀ i ∈ [Instrument.bistBlockRam 0, .keeperHalt true], (locked 0 0x3FFF).debugLevel ≤ (instrumentRights i).1
      ∧ ((instrumentRights i).2 = true → (locked 0 0x3FFF).installed = false)
      ∧ (instrumentRights i).2 = true ∧ (locked 0 9).installed = true)
    ∧ (∀ i ∈ [Instrument.tileStore 0 0, .hbm 63 0], (instrumentRights i).1 < (locked 1 9).debugLevel)
    ∧ (locked 0 9).stackOn 0 = true := by decide +kernel
theorem witness_TapInstructionsStand_held : State.reset.rst.level = .power ∧ 2 ≤ (locked 3 9).debugLevel := by decide +kernel
theorem witness_TapInstructionsStand_run : ∃ t l, (locked 2 9).instrument (.sensor 1023) = (t, l) := ⟨_, _, rfl⟩

/-! ## Terms that WellFormed refuses -/

/-- A request and a frame that are well formed. -/
def reqOk : Req := { stack := 11, block := 256, kind := .write, mask := 15, cls := 0, vcrit := false, init := 0, sub := 0, seq := 0, epoch := 0,
                     poisoned := false, first := 0, last := 255, data := List.replicate 256 0, xform := .none }
def frameTwo : Frame := { frameOf 0 0 with len := 3, data := List.replicate 128 0 }

theorem test_wf_accepts : ∀ i ∈ [Instr.wrReq reqOk, .put 15 frameTwo, .start h0 1, .mxp 1535, .dload 767, .mrun 779, .ijtag (.tileStore 511 65535)],
    i.wf = true := by decide +kernel
theorem test_wf_units : ∀ i ∈ [Instr.nop 780, .nop 2048, .mxp 512, .mxp 2048, .vadd 1536 {}, .dload 511, .dload 768, .mload 767, .mrun 780,
    .tsScrub 512 0 .clean, .tsScrub 0 65536 .clean, .transactionIssue 256 0, .tileMigration 512, .seMigration 256, .tableWalk 4096 0 0,
    .walkThrough (.tile 512) false 0, .walkThrough (.vectorUnit 512) false 0, .walkThrough (.streamEngine 256) false 0, .walkThrough (.cluster 96) false 0,
    .locateReRun 0 [(4, [])], .locateReRun 0 [(0, [66])], .record 1 16 0 0 0, .record 1 0 6 0 0, .countPeriod 16 0 1], i.wf = false := by decide +kernel
theorem test_wf_memory : ∀ i ∈ [Instr.wrReq { reqOk with stack := 12 }, .wrReq { reqOk with block := 2 ^ 36 }, .wrReq { reqOk with block := 255 },
    .wrReq { reqOk with last := 256 }, .wrReq { reqOk with first := 9, last := 8 }, .wrReq { reqOk with data := [] }, .rdReq reqOk, .addReq reqOk,
    .requestIssue 12 0 0 .clean .passed, .requestIssue 0 64 0 .clean .passed, .rowClose 0 0 64, .hbmScrub 0 (2 ^ 30) .clean, .parityAlert 0 0 (2 ^ 36),
    .dramTempRead 0 [1], .evacuation 0 [2 ^ 30], .initialTraining 0 [64] 0, .gather 12 0], i.wf = false := by decide +kernel
theorem test_wf_hosts_and_links : ∀ i ∈ [Instr.hostNop { h0 with chan := 4100 }, .poll 256 ⟨0, 0, []⟩, .perst 2, .pcieTraining 0 2, .flr 4 0, .flr 0 64,
    .registerWrite 256 0 false 0, .completionWrite 4100, .setLimits h0 (List.replicate 8 (0, 0)), .put 16 frameTwo, .put 0 { frameTwo with data := [] },
    .recovery 0 [18], .ident 0 0 0 0 [] false [], .laneSparing 0 18 0, .laneSparing 0 0 18, .resilver ⟨64, 0, 0, 0⟩ false 0 [] false,
    .verdictTimeout 256 0 0, .arrive (.caller 8) 0 1, .arrive (.stream 0 8) 0 1, .arrive (.link 0 16) 0 1], i.wf = false := by decide +kernel
theorem test_wf_rest : ∀ i ∈ [Instr.gwRead 28 0, .mul 6144 0 dspIn, .regionRelease 45, .blockReset .csp 0 ⟨0, 512⟩, .blockReset .csp 0 ⟨1, 256⟩,
    .blockReset .csp 0 ⟨2, 768⟩, .blockReset .csp 0 ⟨3, 45⟩, .blockReset .csp 0 ⟨4, 4⟩, .railFault 0 (some 32), .voltageSettled 32, .slotOwnershipTimeout 6,
    .slotWrite .csp 0 false false 0 (List.replicate 4097 0), .attest .csp 0 [] 0, .challenge 0 0 [], .getVersion 4 [],
    .ijtag (.stepTrace 780), .ijtag (.accumulator 0 4 0 0), .ijtag (.accumulator 0 0 8 0), .ijtag (.accumulator 0 0 0 64), .ijtag (.hbm 12 0)], i.wf = false := by
  decide +kernel

/-! ## Worked examples of the spec -/

/-- The code and the SAT events of a conversion, round to nearest even. -/
def rounded (mode : Byte) (f : Elem) (x : Machine.Num) : Nat × Nat := ((convert mode f x 0).code, (convert mode f x 0).sat)

/-- The rounding table of the number formats chapter, SATURATE in fast mode. -/
theorem test_rounding_examples :
    rounded 0 e4m3 (.fin 17 (-4)) = (0x38, 0) ∧ rounded 0 e4m3 (.fin 19 (-4)) = (0x3A, 0) ∧ rounded 0 e4m3 (.fin 464 0) = (0x7E, 0)
    ∧ rounded 0 e4m3 (.fin 465 0) = (0x7E, 1) ∧ rounded 0 e4m3 (.fin (-1) (-10)) = (0, 0) ∧ rounded 0 e4m3 (.fin 3 (-10)) = (2, 0)
    ∧ rounded 0 e5m2 (.fin 61439 0) = (0x7B, 0) ∧ (rounded 0 e5m2 (.fin 61440 0)).1 = 0x7B ∧ rounded 0 e2m3 (.fin 31 (-2)) = (0x1F, 1)
    ∧ rounded 0 e2m1 (.fin 3 (-2)) = (2, 0) ∧ rounded 0 e2m1 (.fin 5 0) = (6, 0) ∧ rounded 0 bf16 (.fin 257 (-8)) = (0x3F80, 0)
    ∧ rounded 0 bf16 (.fin 0x103 (-8)) = (0x3F82, 0) ∧ rounded 0 fp16 (.fin 3 (-16)) = (0, 0)
    ∧ rounded 0 fp16 (.fin 4095 (-26)) = (0x400, 0) ∧ rounded 0 int8 (.fin 5 (-1)) = (2, 0) ∧ rounded 0 int8 (.fin (-651) (-2)) = (0x80, 1) := by
  decide +kernel
/-- Its lines for PROPAGATE and strict mode. -/
theorem test_rounding_modes : rounded 4 e4m3 (.fin 465 0) = (0x7F, 0) ∧ rounded 4 e5m2 (.fin 61440 0) = (0x7C, 0) ∧ rounded 1 fp16 (.fin 3 (-16)) = (0x300, 0) := by
  decide +kernel
/-- Stochastic rounding of 1.03125 and 1.0625 to FP8 E4M3 (worked example): up from u = 49,152 and u = 32,768 on. -/
theorem test_stochastic_example : (convert 2 e4m3 (.fin 33 (-5)) 49151).code = 0x38 ∧ (convert 2 e4m3 (.fin 33 (-5)) 49152).code = 0x39
    ∧ (convert 2 e4m3 (.fin 17 (-4)) 32767).code = 0x38 ∧ (convert 2 e4m3 (.fin 17 (-4)) 32768).code = 0x39 := by decide +kernel

/-- The block of the AXF4 example: 96 or 100, 12, 5, −40, 0.2, and zeros. -/
def axf4Row (first : Int) : List (Machine.Num × Nat) :=
  ([Machine.Num.fin first 0, .fin 12 0, .fin 5 0, .fin (-40) 0, .fin 13421773 (-26)] ++ List.replicate 11 (Machine.Num.fin 0 0)).map (fun x => (x, 0))
theorem test_axf4_example : (convertBlock 0 0x13 0x3F800000 (axf4Row 96)).1.scale = 0x98 ∧ (convertBlock 0 0x13 0x3F800000 (axf4Row 96)).1.crush = 1
    ∧ pack 0x13 (convertBlock 0 0x13 0x3F800000 (axf4Row 96)).1.codes = [0x27, 0xC1, 0, 0, 0, 0, 0, 0]
    ∧ (convertBlock 0 0x13 0x3F800000 (axf4Row 100)).1.scale = 0x99 ∧ nth (convertBlock 0 0x13 0x3F800000 (axf4Row 100)).1.codes 0 0 = 7 := by decide +kernel

/-- The placement examples of R207 and of the controllers' chapter. -/
theorem test_placement_examples : live.place 0x5000 = some (5, 0) ∧ live.place 0xC05000 = some (11, 0x100000) ∧ live.address 11 0x100000 = 0xC05000
    ∧ pcOf 0x100000 = 0 ∧ pcOf 0x400500 = 4 := by decide +kernel

/-- One cycle of DSP block 6143, with one program word. -/
def dspStep (word : Nat) (f : State → Result) (d : Dsp) : Option Dsp := match f (dspOn word d) with | .next t => some (t.dsp 6143) | _ => none

/-- The narrowing of R333: 1,234,567,890,123 and its negative. -/
theorem test_mov_example :
    (dspStep 0x600000 (exec (.mov 6143 0 (dspIn))) { a0 := BitVec.ofInt 56 1234567890123 }).map (fun d => (d.out0, d.exp, d.valid)) = some (4709502, 18, true)
    ∧ (dspStep 0x600000 (exec (.mov 6143 0 (dspIn))) { a0 := BitVec.ofInt 56 (-1234567890123) }).map (fun d => (d.out0.toInt, d.exp)) = some (-4709503, 18) := by
  decide +kernel
/-- The instructions MUL A0, C[P], REPEAT 31 and MAC A0, C[P] of the FIR example, by their operand bits: A is 5, the coefficient 7. -/
theorem test_fir_example :
    (dspStep 0x240000 (exec (.mul 6143 0x40000 { dspIn with a := 5 })) { coef := [(31, 7)], p := 31 }).map (fun d => (d.pipe, d.p, d.pc)) = some ([⟨3, false, 0, 35⟩], 0, 1)
    ∧ (dspStep 0x80001E (exec (.repeatN 6143 0x1E (dspIn))) {}).map (fun d => (d.left, d.pc)) = some (some 31, 1)
    ∧ (dspStep 0x340000 (exec (.mac 6143 0x40000 { dspIn with a := 5 })) { coef := [(0, 7)], a0 := 1, left := some 31, pipe := [⟨1, false, 1, 35⟩] }).map
        (fun d => (d.a0, d.pipe, d.left, d.pc)) = some (36, [⟨3, false, 1, 35⟩], some 30, 0)
    ∧ (dspStep 0x340000 (exec (.mac 6143 0x40000 { dspIn with a := 5 })) { coef := [(0, 7)], left := some 1 }).map (fun d => (d.left, d.pc)) = some (none, 1) := by
  decide +kernel

/-- The example of the power governor: OP1 predicts 1,687.5 W of tier power, OP2 1,469 W and meets a cap of 3,000 W. -/
theorem test_cap_example : live.predicted 1900 1 = 1688 ∧ live.predicted 1900 2 = 1469
    ∧ ({ live with keeper := { limits := [(1, 3000)] } } : State).powerPoint 3306 1900 = (2, true) := by decide +kernel

/-- The example of the register map: GW_STAT9 at BAR0 offset 0x04_014C, and what it reads. -/
theorem test_gateway_status_example : deviceReg 0x4014C = some (.gwStat 9) ∧ State.reset.readReg (.gwStat 9) = 0x200
    ∧ ((live.setRegion 17 { st := .active, isolated := false, held := false }).setGw 9 { region := 17, refused := true }).readReg (.gwStat 9) = 0x800 := by decide +kernel

/-- The check value of CRC-32C: that of the nine characters 1 to 9. -/
theorem test_crc32c : crc32c ((List.range 9).map (fun i => BitVec.ofNat 8 (0x31 + i))) = 0xE3069283 := by decide +kernel

/-- Record codes by the table and its examples (R514). -/
theorem test_record_codes : cVerdictFailed = 0x0113 ∧ cWalkFailed = 0x0176 ∧ cZlLinkDown = 0x01D6 := by decide

/-- The command at the front of the queue runs first. -/
theorem test_queue_order : (match step { live with pending := [.idcode, .bypass] } with
    | .next t => (t.pending == [Instr.bypass]) && (t.dbg.dr == [0x53, 0x54, 0x1E, 0x1B]) | _ => false) = true := by
  decide +kernel
/-- A word spells no command, and reset has none waiting. -/
theorem test_no_words : decodeTableWord 8 0 = none ∧ State.reset.pending = [] ∧ State.reset.withFetchWord 8 0 = State.reset := by decide +kernel

/-- The worked read of the floor network: SE37 reads pseudo-channel 0 of M11; its header, its turn and its time. -/
theorem test_floor_example :
    initPlace 0x225 = some (6, 3, 1) ∧ memPlace 11 0 0 = (27, 17, 0) ∧ entryOf (27, 17, 0) = (27, 16)
    ∧ hops (6, 3, 1) (27, 17, 0) = 34 ∧ zeroLoad (6, 3, 1) (27, 17, 0) = 75 ∧ zeroLoad (27, 17, 0) (6, 3, 1) = 75
    ∧ routeAt (6, 3, 1) (27, 17, 0) 21 = (27, 3) ∧ routeAt (27, 17, 0) (6, 3, 1) 21 = (6, 16) ∧ routeAt (27, 17, 0) (6, 3, 1) 34 = (6, 3)
    ∧ hops (1, 1, 0) (32, 16, 0) = 46 ∧ zeroLoad (1, 1, 0) (32, 16, 0) = 94 := by decide +kernel

/-- The worked lands: EN1 is LK05_RX2_N; A1, A12, B1, B12 and C1; VK fills D5–E8; the names of rows 12, 13, 132, 133, 144. -/
theorem test_lands_example :
    rowName 108 = ['E', 'N'] ∧ land 108 1 = .lane (.link 5) 2 true true ∧ land 1 1 = .ctl .refclkP ∧ land 1 12 = .ctl .i3cSda
    ∧ land 2 1 = .ctl .cspClk ∧ land 2 12 = .ctl .ptnHbOut ∧ land 3 1 = .ctl .ptnHbIn ∧ land 4 4 = .sense .vk true
    ∧ land 4 5 = .rail .vk ∧ land 5 8 = .rail .vk ∧ land 5 9 = .gnd ∧ rowName 12 = ['M'] ∧ rowName 13 = ['N']
    ∧ rowName 132 = ['F', 'W'] ∧ rowName 133 = ['F', 'Y'] ∧ rowName 144 = ['G', 'L'] := by decide +kernel

/-- The GND and VIN_CORE lands of R527. -/
theorem test_lands_total :
    ((List.range 20736).filter (fun i => land (i / 144 + 1) (i % 144 + 1) == .gnd)).length = 15256
    ∧ ((List.range 20736).filter (fun i => land (i / 144 + 1) (i % 144 + 1) == .rail .vinCore)).length = 2304 := by decide +kernel
end Sys2Proof.Tests
end

section
/-! PROOFS. A token past 255 and a credit return past the ceiling (R48): what a record that is no COUNTED code writes to the
fault log, how a RUNNING ensemble stops on a fault, and the fault of a unit that these two make up. -/

namespace Sys2Proof.Machine

namespace State

variable (s : State)

/-! ## A record in the fault log -/

@[simp] theorem alertOn_general (a : BitVec 7) : (s.alertOn a).keeper.general = s.keeper.general := by
  unfold alertOn setAlert
  simp only [markAlert_keeper]
  split <;> rfl

/-- A logged record stands at the next place of the general log (R514). -/
theorem logRec_general (r : Rec) :
    (s.logRec r).keeper.general = s.keeper.general.set {} (s.keeper.nextGen % 520192) r := by
  unfold logRec
  simp only [alertOn_general]
  split <;> rfl

@[simp] theorem emit_keeper (r : Rec) : (s.emit r).keeper = (s.logRec r).keeper := by
  unfold emit
  simp only
  rw [foldl_chans _ _ (fun s c => offer_frame s c r)]

@[simp] theorem place?_code (r : Rec) : (s.place? r).code = r.code := by
  unfold place?
  split
  · rfl
  · simp only; split <;> rfl

@[simp] theorem place?_sev (r : Rec) : (s.place? r).sev = r.sev := by
  unfold place?
  split
  · rfl
  · simp only; split <;> rfl

@[simp] theorem dress_code (r : Rec) : (s.dress r).code = r.code := by
  unfold dress
  simp only
  split <;> exact place?_code s r

@[simp] theorem dress_sev (r : Rec) : (s.dress r).sev = r.sev := by
  unfold dress
  simp only
  split <;> exact place?_sev s r

/-- A record whose code is not COUNTED is logged at once, under its code (R316). -/
theorem raise_logs {r : Rec} (hr : r.sev ≠ 0) :
    ((s.raise r).keeper.general.get {} (s.keeper.nextGen % 520192)).code = r.code := by
  have logged : ∀ u : State, u.keeper = s.keeper →
      ((u.emit (u.dress r)).keeper.general.get {} (s.keeper.nextGen % 520192)).code = r.code := by
    intro u hu
    simp [logRec_general, hu]
  unfold raise
  split <;> simp only [dress_sev, hr, if_false]
  · exact logged _ (by rw [injected_frame])
  · exact logged s rfl

/-! ## A RUNNING ensemble stops -/

theorem addCompl_frame (c : Nat) (x : Compl) : s.addCompl c x = { s with chans := (s.addCompl c x).chans } := rfl

/-- An ensemble that leaves RUNNING forgets the START that began it, and posts completions. -/
theorem leaveRunning_frame (e st : Nat) (x : BitVec 128) (d : W32) :
    s.leaveRunning e st x d = { s with ens := s.ens.set {} e { s.en e with starter := none },
                                       chans := (s.leaveRunning e st x d).chans } := by
  unfold leaveRunning
  simp only
  rw [foldl_chans _ _ (fun s c => addCompl_frame s c _)]
  split
  · rfl
  · rw [complete_frame]; rfl

/-- A RUNNING ensemble that stops on a fault is FAULTED with the fault's code (R67). -/
theorem stopOn_running {e : Nat} (code : Nat) (he : e < 8) (hr : (s.en e).st = .running) :
    s.stopOn e code
      = (s.setEn e { s.en e with st := .faulted, fault := code }).leaveRunning e stFaulted 0 (BitVec.ofNat 32 code) := by
  simp [stopOn, he, hr]

theorem stopOn_frame (e code : Nat) :
    s.stopOn e code = { s with ens := (s.stopOn e code).ens, chans := (s.stopOn e code).chans } := by
  unfold stopOn
  split
  · simp only; rw [leaveRunning_frame]; rfl
  · rfl

theorem stopOn_en {e : Nat} (code : Nat) (he : e < 8) (hr : (s.en e).st = .running) (d : Nat) :
    (s.stopOn e code).en d
      = if d = e then { s.en e with st := .faulted, fault := code, starter := none } else s.en d := by
  rw [stopOn_running s code he hr, leaveRunning_frame]
  simp only [en, setEn, Map.get_set]
  split <;> simp_all

/-! ## A fault of a unit (R48) -/

/-- A unit's fault changes records, completions and ensembles, and nothing else. -/
theorem unitStop_frame (ub code : Nat) :
    s.unitStop ub code = { s with ens := (s.unitStop ub code).ens, fresh := (s.unitStop ub code).fresh,
                                  counts := (s.unitStop ub code).counts, keeper := (s.unitStop ub code).keeper,
                                  pins := (s.unitStop ub code).pins, chans := (s.unitStop ub code).chans } := by
  unfold unitStop
  simp only
  rw [stopOn_frame, raise_frame]

/-- A unit's fault whose code is not COUNTED is logged. -/
theorem unitStop_logs (ub : Nat) {code : Nat} (hc : sevOf code ≠ 0) :
    ((s.unitStop ub code).keeper.general.get {} (s.keeper.nextGen % 520192)).code = code := by
  unfold unitStop
  simp only
  rw [stopOn_frame]
  exact raise_logs s hc

/-- The ensemble of a running unit is FAULTED with the code of the unit's fault, and every other one stands. -/
theorem unitStop_en {ub : Nat} (code : Nat) (hr : s.runs ub = true) (d : Nat) :
    (s.unitStop ub code).en d
      = if d = s.ensOf ub then { s.en d with st := .faulted, fault := code, starter := none } else s.en d := by
  simp only [runs, Bool.and_eq_true, decide_eq_true_eq, beq_iff_eq] at hr
  obtain ⟨⟨he, hst⟩, -⟩ := hr
  unfold unitStop
  simp only
  rw [stopOn_en _ _ he (by rw [raise_en]; exact hst)]
  split <;> simp_all

/-- What a fault of a running unit does: its code is logged, and its ensemble alone is FAULTED with that code (R67). -/
theorem unitStop_stops {ub code : Nat} (hc : sevOf code ≠ 0) (hr : s.runs ub = true) :
    ((s.unitStop ub code).keeper.general.get {} (s.keeper.nextGen % 520192)).code = code
      ∧ ((s.unitStop ub code).en (s.ensOf ub)).st = .faulted ∧ ((s.unitStop ub code).en (s.ensOf ub)).fault = code
      ∧ ∀ d, d ≠ s.ensOf ub → (s.unitStop ub code).en d = s.en d := by
  have hen := s.unitStop_en code hr
  refine ⟨s.unitStop_logs ub hc, ?_, ?_, fun d hd => ?_⟩
  · rw [hen, if_pos rfl]
  · rw [hen, if_pos rfl]
  · rw [hen, if_neg hd]

theorem unitStop_banks (ub code : Nat) : (s.unitStop ub code).banks = s.banks := by rw [unitStop_frame]

@[simp] theorem unitStop_bk (ub code vb : Nat) : (s.unitStop ub code).bk vb = s.bk vb := by rw [bk, unitStop_banks, bk]

/-- A running unit is no member of a DONE ensemble, so its counters are not frozen (R35). -/
theorem not_frozenCounts_of_runs {ub : Nat} (hr : s.runs ub = true) : s.frozenCounts ub = false := by
  simp only [runs, Bool.and_eq_true, beq_iff_eq] at hr
  obtain ⟨⟨-, hst⟩, -⟩ := hr
  simp [frozenCounts, hst]

end State

/-! ## The token and the credit return -/

/-- A token that no gateway sent, at a member of an ensemble that is not DONE, is taken and counted. -/
theorem execToken_counts {s : State} {ub src : Nat} {tk : BitVec 4} (hsrc : s.tokenSource ub tk.toNat = some src)
    (hgw : gwOfSource src = none) (ht : s.takesTokens ub = true) (hf : s.frozenCounts ub = false) :
    execToken ub tk s = .next ((s.take (.token src ub tk.toNat)).countToken ub tk.toNat) := by
  have ht' : (s.take (.token src ub tk.toNat)).takesTokens ub = true := ht
  have hf' : (s.take (.token src ub tk.toNat)).frozenCounts ub = false := hf
  simp [execToken, hsrc, hgw, ht', hf']

/-- A token at a counter of 255 leaves the counter and is the unit's fault TOKEN_SATURATED (R48). -/
theorem countToken_saturated {s : State} {ub tk : Nat} (h : (s.bk ub).tk.get 0 tk = 255) :
    s.countToken ub tk = s.unitStop ub cTokenSaturated := by
  simp [State.countToken, h]

/-- A credit return past the ceiling leaves the pool at the ceiling and is the unit's fault CREDIT_OVERFLOW (R48). -/
theorem execCredit_overflows {s : State} {ub src : Nat} {p : BitVec 3} {n : BitVec 16}
    (hsrc : s.creditSource ub p.toNat n.toNat = some src) (ht : s.takesTokens ub = true) (hf : s.frozenCounts ub = false)
    (hover : (s.bk ub).ceil.get 0 p.toNat < (s.bk ub).cp.get 0 p.toNat + n.toNat) :
    execCredit ub p n s = .next (((s.take (.credit src ub p.toNat n.toNat)).setBk ub
      { s.bk ub with cp := (s.bk ub).cp.set 0 p.toNat ((s.bk ub).ceil.get 0 p.toNat) }).unitStop ub cCreditOverflow) := by
  have ht' : (s.take (.credit src ub p.toNat n.toNat)).takesTokens ub = true := ht
  have hf' : (s.take (.credit src ub p.toNat n.toNat)).frozenCounts ub = false := hf
  simp [execCredit, hsrc, ht', hf', Nat.not_le.mpr hover]

/-- Settles O11: both are the fault of a running unit, which logs its code and faults the unit's ensemble alone; the
counter keeps its 255, the pool takes its ceiling. -/
theorem saturationAndOverflowStopTheEnsemble : Obligations.SaturationAndOverflowStopTheEnsemble := by
  unfold Obligations.SaturationAndOverflowStopTheEnsemble
  constructor
  · intro s ub tk src hsrc hgw ht hr hfull
    let u := s.take (.token src ub tk.toNat)
    have hexec : exec (.token ub tk) s = .next (u.unitStop ub cTokenSaturated) := by
      rw [exec_token, execToken_counts hsrc hgw ht (s.not_frozenCounts_of_runs hr), countToken_saturated (s := u) hfull]
    obtain ⟨hlog, hst, hfault, hothers⟩ := u.unitStop_stops (code := cTokenSaturated) (by decide) hr
    refine ⟨_, hexec, ?_, u.unitStop_banks ub _, hlog, hst, hfault, hothers, ?_⟩
    · rw [State.unitStop_bk]; exact hfull
    · rw [State.unitStop_frame]; rfl
  · intro s ub p n src hsrc ht hr hover
    let u := (s.take (.credit src ub p.toNat n.toNat)).setBk ub
      { s.bk ub with cp := (s.bk ub).cp.set 0 p.toNat ((s.bk ub).ceil.get 0 p.toNat) }
    have hexec : exec (.credit ub p n) s = .next (u.unitStop ub cCreditOverflow) :=
      execCredit_overflows hsrc ht (s.not_frozenCounts_of_runs hr) hover
    obtain ⟨hlog, hst, hfault, hothers⟩ := u.unitStop_stops (code := cCreditOverflow) (by decide) hr
    refine ⟨_, hexec, ?_, fun vb hvb => ?_, hlog, hst, hfault, hothers, ?_⟩
    · rw [State.unitStop_bk]; exact State.setBk_bk_self _ _ _
    · rw [State.unitStop_bk]; exact State.setBk_bk_ne _ _ hvb
    · rw [State.unitStop_frame]; rfl

end Sys2Proof.Machine
end

section
/-! PROOFS. The record of a virtual channel that waits for credit (R453): what a record that is no COUNTED code writes to the
general log in full, and the raise of ZL_STALLED. -/

namespace Sys2Proof.Machine

namespace State

variable (s : State)

/-! ## A logged record in full -/

@[simp] theorem place?_detail (r : Rec) : (s.place? r).detail = r.detail := by
  unfold place?
  split
  · rfl
  · simp only; split <;> rfl

@[simp] theorem dress_detail (r : Rec) : (s.dress r).detail = r.detail := by
  unfold dress
  simp only
  split <;> exact place?_detail s r

@[simp] theorem injected_place? (i n : Nat) (r : Rec) : (s.injected i n).place? r = s.place? r := by
  unfold place?
  rfl

/-- A record takes nothing from the counts of the floor network. -/
@[simp] theorem injected_dress (i n : Nat) (r : Rec) : (s.injected i n).dress r = s.dress r := by
  unfold dress
  rw [injected_place?]
  rfl

/-- A record whose code is not COUNTED is emitted as it is dressed, by a state with the same keeper: only its packet has been
counted at the initiator that sends it (R277, R316). -/
theorem raise_eq_emit {r : Rec} (hr : r.sev ≠ 0) :
    ∃ u : State, u.keeper = s.keeper ∧ s.raise r = u.emit (s.dress r) := by
  unfold raise
  split
  · next i _ => exact ⟨s.injected i 1, rfl, by simp [hr]⟩
  · exact ⟨s, rfl, by simp [hr]⟩

@[simp] theorem alertOn_nextGen (a : BitVec 7) : (s.alertOn a).keeper.nextGen = s.keeper.nextGen := by
  unfold alertOn setAlert
  simp only [markAlert_keeper]
  split <;> rfl

/-- A logged record moves the general log to its next place (R514). -/
theorem logRec_nextGen (r : Rec) : (s.logRec r).keeper.nextGen = (s.keeper.nextGen + 1) % 2 ^ 40 := by
  unfold logRec
  simp only [alertOn_nextGen]
  split <;> rfl

/-- A record whose code is not COUNTED stands, as it is dressed, at the next place of the general log. -/
theorem raise_general {r : Rec} (hr : r.sev ≠ 0) :
    (s.raise r).keeper.general = s.keeper.general.set {} (s.keeper.nextGen % 520192) (s.dress r) := by
  obtain ⟨u, hkeeper, hraise⟩ := s.raise_eq_emit hr
  rw [hraise, emit_keeper, logRec_general, hkeeper]

theorem raise_nextGen {r : Rec} (hr : r.sev ≠ 0) :
    (s.raise r).keeper.nextGen = (s.keeper.nextGen + 1) % 2 ^ 40 := by
  obtain ⟨u, hkeeper, hraise⟩ := s.raise_eq_emit hr
  rw [hraise, emit_keeper, logRec_nextGen, hkeeper]

/-- The place of the general log that was next holds a raised record. -/
theorem raise_general_get {r : Rec} (hr : r.sev ≠ 0) :
    (s.raise r).keeper.general.get {} (s.keeper.nextGen % 520192) = s.dress r := by
  rw [raise_general s hr, Map.get_set, if_pos rfl]

end State

/-! ## The stalled virtual channel -/

/-- ZL_STALLED is LOGGED (R453, R514). -/
theorem recLink_stalled_sev (die : Nat) : (recLink cZlStalled die).sev = 1 := by
  show sevOf cZlStalled = 1
  decide

/-- A virtual channel of an UP link with a frame waiting and no credit makes a record about the link, with the channel as its
DETAIL (R453; that DETAIL is the channel is the model's choice of log entry 216). -/
theorem execZlStalled_raises {s : State} {die : Nat} {vc : BitVec 2} (hdie : die < 16) (hclock : s.rst.pllLost = false)
    (hup : (s.link die).st = .up) (hcredit : (s.link die).credits.get 0 vc.toNat = 0)
    (hwaits : (s.link die).waiting.any (fun f => f.vc == vc) = true) :
    execZlStalled die vc s = .next (s.raise { recLink cZlStalled die with detail := vc.toNat }) := by
  simp [execZlStalled, hdie, hclock, hup, hcredit, hwaits]

/-- Settles O50: the stall raises one record, which stands at the next place of the general log with its code, severity and
DETAIL; a raise changes no link. -/
theorem stalledChannelsAreRecordedAndWait : Obligations.StalledChannelsAreRecordedAndWait := by
  unfold Obligations.StalledChannelsAreRecordedAndWait
  intro s die vc hdie hclock hup hcredit hwaits
  have hsev : ({ recLink cZlStalled die with detail := vc.toNat } : Rec).sev = 1 := recLink_stalled_sev die
  have hlogged := hsev.trans_ne one_ne_zero
  have hrecord := s.raise_general_get hlogged
  refine ⟨_, execZlStalled_raises hdie hclock hup hcredit hwaits, ?_, ?_, ?_, s.raise_nextGen hlogged, s.raise_frame _⟩
  · rw [hrecord, State.dress_code]; rfl
  · rw [hrecord, State.dress_sev, hsev]
  · rw [hrecord, State.dress_detail]

end Sys2Proof.Machine
end
